-- ==== Sys2Proof/Word.lean ====
section
/-! DEFINITION. The word types of the E3072 (R5, R280, R318) and the two names every file uses for them. -/

namespace Sys2Proof

/-- A 64-bit scalar word: a scalar register, a scalar-plane flit, a system register (R164, R281). -/
abbrev Word := BitVec 64

/-- One byte of any byte-addressed storage (R5). -/
abbrev Byte := BitVec 8

/-- A 512-bit vector register or vector-plane flit (R318). -/
abbrev Vec := BitVec 512

end Sys2Proof
end

