-- ==== Sys2Proof/Syntax.lean ====
section
/-! DEFINITION. The instruction set and the machine's steps as syntax: operand types (R280-R297), the data that the
outside world hands to a step (R36-R51, R25-R27), and `Instr`, one constructor for every row of the opcode table. -/

namespace Sys2Proof

/-- The four directions of a tile's ports and of the grid (R7, R164): N, E, S, W in the order of R283 and R341. -/
inductive Dir where
  | n | e | s | w
  deriving DecidableEq, Repr

/-- The two planes of the static network (R164). -/
inductive Plane where
  | scalar | vector
  deriving DecidableEq, Repr

/-- A 5-bit scalar register field: s0-s27, or a scalar-plane port (R281). -/
inductive SReg where
  | gen (n : Nat)
  | port (d : Dir)
  deriving DecidableEq, Repr

/-- A 5-bit vector register field: v0-v27, or a vector-plane port (R281). -/
inductive VReg where
  | gen (n : Nat)
  | port (d : Dir)
  deriving DecidableEq, Repr

/-- The integer element types (R232, R284), in the order of their codes. -/
inductive ITy where
  | i8 | i16 | i32 | i64 | n8 | n16 | n32 | n64
  deriving DecidableEq, Repr

/-- The floating-point element types (R233, R284), in the order of their codes. -/
inductive FTy where
  | e4m3 | e5m2 | bf16 | f16 | f32 | f64
  deriving DecidableEq, Repr

/-- The four floating-point types on which the special functions are defined (R246, R291 major 0x3C). -/
inductive SpTy where
  | bf16 | f16 | f32 | f64
  deriving DecidableEq, Repr

/-- One side of a conversion (R335). -/
inductive CvtTy where
  | int (t : ITy)
  | flt (t : FTy)
  deriving DecidableEq, Repr

/-- The operand types of DOT (R284). -/
inductive DotTy where
  | i8i8 | i8n8 | n8i8 | n8n8 | e4m3e4m3 | e4m3e5m2 | e5m2e4m3 | e5m2e5m2 | bf16 | f16
  deriving DecidableEq, Repr

/-- The element types of DOTMX (R236, R284). -/
inductive MxTy where
  | e4m3 | e5m2 | i8
  deriving DecidableEq, Repr

/-- The output types of MOUT (R292, R352). -/
inductive OutTy where
  | i8 | n8 | e4m3 | e5m2 | bf16 | f16 | f32
  deriving DecidableEq, Repr

/-- The conditions of BR (R288). -/
inductive BrCond where
  | eq | ne | lt | ge | ltn | gen
  deriving DecidableEq, Repr

/-- The conditions of VCMP (R324). -/
inductive ICond where
  | eq | ne | lt | le | gt | ge
  deriving DecidableEq, Repr

/-- The conditions of VFCMP (R334). -/
inductive FCond where
  | eq | ne | lt | le | gt | ge | un | or
  deriving DecidableEq, Repr

/-- The operations of VRED (R331): the integer ones carry their type. -/
inductive RedOp where
  | add (t : ITy) | min (t : ITy) | max (t : ITy) | and (t : ITy) | or (t : ITy) | xor (t : ITy)
  | fadd (t : FTy) | fmin (t : FTy) | fmax (t : FTy)
  deriving DecidableEq, Repr

/-- The load width codes (R289). -/
inductive LdW where
  | i8 | i16 | i32 | w64 | n8 | n16 | n32
  deriving DecidableEq, Repr

/-- The store width codes (R289); also the element sizes of LDG and STG (R362). -/
inductive StW where
  | b1 | b2 | b4 | b8
  deriving DecidableEq, Repr

/-- The ordering field ORD of AMO and CAS (R290). -/
inductive MemOrd where
  | none | acq | rel | acqrel
  deriving DecidableEq, Repr

/-- The operation code op4 of AMO and RED (R290). -/
inductive AmoOp where
  | swap | add | and | or | xor | min | max | minn | maxn | fadd | fmin | fmax
  deriving DecidableEq, Repr

/-- The operations of AMOORD (R290). -/
inductive OrdOp where
  | swap | add | and | or | xor | min | max | fadd
  deriving DecidableEq, Repr

/-- A source select of a switch word (R297). -/
inductive Sel where
  | none | inp (d : Dir) | cout
  deriving DecidableEq, Repr

/-- The ten selects of ROUTE and ROUTEC (R296): each output of both planes. The core selects have no COUT. -/
structure Sels where
  sn : Sel
  se : Sel
  ss : Sel
  sw : Sel
  score : Sel
  vn : Sel
  ve : Sel
  vs : Sel
  vw : Sel
  vcore : Sel
  deriving DecidableEq, Repr

/-- Why a received frame is dropped (R37, R38). -/
inductive FrameFault where
  | fcs | vlan | address | fragment | macsec | header
  deriving DecidableEq, Repr

/-- A frame at a host port (R36): its octets from the destination address to the FCS. -/
structure Frame where
  port : Nat
  octets : List Byte
  deriving DecidableEq, Repr

/-- What the host writes of a port's MACsec secure channel (R36): the key and the salt of GCM-AES-XPN-256, the SSCI of each direction, and
the association number. -/
structure SecKey where
  key : BitVec 256
  salt : BitVec 96
  rxSsci : BitVec 32
  txSsci : BitVec 32
  an : BitVec 2
  deriving DecidableEq, Repr

/-- A grandmaster's data set, by which the best master clock algorithm compares it with another (R46): the lower value of the first
that differs is the better. -/
structure Grandmaster where
  priority1 : BitVec 8
  clockClass : BitVec 8
  accuracy : BitVec 8
  variance : BitVec 16
  priority2 : BitVec 8
  identity : BitVec 64
  deriving DecidableEq, Repr

/-- A host datagram's header fields and payload (R38), with the port it came by and the address and UDP port it came from. -/
structure HostMsg where
  port : Nat
  peer : BitVec 128 × BitVec 16
  resp : Bool
  kind : Nat
  sync : Bool
  session : BitVec 16
  seq : BitVec 32
  addr : BitVec 64
  aux : BitVec 64
  payload : List Byte
  deriving DecidableEq, Repr

/-- One sample of the sensors of R29: junction temperature in tenths of a degree, package power in W, core current in A,
the time since the previous sample in microseconds, and the die of the hottest sensor. -/
structure PowerSample where
  tj : Nat
  power : Nat
  current : Nat
  us : Nat
  die : Nat
  deriving DecidableEq, Repr

/-- What a fetch that fails reports (R279, R183, R204): cause code, TRAPVAL, TRAPVAL2, and the storage key of the poisoned word that it
found (R270). -/
structure FetchFault where
  cause : Nat
  val : Word
  val2 : Word
  bad : Option Nat
  deriving DecidableEq, Repr

/-- What the Scheduler Units of a gang's packages send each other (R75, R76, R372): a prepare names the home's node, an abort and a
failure the package or the code to report; an arrival at a barrier of the home's node carries its ID, scope and N and the token under
which it is answered, by 0 once its phase completes or by the participant word where it is refused. -/
inductive GangMsg where
  | prepare (home : Nat)
  | ready (tick : Word)
  | start (t : Word)
  | abort (pkg : Nat)
  | done
  | fail (code : Nat)
  | kill
  | barArrive (id : Nat) (scope : Word) (need token : Nat)
  | barAnswer (token : Nat) (refused : Word)
  deriving DecidableEq, Repr

/-- The packet kinds that a Flaster port's MPT receives from another package (R25, R26, R75, R382): accesses by physical address, the
answer to a copy of this package in the layout of its status, and gang messages for a die's Scheduler Unit. A copy names the whole
destination of its request and its words; a reduction of a DET collective its rank, how many ranks there are, and whether the rank has
leaves (R97, R105). -/
inductive FlasterPkt where
  | load (pa : Nat) (bytes : Nat) (src : Nat) (tag : Nat)
  | store (pa : Nat) (data : List Word) (src : Nat) (tag : Nat)
  | atomic (op : AmoOp) (w32 : Bool) (pa : Nat) (operand : Word) (src : Nat) (tag : Nat)
  | copy (pa : Nat) (data : List (Word × Bool)) (aw : Nat) (src : Nat) (tag : Nat) (base words : Nat)
  | reduction (op : AmoOp) (w32 : Bool) (pa : Nat) (operand : Word) (part : Option (Nat × Nat × Bool))
  | ack (tag : Nat) (status : Word)
  | linkFail (tag : Nat)
  | gang (die : Nat) (pkg : Nat) (node : Nat) (m : GangMsg)
  | stamp (pkg : Nat) (locked : Bool) (time : Word)
  deriving DecidableEq, Repr

/-- The signal a node sends to a successor (R63). -/
inductive Sig where
  | done | skip | fail
  deriving DecidableEq, Repr

/-- The routers of the dynamic and the bulk network (R172, R173): package tile index, or 3072 + MPT. -/
inductive RouterNet where
  | dynamic | bulk
  deriving DecidableEq, Repr

/-- One step of the part: an instruction of the core, a word of the switch processor, or an event (opcode table). A core
instruction acts on the thread that State.here names, a switch instruction on its tile, and an event without operands of
its own on the item that State.here names. The constructors without operands stand last. -/
inductive Instr where
  /-- SELF_TEST_DONE (R47). -/
  | selfTestDone (found : List (List Nat)) (hbm : Bool)
  /-- FRAME_DROP (R37). -/
  | frameDrop (port : Nat) (f : Frame)
  /-- MWRITE (R41). -/
  | mwrite (f : Frame)
  /-- MREAD (R41). -/
  | mread (f : Frame)
  /-- MSG (R42). -/
  | msg (f : Frame)
  /-- EVENT_ACK (R43). -/
  | eventAck (f : Frame)
  /-- ENDPOINT_REG_WRITE (R44). -/
  | endpointRegWrite (addr : Nat) (value : Word)
  /-- MCLOST_READ (R269). -/
  | mclostRead (die : Nat)
  /-- CARVE_WRITE (R200). -/
  | carveWrite (mpt : Nat) (value : Word)
  /-- PTP_MESSAGE (R46). -/
  | ptpMessage (port : Nat) (time : Word) (master : Grandmaster)
  /-- PTP_LOCK_LOST (R46). -/
  | ptpLockLost (port : Nat)
  /-- THROTTLE_SAMPLE (R29). -/
  | throttleSample (p : PowerSample)
  /-- CURRENT_EXCURSION (R29). -/
  | currentExcursion (amps : Nat)
  /-- EOL_RECOMPUTE (R31). -/
  | eolRecompute (dies : List (Nat × Nat))
  /-- UCIE_CRC_REPLAY (R20). -/
  | ucieCrcReplay (module : Nat)
  /-- UCIE_RETRAIN_COMPLETE (R20). -/
  | ucieRetrainComplete (module : Nat)
  /-- FLASTER_CRC_REPLAY (R27). -/
  | flasterCrcReplay (port : Nat)
  /-- FLASTER_PACKET_ARRIVE (R25). -/
  | flasterPacketArrive (port : Nat) (p : FlasterPkt)
  /-- HOST_PORT_LINK_DOWN (R43). -/
  | hostPortLinkDown (port : Nat)
  /-- PATROL_SCRUB (R33). -/
  | patrolScrub (mpt : Nat) (pa : Nat) (bad : Bool)
  /-- STREAM_LOOKAHEAD_FILL (R343), acting on the thread at here.tile, here.slot. -/
  | streamLookaheadFill (q n : Nat)
  /-- REREAD_COMPLETE (R135). -/
  | rereadComplete (layer index : Nat)
  /-- ROUTER_POWER_DOWN (R175). -/
  | routerPowerDown (net : RouterNet) (router : Nat)
  /-- ROUTER_WAKE (R175). -/
  | routerWake (net : RouterNet) (router : Nat)
  /-- DEBUG_REG_READ (R278), acting on the tile here.tile. -/
  | debugRegRead (sel : Word)
  /-- DEBUG_REG_WRITE (R278), acting on the tile here.tile. -/
  | debugRegWrite (sel : Word)
  /-- ADD (R306). -/
  | add (d a b : SReg)
  /-- SUB (R306). -/
  | sub (d a b : SReg)
  /-- MUL (R306). -/
  | mul (d a b : SReg)
  /-- MULH (R306). -/
  | mulh (d a b : SReg)
  /-- MULHN (R306). -/
  | mulhn (d a b : SReg)
  /-- DIV (R307). -/
  | div (d a b : SReg)
  /-- DIVN (R307). -/
  | divn (d a b : SReg)
  /-- REM (R307). -/
  | rem (d a b : SReg)
  /-- REMN (R307). -/
  | remn (d a b : SReg)
  /-- AND (R306). -/
  | and (d a b : SReg)
  /-- OR (R306). -/
  | or (d a b : SReg)
  /-- XOR (R306). -/
  | xor (d a b : SReg)
  /-- ANDN (R306). -/
  | andn (d a b : SReg)
  /-- ORN (R306). -/
  | orn (d a b : SReg)
  /-- SHL (R306). -/
  | shl (d a b : SReg)
  /-- SHR (R306). -/
  | shr (d a b : SReg)
  /-- SRA (R306). -/
  | sra (d a b : SReg)
  /-- ROL (R306). -/
  | rol (d a b : SReg)
  /-- MIN (R306). -/
  | min (d a b : SReg)
  /-- MAX (R306). -/
  | max (d a b : SReg)
  /-- MINN (R306). -/
  | minn (d a b : SReg)
  /-- MAXN (R306). -/
  | maxn (d a b : SReg)
  /-- SLT (R306). -/
  | slt (d a b : SReg)
  /-- SLTN (R306). -/
  | sltn (d a b : SReg)
  /-- SEQ (R306). -/
  | seq (d a b : SReg)
  /-- ADDV (R308). -/
  | addv (d a b : SReg)
  /-- SUBV (R308). -/
  | subv (d a b : SReg)
  /-- CLZ (R306). -/
  | clz (d a : SReg)
  /-- CTZ (R306). -/
  | ctz (d a : SReg)
  /-- POPC (R306). -/
  | popc (d a : SReg)
  /-- SEL (R306). -/
  | sel (d a b : SReg) (k : Nat)
  /-- BFX (R310). -/
  | bfx (d a : SReg) (p : Nat) (n : Nat)
  /-- BFI (R310). -/
  | bfi (d a : SReg) (p : Nat) (n : Nat)
  /-- ADDI (R309). -/
  | addi (d a : SReg) (imm : BitVec 15)
  /-- ANDI (R309). -/
  | andi (d a : SReg) (imm : BitVec 15)
  /-- ORI (R309). -/
  | ori (d a : SReg) (imm : BitVec 15)
  /-- XORI (R309). -/
  | xori (d a : SReg) (imm : BitVec 15)
  /-- SHLI (R309). -/
  | shli (d a : SReg) (n : BitVec 6)
  /-- SHRI (R309). -/
  | shri (d a : SReg) (n : BitVec 6)
  /-- SRAI (R309). -/
  | srai (d a : SReg) (n : BitVec 6)
  /-- SLTI (R309). -/
  | slti (d a : SReg) (imm : BitVec 15)
  /-- LUI (R309). -/
  | lui (d : SReg) (off : BitVec 20)
  /-- ADDPC (R309). -/
  | addpc (d : SReg) (off : BitVec 20)
  /-- LI (R311). -/
  | li (d : SReg) (imm : BitVec 32)
  /-- LIH (R311). -/
  | lih (d : SReg) (imm : BitVec 32)
  /-- BR (R312). -/
  | br (c : BrCond) (a b : SReg) (off : BitVec 12)
  /-- JAL (R313). -/
  | jal (d : SReg) (off : BitVec 20)
  /-- JALR (R313). -/
  | jalr (d a : SReg) (imm : BitVec 15)
  /-- LOOP (R314). -/
  | loop (a : SReg) (off : BitVec 12)
  /-- LD (R359). -/
  | ld (w : LdW) (d a : SReg) (off : BitVec 12)
  /-- ST (R359). -/
  | st (w : StW) (a b : SReg) (off : BitVec 12)
  /-- LD_ACQ (R360). -/
  | ldAcq (w : LdW) (d a b : SReg)
  /-- ST_REL (R360). -/
  | stRel (w : StW) (d a b : SReg)
  /-- LDV (R361). -/
  | ldv (d : VReg) (a b : SReg) (k : Nat)
  /-- STV (R361). -/
  | stv (d : VReg) (a b : SReg) (k : Nat)
  /-- LDG (R362). -/
  | ldg (w : StW) (d : VReg) (a : SReg) (b : VReg) (k : Nat)
  /-- STG (R362). -/
  | stg (w : StW) (d : VReg) (a : SReg) (b : VReg) (k : Nat)
  /-- LDW (R363). -/
  | ldw (d a : SReg) (imm : BitVec 15)
  /-- LDWE (R363). -/
  | ldwe (d a : SReg) (imm : BitVec 15)
  /-- STF (R363). -/
  | stf (a b : SReg) (imm : BitVec 15)
  /-- FESET (R363). -/
  | feset (a b : SReg) (imm : BitVec 15)
  /-- FETEST (R363). -/
  | fetest (d a : SReg) (imm : BitVec 15)
  /-- PFETCH (R364). -/
  | pfetch (a : SReg) (imm : BitVec 15)
  /-- CFLUSH (R364). -/
  | cflush (a : SReg) (imm : BitVec 15)
  /-- CINV (R364). -/
  | cinv (a : SReg) (imm : BitVec 15)
  /-- AMO (R366). -/
  | amo (op : AmoOp) (ord : MemOrd) (w32 : Bool) (d a b : SReg)
  /-- CAS (R368). -/
  | cas (ord : MemOrd) (w32 : Bool) (d a b f : SReg)
  /-- AMOORD (R369). -/
  | amoord (op : OrdOp) (d a b f : SReg)
  /-- RED (R370). -/
  | red (op : AmoOp) (w32 : Bool) (a b : SReg)
  /-- FENCE (R371). -/
  | fence (a : SReg)
  /-- FENCESC (R371). -/
  | fencesc (a : SReg)
  /-- BAR (R373). -/
  | bar (a b : SReg)
  /-- AEXP (R376). -/
  | aexp (a b : SReg)
  /-- AWAIT (R377). -/
  | await (d a b : SReg)
  /-- AALLOC (R378). -/
  | aalloc (d : SReg) (k : Nat)
  /-- AFREE (R378). -/
  | afree (a : SReg)
  /-- VADD (R322). -/
  | vadd (t : ITy) (d a b : VReg) (k : Nat)
  /-- VSUB (R322). -/
  | vsub (t : ITy) (d a b : VReg) (k : Nat)
  /-- VMUL (R322). -/
  | vmul (t : ITy) (d a b : VReg) (k : Nat)
  /-- VMULH (R322). -/
  | vmulh (t : ITy) (d a b : VReg) (k : Nat)
  /-- VMIN (R322). -/
  | vmin (t : ITy) (d a b : VReg) (k : Nat)
  /-- VMAX (R322). -/
  | vmax (t : ITy) (d a b : VReg) (k : Nat)
  /-- VAND (R322). -/
  | vand (t : ITy) (d a b : VReg) (k : Nat)
  /-- VOR (R322). -/
  | vor (t : ITy) (d a b : VReg) (k : Nat)
  /-- VXOR (R322). -/
  | vxor (t : ITy) (d a b : VReg) (k : Nat)
  /-- VANDN (R322). -/
  | vandn (t : ITy) (d a b : VReg) (k : Nat)
  /-- VSHL (R322). -/
  | vshl (t : ITy) (d a b : VReg) (k : Nat)
  /-- VSHR (R322). -/
  | vshr (t : ITy) (d a b : VReg) (k : Nat)
  /-- VSRA (R322). -/
  | vsra (t : ITy) (d a b : VReg) (k : Nat)
  /-- VADDS (R322). -/
  | vadds (t : ITy) (d a b : VReg) (k : Nat)
  /-- VSUBS (R322). -/
  | vsubs (t : ITy) (d a b : VReg) (k : Nat)
  /-- VAVG (R322). -/
  | vavg (t : ITy) (d a b : VReg) (k : Nat)
  /-- VABS (R323). -/
  | vabs (t : ITy) (d a : VReg) (k : Nat)
  /-- VCMP (R324). -/
  | vcmp (c : ICond) (t : ITy) (kd : Nat) (a b : VReg) (k : Nat)
  /-- VSEL (R325). -/
  | vsel (t : ITy) (d a b : VReg) (k : Nat)
  /-- VMOV (R325). -/
  | vmov (t : ITy) (d a : VReg) (k : Nat)
  /-- VBCAST (R325). -/
  | vbcast (t : ITy) (d : VReg) (a : SReg) (k : Nat)
  /-- VEXT (R325). -/
  | vext (t : ITy) (d : SReg) (a : VReg) (b : SReg) (k : Nat)
  /-- VINS (R325). -/
  | vins (t : ITy) (d : VReg) (a b : SReg) (k : Nat)
  /-- KAND (R326). -/
  | kand (kd ka kb : Nat)
  /-- KOR (R326). -/
  | kor (kd ka kb : Nat)
  /-- KXOR (R326). -/
  | kxor (kd ka kb : Nat)
  /-- KNOT (R326). -/
  | knot (kd ka : Nat)
  /-- KPOPC (R326). -/
  | kpopc (d : SReg) (ka : Nat)
  /-- KFIRST (R326). -/
  | kfirst (d : SReg) (ka : Nat)
  /-- VPERM_BYTE (R327). -/
  | vpermByte (d a b : VReg) (k : Nat)
  /-- VPERM_NIB (R327). -/
  | vpermNib (d a b : VReg) (k : Nat)
  /-- VPERMX (R328). -/
  | vpermx (t : ITy) (d a b : VReg) (k : Nat)
  /-- VZIP (R328). -/
  | vzip (t : ITy) (d a b : VReg) (k : Nat)
  /-- VUNZIP (R328). -/
  | vunzip (t : ITy) (d a b : VReg) (k : Nat)
  /-- VCOMP (R329). -/
  | vcomp (t : ITy) (d a b : VReg) (k : Nat)
  /-- VEXPD (R329). -/
  | vexpd (t : ITy) (d a b : VReg) (k : Nat)
  /-- VIOTA (R329). -/
  | viota (t : ITy) (d : VReg) (k : Nat)
  /-- VSLIDE (R330). -/
  | vslide (t : ITy) (d a b : VReg) (n : Nat) (k : Nat)
  /-- VRED (R331). -/
  | vred (op : RedOp) (d a : VReg) (k : Nat)
  /-- VFADD (R332). -/
  | vfadd (t : FTy) (d a b : VReg) (k : Nat)
  /-- VFSUB (R332). -/
  | vfsub (t : FTy) (d a b : VReg) (k : Nat)
  /-- VFMUL (R332). -/
  | vfmul (t : FTy) (d a b : VReg) (k : Nat)
  /-- VFDIV (R332). -/
  | vfdiv (t : FTy) (d a b : VReg) (k : Nat)
  /-- VFMIN (R332). -/
  | vfmin (t : FTy) (d a b : VReg) (k : Nat)
  /-- VFMAX (R332). -/
  | vfmax (t : FTy) (d a b : VReg) (k : Nat)
  /-- VFSQRT (R332). -/
  | vfsqrt (t : FTy) (d a : VReg) (k : Nat)
  /-- VFCLASS (R332). -/
  | vfclass (t : FTy) (d a : VReg) (k : Nat)
  /-- VRND (R332). -/
  | vrnd (t : FTy) (d a : VReg) (k : Nat)
  /-- VFMA (R333). -/
  | vfma (t : FTy) (d a b : VReg) (k : Nat)
  /-- VFMS (R333). -/
  | vfms (t : FTy) (d a b : VReg) (k : Nat)
  /-- VFCMP (R334). -/
  | vfcmp (c : FCond) (t : FTy) (kd : Nat) (a b : VReg) (k : Nat)
  /-- VCVT (R335). -/
  | vcvt (sat : Bool) (dt st : CvtTy) (d a : VReg) (k : Nat)
  /-- VEXP2 (R336). -/
  | vexp2 (t : SpTy) (d a : VReg) (k : Nat)
  /-- VLOG2 (R336). -/
  | vlog2 (t : SpTy) (d a : VReg) (k : Nat)
  /-- VRCP (R336). -/
  | vrcp (t : SpTy) (d a : VReg) (k : Nat)
  /-- VRSQ (R336). -/
  | vrsq (t : SpTy) (d a : VReg) (k : Nat)
  /-- VTORD (R337). -/
  | vtord (t : FTy) (d a b : VReg) (k : Nat)
  /-- VSORT (R337). -/
  | vsort (t : FTy) (d a b : VReg) (k : Nat)
  /-- VJOIN_PAIR (R338). -/
  | vjoinPair (t : ITy) (d a b : VReg) (k : Nat)
  /-- VJOIN_UNION (R338). -/
  | vjoinUnion (t : ITy) (d a b : VReg) (k : Nat)
  /-- REP (R347). -/
  | rep (a : SReg) (n : Nat)
  /-- QSET (R342). -/
  | qset (q : Nat) (v : VReg)
  /-- QADV (R346). -/
  | qadv (q : Nat) (c : SReg)
  /-- QPOS (R346). -/
  | qpos (q : Nat) (c : SReg)
  /-- DOT (R348). -/
  | dot (t : DotTy) (m qa qb : Nat)
  /-- DOTMX (R349). -/
  | dotmx (t : MxTy) (m qa qb qsa qsb : Nat)
  /-- MZERO (R350). -/
  | mzero (m : Nat)
  /-- MLD (R350). -/
  | mld (m : Nat) (c : SReg)
  /-- MST (R350). -/
  | mst (m : Nat) (c : SReg)
  /-- MOUT (R352). -/
  | mout (o : OutTy) (bias act quant i32 : Bool) (m qa qb : Nat)
  /-- ACTLD (R353). -/
  | actld (c : SReg)
  /-- SPLIT (R354). -/
  | split (cols : Bool) (s : Nat) (qa qb : Nat)
  /-- MERGE (R355). -/
  | merge (s : Nat) (m qa qb : Nat)
  /-- CPY (R380). -/
  | cpy (d : SReg) (a : VReg)
  /-- STRM (R385). -/
  | strm (d : SReg) (a : VReg)
  /-- STRB (R387). -/
  | strb (a : SReg)
  /-- LEAVE (R389). -/
  | leave (q : Nat)
  /-- RSTAT (R390). -/
  | rstat (d : SReg)
  /-- BOARD (R388). -/
  | board (q : Nat) (layer : BitVec 16) (laps : Nat)
  /-- SEND (R391). -/
  | send (label : Nat) (prio : Nat) (two : Bool) (a b d : SReg)
  /-- SPAWN (R392). -/
  | spawn (label : Nat) (prio : Nat) (two : Bool) (a b : SReg)
  /-- LAUNCH (R395). -/
  | launch (d a : SReg)
  /-- LAUNCH_KILL (R395). -/
  | launchKill (d a : SReg)
  /-- LAUNCH_SIG (R395). -/
  | launchSig (d a b : SReg)
  /-- LAUNCH_PRE (R272). -/
  | launchPre (d a : SReg)
  /-- LAUNCH_RES (R395). -/
  | launchRes (d a : SReg)
  /-- ADIG (R400). -/
  | adig (d a b : SReg)
  /-- AINV (R401). -/
  | ainv (a : SReg)
  /-- LIVE (R402). -/
  | live (remote : Bool) (kmask : BitVec 7) (a : SReg)
  /-- MFS (R417). -/
  | mfs (d : SReg) (r : Nat)
  /-- MTS (R417). -/
  | mts (r : Nat) (a : SReg)
  /-- TRAP (R418). -/
  | trap (a : SReg)
  /-- BRK (R418). -/
  | brk (imm : BitVec 15)
  /-- TLBINV (R422). -/
  | tlbinv (a b : SReg)
  /-- ICINV (R423). -/
  | icinv (a : SReg)
  /-- RPACE (R118). -/
  | rpace (a : SReg)
  /-- ROUTE (R166). -/
  | route (x : Sels)
  /-- ROUTEC (R407). -/
  | routec (c : Nat) (target : Nat) (x : Sels)
  /-- SJMP (R406). -/
  | sjmp (target : Nat)
  /-- SCNT (R406). -/
  | scnt (c : Nat) (imm : BitVec 16)
  /-- SWAITC (R408). -/
  | swaitc (v : Bool)
  /-- SSIGC (R408). -/
  | ssigc (v : Bool)
  /-- ILLEGAL_INSTRUCTION (R298). -/
  | illegalInstruction (word : Word)
  /-- INSTRUCTION_FETCH_FAULT (R279). -/
  | instructionFetchFault (f : FetchFault)
  /-- SWITCH_ILLEGAL_WORD (R297). -/
  | switchIllegalWord (word : Word)
  /-- NEIGHBOUR_SOLICITATION (R36). -/
  | neighbourSolicitation (port : Nat) (addr : BitVec 128)
  /-- HOST_PORT_LINK_UP (R36). -/
  | hostPortLinkUp (port : Nat)
  /-- FLASTER_LINK_UP (R46). -/
  | flasterLinkUp (port : Nat) (pkg : Nat) (tick : Word)
  /-- RESET (R15). -/
  | reset
  /-- BOOTCTL_GO (R47). -/
  | bootctlGo
  /-- IMAGE_VERIFY_COMPLETE (R47). -/
  | imageVerifyComplete
  /-- FIRMWARE_STARTED (R47). -/
  | firmwareStarted
  /-- EVENT_RETRANSMIT (R43). -/
  | eventRetransmit
  /-- DROPFCS_READ (R44). -/
  | dropfcsRead
  /-- DROPSEC_READ (R44). -/
  | dropsecRead
  /-- DROPHDR_READ (R44). -/
  | drophdrRead
  /-- EVLOST_READ (R44). -/
  | evlostRead
  /-- ATTCTL_GO (R50). -/
  | attctlGo
  /-- ATTEST_COMPLETE (R50). -/
  | attestComplete
  /-- SCHEDULER_PASS (R65), acting on the die here.item. -/
  | schedulerPass
  /-- NODE_START (R399), acting on the node here.item. -/
  | nodeStart
  /-- AGEING_STEP (R66), acting on the die here.item. -/
  | ageingStep
  /-- NODE_SIGNAL (R63), acting on the signal here.item. -/
  | nodeSignal
  /-- COND_EVALUATE (R74), acting on the node here.item. -/
  | condEvaluate
  /-- TILE_RETIRE (R64), acting on the tile here.tile. -/
  | tileRetire
  /-- MPT_DRAIN (R82), acting on the packet here.item. -/
  | mptDrain
  /-- DRAIN_CERTIFICATE (R83), acting on the packet here.item. -/
  | drainCertificate
  /-- DRAIN_TIMEOUT (R83), acting on the region here.item. -/
  | drainTimeout
  /-- GANG_PREPARE (R75). -/
  | gangPrepare
  /-- GANG_READY (R75). -/
  | gangReady
  /-- GANG_START_RECEIVE (R76). -/
  | gangStartReceive
  /-- GANG_MEMBER_DONE (R76). -/
  | gangMemberDone
  /-- GANG_MEMBER_FAIL (R76). -/
  | gangMemberFail
  /-- GANG_MEMBER_START (R75), acting on the node here.item. -/
  | gangMemberStart
  /-- GANG_WAIT_TIMEOUT (R76), acting on the node here.item. -/
  | gangWaitTimeout
  /-- GANG_ABORT (R76), acting on the node here.item. -/
  | gangAbort
  /-- PREEMPT_PROCEED (R137), acting on the node here.item. -/
  | preemptProceed
  /-- PREEMPT_SAVE (R272), acting on the node here.item. -/
  | preemptSave
  /-- RESUME_PLACE (R274), acting on the node here.item. -/
  | resumePlace
  /-- ARCHIVE_HASH_COMPLETE (R145), acting on the node here.item. -/
  | archiveHashComplete
  /-- ARCHIVE_PROBE_RESULT (R145), acting on the node here.item. -/
  | archiveProbeResult
  /-- ARCHIVE_WATCH_HIT (R145), acting on the node here.item. -/
  | archiveWatchHit
  /-- ARCHIVE_DELIVER_COMPLETE (R146), acting on the node here.item. -/
  | archiveDeliverComplete
  /-- ARCHIVE_INSERT_COMPLETE (R153), acting on the node here.item. -/
  | archiveInsertComplete
  /-- ARCHIVE_INVALIDATE (R150), acting on the packet here.item. -/
  | archiveInvalidate
  /-- MPT_ACCESS (R211), acting on the packet here.item. -/
  | mptAccess
  /-- MPT_RED (R222), acting on the packet here.item. -/
  | mptRed
  /-- SEAL_MARKER (R104), acting on the packet here.item. -/
  | sealMarker
  /-- MPT_AMOORD (R224), acting on the packet here.item. -/
  | mptAmoord
  /-- AMOORD_RESEND (R225), acting on the thread at here.tile, here.slot. -/
  | amoordResend
  /-- LOAD_REPLY (R358), acting on the packet here.item. -/
  | loadReply
  /-- RUN_AHEAD_BEGIN (R162), acting on the thread at here.tile, here.slot. -/
  | runAheadBegin
  /-- RUN_AHEAD_PREFETCH (R163), acting on the packet here.item. -/
  | runAheadPrefetch
  /-- TASK_ARRIVE (R87), acting on the packet here.item. -/
  | taskArrive
  /-- TASK_PICK (R92), acting on the tile here.tile. -/
  | taskPick
  /-- DET_DISPATCH (R100), acting on the tile here.tile. -/
  | detDispatch
  /-- WINDOW_CLOSE (R99), acting on the region here.item. -/
  | windowClose
  /-- STEAL_PROBE (R96), acting on the tile here.tile. -/
  | stealProbe
  /-- STEAL_REQUEST (R96), acting on the packet here.item. -/
  | stealRequest
  /-- STEAL_REPLY (R96), acting on the packet here.item. -/
  | stealReply
  /-- STOLEN_TASK_RETURN (R96), acting on the packet here.item. -/
  | stolenTaskReturn
  /-- MIGRATE_REQUEST (R194), acting on the packet here.item. -/
  | migrateRequest
  /-- MIGRATE_QUEUE_TIMEOUT (R194), acting on the tile here.tile. -/
  | migrateQueueTimeout
  /-- MIGRATE_GRANT (R194), acting on the packet here.item. -/
  | migrateGrant
  /-- MIGRATE_REFUSE (R194), acting on the packet here.item. -/
  | migrateRefuse
  /-- MIGRATE_STATE_ARRIVE (R195), acting on the packet here.item. -/
  | migrateStateArrive
  /-- REMOTE_ACCESS_REQUEST (R196), acting on the packet here.item. -/
  | remoteAccessRequest
  /-- REMOTE_ACCESS_REPLY (R196), acting on the packet here.item. -/
  | remoteAccessReply
  /-- COPY_BEGIN (R382), acting on the packet here.item. -/
  | copyBegin
  /-- COPY_COMPLETE (R383), acting on the copy here.item. -/
  | copyComplete
  /-- ARRIVAL_COUNT (R375), acting on the packet here.item. -/
  | arrivalCount
  /-- AWAIT_COMPLETE (R377), acting on the thread at here.tile, here.slot. -/
  | awaitComplete
  /-- STREAM_BIND (R385), acting on the packet here.item. -/
  | streamBind
  /-- STREAM_LOADER_FLIT (R386), acting on the stream here.item. -/
  | streamLoaderFlit
  /-- STREAM_STORER_FLIT (R386), acting on the stream here.item. -/
  | streamStorerFlit
  /-- STREAM_END (R386), acting on the stream here.item. -/
  | streamEnd
  /-- CLUSTER_BLOCK_SEND (R344), acting on the thread at here.tile, here.slot and its stream register here.item. -/
  | clusterBlockSend
  /-- RPACE_LIST_FILL_COMPLETE (R118). -/
  | rpaceListFillComplete
  /-- HAND_OVER (R120), acting on the lane here.item. -/
  | handOver
  /-- INJECT_BEAT (R120), acting on the lane here.item. -/
  | injectBeat
  /-- TAP_HEADER (R129), acting on the tile here.tile and the lane here.item. -/
  | tapHeader
  /-- TAP_PAYLOAD_BEAT (R126), acting on the tile here.tile and the lane here.item. -/
  | tapPayloadBeat
  /-- TAP_TRAILER (R129), acting on the tile here.tile and the lane here.item. -/
  | tapTrailer
  /-- FOLIO_RELEASE (R126), acting on the tile here.tile. -/
  | folioRelease
  /-- TAP_LANE_SILENT (R127), acting on the tile here.tile and the lane here.item. -/
  | tapLaneSilent
  /-- LANE_DOWN_NOTICE (R21), acting on the tile here.tile and the lane here.item. -/
  | laneDownNotice
  /-- LANE_RESTART (R122), acting on the lane here.item. -/
  | laneRestart
  /-- RING_STALL_START (R131). -/
  | ringStallStart
  /-- RING_STALL_END (R131). -/
  | ringStallEnd
  /-- SLOW_STALL_TIMEOUT (R131). -/
  | slowStallTimeout
  /-- ARM_NOTICE_ARRIVE (R132), acting on the packet here.item. -/
  | armNoticeArrive
  /-- TAP_REPORT (R135), acting on the packet here.item. -/
  | tapReport
  /-- BUDGET_REFILL (R159), acting on the region here.item. -/
  | budgetRefill
  /-- PACKET_DELIVER (R172), acting on the packet here.item. -/
  | packetDeliver
  /-- DYNAMIC_CRC_RETRY (R33), acting on the packet here.item. -/
  | dynamicCrcRetry
  /-- BULK_CRC_DISCARD (R33), acting on the packet here.item. -/
  | bulkCrcDiscard
  /-- WAIT_FOR_PROBE_SEND (R176), acting on the tile here.tile. -/
  | waitForProbeSend
  /-- WAIT_FOR_PROBE_ARRIVE (R176), acting on the packet here.item. -/
  | waitForProbeArrive
  /-- LOCAL_CYCLE_DETECT (R176), acting on the tile here.tile. -/
  | localCycleDetect
  /-- QUIESCENCE_TIMEOUT (R178), acting on the region here.item. -/
  | quiescenceTimeout
  /-- GANG_CHAIN_ISSUE (R169), acting on the tile here.tile. -/
  | gangChainIssue
  /-- DEBUG_HALT (R276), acting on the tile here.tile. -/
  | debugHalt
  /-- DEBUG_HALT_COMPLETE (R277), acting on the tile here.tile. -/
  | debugHaltComplete
  /-- DEBUG_RESUME (R277), acting on the tile here.tile. -/
  | debugResume
  /-- DEBUG_STEP (R277), acting on the tile here.tile. -/
  | debugStep
  /-- DEBUG_SSTEP (R277), acting on the tile here.tile. -/
  | debugSstep
  /-- HEND (R393). -/
  | hend
  /-- WCLOSE (R394). -/
  | wclose
  /-- HOME (R403). -/
  | home
  /-- ERET (R419). -/
  | eret
  /-- WFE (R420). -/
  | wfe
  /-- YIELD (R420). -/
  | yield
  /-- HALT (R421). -/
  | halt
  /-- SNOP (R406). -/
  | snop
  /-- SHALT (R409). -/
  | shalt
  deriving DecidableEq, Repr

end Sys2Proof
end

