-- ==== Sys2Proof/WellFormed.lean ====
section
/-! DEFINITION. Which instructions are well formed: every operand lies in the range its field encodes (R280-R297). The
events of the opcode table carry no encoded operand, and are well formed whatever item they name. -/

namespace Sys2Proof

/-- A scalar register name exists: s0-s27 or a port (R281). -/
def SReg.wf : SReg → Bool
  | .gen n => decide (n < 28)
  | .port _ => true

/-- A vector register name exists: v0-v27 or a port (R281). -/
def VReg.wf : VReg → Bool
  | .gen n => decide (n < 28)
  | .port _ => true

/-- A predicate or stream register number (R282). -/
def regIdxWf (k : Nat) : Bool := decide (k < 8)

/-- An accumulator number (R282). -/
def accWf (m : Nat) : Bool := decide (m < 4)

/-- A memory operation's type has an operand the ordering needs: with ORD 0 the scope register of CAS is s0 (R290). -/
def casScopeWf (ord : MemOrd) (f : SReg) : Bool := decide (ord ≠ .none ∨ f = .gen 0)

/-- The conversions VCVT admits (R291): not integer to integer, and saturating only into e4m3 or e5m2. -/
def cvtWf (sat : Bool) : CvtTy → CvtTy → Bool
  | .int _, .int _ => false
  | .flt .e4m3, _ => true
  | .flt .e5m2, _ => true
  | _, _ => !sat

/-- MOUT's output type fits its QUANT bit (R352, R356): f32 without it, another type with it. -/
def moutWf (ot : OutTy) (quant : Bool) : Bool := decide (ot = .f32) != quant

/-- A SEND of one word leaves its d field zero (R391, R404). -/
def sendWf (two : Bool) (d : SReg) : Bool := two || decide (d = .gen 0)

/-- A slide's distance (R330): 1 to 16, and at most the number of elements. -/
def slideWf (t : ITy) (n : Nat) : Bool :=
  decide (1 ≤ n) && decide (n ≤ 16) && (decide (n ≤ 8) || !(decide (t = .i64) || decide (t = .n64)))

/-- The system register numbers of R412. -/
def sysRegWf (r : Nat) : Bool :=
  decide (r ≤ 0x006) || (decide (0x010 ≤ r) && decide (r ≤ 0x014)) || (decide (0x020 ≤ r) && decide (r ≤ 0x023))
    || (decide (0x030 ≤ r) && decide (r ≤ 0x037)) || (decide (0x040 ≤ r) && decide (r ≤ 0x044))

/-- Three scalar registers exist. -/
def wfS3 (d a b : SReg) : Bool := d.wf && a.wf && b.wf

/-- Three vector registers and a predicate exist. -/
def wfV3 (d a b : VReg) (k : Nat) : Bool := d.wf && a.wf && b.wf && regIdxWf k

/-- Two vector registers and a predicate exist. -/
def wfV2 (d a : VReg) (k : Nat) : Bool := d.wf && a.wf && regIdxWf k

/-- A select of a core output names no COUT (R297). -/
def Sel.coreWf : Sel → Bool
  | .cout => false
  | _ => true

/-- The core selects of a ROUTE name no COUT (R297). -/
def Sels.wf (x : Sels) : Bool := x.score.coreWf && x.vcore.coreWf

/-- Every operand of the instruction lies in the range that its encoding admits (R280-R297). -/
def Instr.wf : Instr → Bool
  | .add d a b | .sub d a b | .mul d a b | .mulh d a b | .mulhn d a b | .div d a b | .divn d a b | .rem d a b
  | .remn d a b | .and d a b | .or d a b | .xor d a b | .andn d a b | .orn d a b | .shl d a b | .shr d a b
  | .sra d a b | .rol d a b | .min d a b | .max d a b | .minn d a b | .maxn d a b | .slt d a b | .sltn d a b
  | .seq d a b | .addv d a b | .subv d a b => wfS3 d a b
  | .clz d a | .ctz d a | .popc d a => d.wf && a.wf
  | .sel d a b k => wfS3 d a b && regIdxWf k
  | .bfx d a p n | .bfi d a p n => d.wf && a.wf && decide (1 ≤ n) && decide (p + n ≤ 64) && decide (p < 64)
  | .addi d a _ | .andi d a _ | .ori d a _ | .xori d a _ | .shli d a _ | .shri d a _ | .srai d a _ | .slti d a _
  | .jalr d a _ => d.wf && a.wf
  | .lui d _ | .addpc d _ | .li d _ | .lih d _ | .jal d _ => d.wf
  | .br _ a b _ => a.wf && b.wf
  | .loop a _ => a.wf
  | .ld _ d a _ | .ldw d a _ | .ldwe d a _ | .fetest d a _ => d.wf && a.wf
  | .st _ a b _ | .stf a b _ | .feset a b _ | .aexp a b | .bar a b => a.wf && b.wf
  | .red op _ a b => a.wf && b.wf && decide (op ≠ .swap)
  | .ldAcq _ d a b | .stRel _ d a b | .amo _ _ _ d a b | .await d a b => wfS3 d a b
  | .ldv d a b k | .stv d a b k => d.wf && a.wf && b.wf && regIdxWf k
  | .ldg _ d a b k | .stg _ d a b k => d.wf && a.wf && b.wf && regIdxWf k
  | .pfetch a _ | .cflush a _ | .cinv a _ | .fence a | .fencesc a | .afree a => a.wf
  | .cas ord _ d a b f => wfS3 d a b && f.wf && casScopeWf ord f
  | .amoord _ d a b f => wfS3 d a b && f.wf
  | .aalloc d k => d.wf && regIdxWf k
  | .vadd _ d a b k | .vsub _ d a b k | .vmul _ d a b k | .vmulh _ d a b k | .vmin _ d a b k | .vmax _ d a b k
  | .vand _ d a b k | .vor _ d a b k | .vxor _ d a b k | .vandn _ d a b k | .vshl _ d a b k | .vshr _ d a b k
  | .vsra _ d a b k | .vadds _ d a b k | .vsubs _ d a b k | .vavg _ d a b k | .vsel _ d a b k
  | .vpermx _ d a b k | .vzip _ d a b k | .vunzip _ d a b k | .vcomp _ d a b k | .vexpd _ d a b k
  | .vfadd _ d a b k | .vfsub _ d a b k | .vfmul _ d a b k | .vfdiv _ d a b k | .vfmin _ d a b k
  | .vfmax _ d a b k | .vfma _ d a b k | .vfms _ d a b k | .vtord _ d a b k | .vsort _ d a b k
  | .vjoinPair _ d a b k | .vjoinUnion _ d a b k | .vpermByte d a b k | .vpermNib d a b k => wfV3 d a b k
  | .vabs _ d a k | .vmov _ d a k | .vred _ d a k | .vfsqrt _ d a k | .vfclass _ d a k | .vrnd _ d a k
  | .vexp2 _ d a k | .vlog2 _ d a k | .vrcp _ d a k | .vrsq _ d a k => wfV2 d a k
  | .vcmp _ _ kd a b k => regIdxWf kd && a.wf && b.wf && regIdxWf k
  | .vfcmp _ _ kd a b k => regIdxWf kd && a.wf && b.wf && regIdxWf k
  | .vbcast _ d a k => d.wf && a.wf && regIdxWf k
  | .vext _ d a b k => d.wf && a.wf && b.wf && regIdxWf k
  | .vins _ d a b k => d.wf && a.wf && b.wf && regIdxWf k
  | .kand kd ka kb | .kor kd ka kb | .kxor kd ka kb => regIdxWf kd && regIdxWf ka && regIdxWf kb
  | .knot kd ka => regIdxWf kd && regIdxWf ka
  | .kpopc d ka | .kfirst d ka => d.wf && regIdxWf ka
  | .viota _ d k => d.wf && regIdxWf k
  | .vslide t d a b n k => wfV3 d a b k && slideWf t n
  | .vcvt sat dt ct d a k => wfV2 d a k && cvtWf sat dt ct
  | .rep a n => a.wf && decide (1 ≤ n) && decide (n ≤ 16)
  | .qset q v => regIdxWf q && v.wf
  | .qadv q c | .qpos q c => regIdxWf q && c.wf
  | .dot _ m qa qb => accWf m && regIdxWf qa && regIdxWf qb
  | .dotmx _ m qa qb sa sb => accWf m && regIdxWf qa && regIdxWf qb && regIdxWf sa && regIdxWf sb
  | .mzero m => accWf m
  | .mld m c | .mst m c => accWf m && c.wf
  | .mout ot _ _ quant _ m qa qb => accWf m && regIdxWf qa && regIdxWf qb && moutWf ot quant
  | .actld c => c.wf
  | .split _ s qa qb => decide (1 ≤ s) && decide (s ≤ 8) && regIdxWf qa && regIdxWf qb
  | .merge s m qa qb => decide (1 ≤ s) && decide (s ≤ 8) && accWf m && regIdxWf qa && regIdxWf qb
  | .cpy d a | .strm d a => d.wf && a.wf
  | .strb a | .ainv a | .live _ _ a | .trap a | .icinv a | .rpace a => a.wf
  | .leave q => regIdxWf q
  | .rstat d => d.wf
  | .board q _ laps => regIdxWf q && decide (1 ≤ laps) && decide (laps ≤ 64)
  | .send label prio two a b d => decide (label < 128) && decide (prio < 4) && wfS3 d a b && sendWf two d
  | .spawn label prio _ a b => decide (label < 128) && decide (prio < 4) && a.wf && b.wf
  | .launch d a | .launchKill d a | .launchPre d a | .launchRes d a => d.wf && a.wf
  | .launchSig d a b | .adig d a b => wfS3 d a b
  | .mfs d r => d.wf && sysRegWf r
  | .mts r a => a.wf && sysRegWf r
  | .tlbinv a b => a.wf && b.wf
  | .route x => x.wf
  | .routec c target x => decide (c < 4) && decide (target < 2048) && x.wf
  | .sjmp target => decide (target < 2048)
  | .scnt c _ => decide (c < 4)
  | .reset | .selfTestDone .. | .bootctlGo | .imageVerifyComplete | .firmwareStarted | .frameDrop ..
  | .mwrite .. | .mread .. | .msg .. | .eventAck .. | .eventRetransmit | .endpointRegWrite .. | .dropfcsRead
  | .dropsecRead | .drophdrRead | .evlostRead | .mclostRead .. | .attctlGo | .attestComplete | .carveWrite ..
  | .ptpMessage .. | .ptpLockLost .. | .throttleSample .. | .currentExcursion .. | .eolRecompute ..
  | .ucieCrcReplay .. | .ucieRetrainComplete .. | .flasterCrcReplay .. | .flasterPacketArrive ..
  | .hostPortLinkDown .. | .patrolScrub .. | .schedulerPass | .nodeStart | .ageingStep | .nodeSignal
  | .condEvaluate | .tileRetire | .mptDrain | .drainCertificate | .drainTimeout | .gangPrepare
  | .gangReady | .gangStartReceive | .gangMemberStart | .gangWaitTimeout | .gangAbort | .gangMemberDone
  | .gangMemberFail | .preemptProceed | .preemptSave | .resumePlace | .archiveHashComplete
  | .archiveProbeResult | .archiveWatchHit | .archiveDeliverComplete | .archiveInsertComplete
  | .archiveInvalidate | .mptAccess | .mptRed | .sealMarker | .mptAmoord | .amoordResend | .loadReply
  | .runAheadBegin | .runAheadPrefetch | .taskArrive | .taskPick | .detDispatch | .windowClose | .stealProbe
  | .stealRequest | .stealReply | .stolenTaskReturn | .migrateRequest | .migrateQueueTimeout | .migrateGrant
  | .migrateRefuse | .migrateStateArrive | .remoteAccessRequest | .remoteAccessReply | .copyBegin
  | .copyComplete | .arrivalCount | .awaitComplete | .streamBind | .streamLoaderFlit | .streamStorerFlit
  | .streamEnd | .clusterBlockSend | .streamLookaheadFill .. | .rpaceListFillComplete | .handOver | .injectBeat
  | .tapHeader | .tapPayloadBeat | .tapTrailer | .folioRelease | .tapLaneSilent | .laneDownNotice | .laneRestart
  | .ringStallStart | .ringStallEnd | .slowStallTimeout | .armNoticeArrive | .tapReport | .rereadComplete ..
  | .budgetRefill | .routerPowerDown .. | .routerWake .. | .packetDeliver | .dynamicCrcRetry | .bulkCrcDiscard
  | .waitForProbeSend | .waitForProbeArrive | .localCycleDetect | .quiescenceTimeout | .gangChainIssue
  | .debugHalt | .debugHaltComplete | .debugResume | .debugStep | .debugSstep | .debugRegRead ..
  | .debugRegWrite .. | .hend | .wclose | .home | .eret | .wfe | .yield | .halt | .brk .. | .snop | .swaitc ..
  | .ssigc .. | .shalt | .illegalInstruction .. | .instructionFetchFault .. | .switchIllegalWord ..
  | .neighbourSolicitation .. | .hostPortLinkUp .. | .flasterLinkUp .. => true

end Sys2Proof
end

