-- ==== Sys2Proof/Decode.lean ====
section
/-! DEFINITION. The decoder of core words (R279-R295, R298) and of switch words (R296, R297), total on every pair of words
and rejecting by name; after it the encoder, written from the same tables. -/

namespace Sys2Proof

/-- Why a word is no instruction (R298, R297). -/
inductive Reject where
  /-- A reserved major (R285). -/
  | major (op : Nat)
  /-- A reserved function code (R286, R290-R295). -/
  | function (f : Nat)
  /-- A reserved type, width, condition, operation or select code (R284, R288-R292). -/
  | code (c : Nat)
  /-- A 5-bit field naming a predicate or stream register with a value of 8-31 (R282). -/
  | register (n : Nat)
  /-- A nonzero field that a layout requires to be zero (R298). -/
  | reserved
  /-- A bit field beyond bit 63 (R287). -/
  | range
  /-- A number that names no system register (R412). -/
  | sysReg (r : Nat)
  /-- A reserved wide form (R295). -/
  | wide (x : Nat)
  deriving DecidableEq, Repr

/-- The answer of the decoder. -/
abbrev Decoded := Except Reject Instr

/-- `n` bits of `w` from bit `lo` up. -/
def bitsAt (w lo n : Nat) : Nat := w / 2 ^ lo % 2 ^ n

/-- The decoder goes on where the condition holds, and rejects by name otherwise. -/
def need (c : Bool) (e : Reject) (r : Decoded) : Decoded := if c then r else .error e

/-- The decoder goes on with a code that names something, and rejects it otherwise. -/
def coded {α : Type} (c : Nat) (x : Option α) (r : α → Decoded) : Decoded :=
  match x with
  | some v => r v
  | none => .error (.code c)

/-- Directions in the order of the port registers 28-31 (R281). -/
def dirOf : Nat → Dir
  | 0 => .n
  | 1 => .e
  | 2 => .s
  | _ => .w

/-- A 5-bit scalar register field (R281). -/
def sregOf (n : Nat) : SReg := if n < 28 then .gen n else .port (dirOf (n - 28))

/-- A 5-bit vector register field (R281). -/
def vregOf (n : Nat) : VReg := if n < 28 then .gen n else .port (dirOf (n - 28))

/-- The integer type codes (R284). -/
def ityOf : Nat → Option ITy
  | 0 => some .i8
  | 1 => some .i16
  | 2 => some .i32
  | 3 => some .i64
  | 4 => some .n8
  | 5 => some .n16
  | 6 => some .n32
  | 7 => some .n64
  | _ => none

/-- The floating-point type codes (R284). -/
def ftyOf : Nat → Option FTy
  | 0 => some .e4m3
  | 1 => some .e5m2
  | 2 => some .bf16
  | 3 => some .f16
  | 4 => some .f32
  | 5 => some .f64
  | _ => none

/-- The types of the special functions (R291, major 0x3C). -/
def sptyOf : Nat → Option SpTy
  | 2 => some .bf16
  | 3 => some .f16
  | 4 => some .f32
  | 5 => some .f64
  | _ => none

/-- The operand types of DOT (R284). -/
def dotTyOf : Nat → Option DotTy
  | 0 => some .i8i8
  | 1 => some .i8n8
  | 2 => some .n8i8
  | 3 => some .n8n8
  | 4 => some .e4m3e4m3
  | 5 => some .e4m3e5m2
  | 6 => some .e5m2e4m3
  | 7 => some .e5m2e5m2
  | 8 => some .bf16
  | 9 => some .f16
  | _ => none

/-- The element types of DOTMX (R284). -/
def mxTyOf : Nat → Option MxTy
  | 0 => some .e4m3
  | 1 => some .e5m2
  | 2 => some .i8
  | _ => none

/-- The output types of MOUT (R292). -/
def outTyOf : Nat → Option OutTy
  | 0 => some .i8
  | 1 => some .n8
  | 2 => some .e4m3
  | 3 => some .e5m2
  | 4 => some .bf16
  | 5 => some .f16
  | 6 => some .f32
  | _ => none

/-- The conditions of BR (R288). -/
def brCondOf : Nat → Option BrCond
  | 0 => some .eq
  | 1 => some .ne
  | 2 => some .lt
  | 3 => some .ge
  | 4 => some .ltn
  | 5 => some .gen
  | _ => none

/-- The conditions of VCMP (R291). -/
def iCondOf : Nat → Option ICond
  | 0 => some .eq
  | 1 => some .ne
  | 2 => some .lt
  | 3 => some .le
  | 4 => some .gt
  | 5 => some .ge
  | _ => none

/-- The conditions of VFCMP (R291). -/
def fCondOf : Nat → Option FCond
  | 0 => some .eq
  | 1 => some .ne
  | 2 => some .lt
  | 3 => some .le
  | 4 => some .gt
  | 5 => some .ge
  | 6 => some .un
  | 7 => some .or
  | _ => none

/-- The width codes of a load (R289). -/
def ldWOf : Nat → Option LdW
  | 0 => some .i8
  | 1 => some .i16
  | 2 => some .i32
  | 3 => some .w64
  | 4 => some .n8
  | 5 => some .n16
  | 6 => some .n32
  | _ => none

/-- The width codes of a store (R289), and the element sizes of LDG and STG. -/
def stWOf : Nat → Option StW
  | 0 => some .b1
  | 1 => some .b2
  | 2 => some .b4
  | 3 => some .b8
  | _ => none

/-- The ordering field (R290). -/
def memOrdOf : Nat → MemOrd
  | 0 => .none
  | 1 => .acq
  | 2 => .rel
  | _ => .acqrel

/-- The operation code op4 (R290). -/
def amoOpOf : Nat → Option AmoOp
  | 0 => some .swap
  | 1 => some .add
  | 2 => some .and
  | 3 => some .or
  | 4 => some .xor
  | 5 => some .min
  | 6 => some .max
  | 7 => some .minn
  | 8 => some .maxn
  | 9 => some .fadd
  | 10 => some .fmin
  | 11 => some .fmax
  | _ => none

/-- The operations of AMOORD (R290). -/
def ordOpOf : Nat → OrdOp
  | 0 => .swap
  | 1 => .add
  | 2 => .and
  | 3 => .or
  | 4 => .xor
  | 5 => .min
  | 6 => .max
  | _ => .fadd

/-- The operations of VRED with their types (R291). -/
def redOpOf (f t : Nat) : Option RedOp :=
  match f with
  | 0 => (ityOf t).map .add
  | 1 => (ityOf t).map .min
  | 2 => (ityOf t).map .max
  | 3 => (ityOf t).map .and
  | 4 => (ityOf t).map .or
  | 5 => (ityOf t).map .xor
  | 6 => (ftyOf t).map .fadd
  | 7 => (ftyOf t).map .fmin
  | 8 => (ftyOf t).map .fmax
  | _ => none

/-- One side of a conversion (R291): the type code read as integer or floating-point. -/
def cvtTyOf (isFloat : Bool) (t : Nat) : Option CvtTy :=
  if isFloat then (ftyOf t).map .flt else (ityOf t).map .int

/-- A 5-bit field that names a predicate or stream register (R282): the values 8-31 are refused. -/
def reg3 (n : Nat) (r : Nat → Decoded) : Decoded := if n < 8 then r n else .error (.register n)

/-- The two-operand scalar instructions of major 0x01 (R286). -/
def scalarBinOf : Nat → Option (SReg → SReg → SReg → Instr)
  | 0 => some .add
  | 1 => some .sub
  | 2 => some .mul
  | 3 => some .mulh
  | 4 => some .mulhn
  | 5 => some .div
  | 6 => some .divn
  | 7 => some .rem
  | 8 => some .remn
  | 9 => some .and
  | 10 => some .or
  | 11 => some .xor
  | 12 => some .andn
  | 13 => some .orn
  | 14 => some .shl
  | 15 => some .shr
  | 16 => some .sra
  | 17 => some .rol
  | 18 => some .min
  | 19 => some .max
  | 20 => some .minn
  | 21 => some .maxn
  | 22 => some .slt
  | 23 => some .sltn
  | 24 => some .seq
  | 25 => some .addv
  | 26 => some .subv
  | _ => none

/-- The unary scalar instructions of major 0x01 (R286). -/
def scalarUnOf : Nat → Option (SReg → SReg → Instr)
  | 27 => some .clz
  | 28 => some .ctz
  | 29 => some .popc
  | _ => none

/-- Major 0x01, the scalar register group (R286). -/
def decodeScalar (w : Nat) : Decoded :=
  let f := bitsAt w 25 7
  let d := sregOf (bitsAt w 7 5)
  let a := sregOf (bitsAt w 12 5)
  let b := bitsAt w 17 5
  let m := bitsAt w 22 3
  match scalarBinOf f with
  | some c => need (m == 0) .reserved (.ok (c d a (sregOf b)))
  | none =>
    match scalarUnOf f with
    | some c => need (m == 0 && b == 0) .reserved (.ok (c d a))
    | none => if f = 30 then .ok (.sel d a (sregOf b) m) else .error (.function f)

/-- Major 0x02, BFX and BFI (R287). -/
def decodeBitField (w : Nat) : Decoded :=
  let d := sregOf (bitsAt w 7 5)
  let a := sregOf (bitsAt w 12 5)
  let p := bitsAt w 17 6
  let n := bitsAt w 23 6 + 1
  let x := bitsAt w 29 3
  need (decide (x ≤ 1)) (.function x) (need (decide (p + n ≤ 64)) .range (.ok (if x = 0 then .bfx d a p n else .bfi d a p n)))

/-- The immediate majors 0x03-0x0C (R287). -/
def decodeImm (op w : Nat) : Decoded :=
  let d := sregOf (bitsAt w 7 5)
  let a := sregOf (bitsAt w 12 5)
  let i := bitsAt w 17 15
  let off := BitVec.ofNat 20 (bitsAt w 12 20)
  let n := BitVec.ofNat 6 (bitsAt w 17 6)
  let z := bitsAt w 23 9 == 0
  match op with
  | 3 => .ok (.addi d a (BitVec.ofNat 15 i))
  | 4 => .ok (.andi d a (BitVec.ofNat 15 i))
  | 5 => .ok (.ori d a (BitVec.ofNat 15 i))
  | 6 => .ok (.xori d a (BitVec.ofNat 15 i))
  | 7 => need z .reserved (.ok (.shli d a n))
  | 8 => need z .reserved (.ok (.shri d a n))
  | 9 => need z .reserved (.ok (.srai d a n))
  | 10 => .ok (.slti d a (BitVec.ofNat 15 i))
  | 11 => .ok (.lui d off)
  | _ => .ok (.addpc d off)

/-- The control majors 0x10-0x13 (R288). -/
def decodeControl (op w : Nat) : Decoded :=
  let off := BitVec.ofNat 12 (bitsAt w 20 12)
  let cond := bitsAt w 17 3
  match op with
  | 16 => coded cond (brCondOf cond) fun c => .ok (.br c (sregOf (bitsAt w 7 5)) (sregOf (bitsAt w 12 5)) off)
  | 17 => .ok (.jal (sregOf (bitsAt w 7 5)) (BitVec.ofNat 20 (bitsAt w 12 20)))
  | 18 => .ok (.jalr (sregOf (bitsAt w 7 5)) (sregOf (bitsAt w 12 5)) (BitVec.ofNat 15 (bitsAt w 17 15)))
  | _ => need (cond == 0 && bitsAt w 12 5 == 0) .reserved (.ok (.loop (sregOf (bitsAt w 7 5)) off))

/-- The memory majors 0x18-0x27 (R289). -/
def decodeMemory (op w : Nat) : Decoded :=
  let dn := bitsAt w 7 5
  let d := sregOf dn
  let a := sregOf (bitsAt w 12 5)
  let b := sregOf (bitsAt w 17 5)
  let m := bitsAt w 22 3
  let f := bitsAt w 25 7
  let i := BitVec.ofNat 15 (bitsAt w 17 15)
  let imm := BitVec.ofNat 15 (bitsAt w 22 10 * 32 + dn)
  match op with
  | 24 => coded (bitsAt w 29 3) (ldWOf (bitsAt w 29 3)) fun x => .ok (.ld x d a (BitVec.ofNat 12 (bitsAt w 17 12)))
  | 25 =>
    coded (bitsAt w 29 3) (stWOf (bitsAt w 29 3)) fun x => .ok (.st x a b (BitVec.ofNat 12 (bitsAt w 22 7 * 32 + dn)))
  | 26 => need (m == 0 && f / 8 == 0) .reserved (coded (f % 8) (ldWOf (f % 8)) fun x => .ok (.ldAcq x d a b))
  | 27 => need (m == 0 && f / 8 == 0) .reserved (coded (f % 8) (stWOf (f % 8)) fun x => .ok (.stRel x d a b))
  | 28 => need (f == 0) .reserved (.ok (.ldv (vregOf dn) a b m))
  | 29 => need (f == 0) .reserved (.ok (.stv (vregOf dn) a b m))
  | 30 => need (f / 4 == 0) .reserved
      (coded (f % 4) (stWOf (f % 4)) fun x => .ok (.ldg x (vregOf dn) a (vregOf (bitsAt w 17 5)) m))
  | 31 => need (f / 4 == 0) .reserved
      (coded (f % 4) (stWOf (f % 4)) fun x => .ok (.stg x (vregOf dn) a (vregOf (bitsAt w 17 5)) m))
  | 32 => .ok (.ldw d a i)
  | 33 => .ok (.ldwe d a i)
  | 34 => .ok (.stf a b imm)
  | 35 => .ok (.feset a b imm)
  | 36 => .ok (.fetest d a i)
  | 37 => need (dn == 0) .reserved (.ok (.pfetch a i))
  | 38 => need (dn == 0) .reserved (.ok (.cflush a i))
  | _ => need (dn == 0) .reserved (.ok (.cinv a i))

/-- The atomic majors 0x28-0x2E (R290). -/
def decodeAtomic (op w : Nat) : Decoded :=
  let dn := bitsAt w 7 5
  let an := bitsAt w 12 5
  let bn := bitsAt w 17 5
  let m := bitsAt w 22 3
  let f := bitsAt w 25 7
  let d := sregOf dn
  let a := sregOf an
  let b := sregOf bn
  match op with
  | 40 => need (m == 0) .reserved
      (coded (f % 16) (amoOpOf (f % 16)) fun o => .ok (.amo o (memOrdOf (f / 32)) (f / 16 % 2 == 1) d a b))
  | 41 => need (m / 2 == 0) .reserved (need (f / 32 != 0 || f % 32 == 0) .reserved
      (.ok (.cas (memOrdOf (f / 32)) (m % 2 == 1) d a b (sregOf (f % 32)))))
  | 42 => need (f / 32 == 0) .reserved (.ok (.amoord (ordOpOf m) d a b (sregOf (f % 32))))
  | 43 => need (dn == 0 && m == 0 && f / 32 == 0) .reserved (need (f % 16 != 0) (.code 0)
      (coded (f % 16) (amoOpOf (f % 16)) fun o => .ok (.red o (f / 16 % 2 == 1) a b)))
  | 44 => need (decide (f ≤ 1)) (.function f) (need (dn == 0 && bn == 0 && m == 0) .reserved
      (.ok (if f = 0 then .fence a else .fencesc a)))
  | 45 => need (dn == 0 && m == 0 && f == 0) .reserved (.ok (.bar a b))
  | _ =>
    match f with
    | 0 => need (dn == 0 && m == 0) .reserved (.ok (.aexp a b))
    | 1 => need (m == 0) .reserved (.ok (.await d a b))
    | 2 => need (an == 0 && bn == 0) .reserved (.ok (.aalloc d m))
    | 3 => need (dn == 0 && bn == 0 && m == 0) .reserved (.ok (.afree a))
    | _ => .error (.function f)

/-- The two-operand integer vector instructions of major 0x30 (R291). -/
def vecIntOf : Nat → Option (ITy → VReg → VReg → VReg → Nat → Instr)
  | 0 => some .vadd
  | 1 => some .vsub
  | 2 => some .vmul
  | 3 => some .vmulh
  | 4 => some .vmin
  | 5 => some .vmax
  | 6 => some .vand
  | 7 => some .vor
  | 8 => some .vxor
  | 9 => some .vandn
  | 10 => some .vshl
  | 11 => some .vshr
  | 12 => some .vsra
  | 13 => some .vadds
  | 14 => some .vsubs
  | 15 => some .vavg
  | _ => none

/-- The integer-typed permutes of major 0x35 (R291). -/
def vecPermOf : Nat → Option (ITy → VReg → VReg → VReg → Nat → Instr)
  | 1 => some .vpermx
  | 2 => some .vzip
  | 3 => some .vunzip
  | 4 => some .vcomp
  | 5 => some .vexpd
  | _ => none

/-- The two-operand floating-point vector instructions of major 0x38 (R291). -/
def vecFpOf : Nat → Option (FTy → VReg → VReg → VReg → Nat → Instr)
  | 0 => some .vfadd
  | 1 => some .vfsub
  | 2 => some .vfmul
  | 3 => some .vfdiv
  | 4 => some .vfmin
  | 5 => some .vfmax
  | _ => none

/-- The one-operand floating-point vector instructions of major 0x38 (R291). -/
def vecFpUnOf : Nat → Option (FTy → VReg → VReg → Nat → Instr)
  | 6 => some .vfsqrt
  | 7 => some .vfclass
  | 8 => some .vrnd
  | _ => none

/-- The fused instructions of major 0x39 (R291). -/
def vecFmaOf : Nat → Option (FTy → VReg → VReg → VReg → Nat → Instr)
  | 0 => some .vfma
  | 1 => some .vfms
  | _ => none

/-- The special functions of major 0x3C (R291). -/
def vecSpOf : Nat → Option (SpTy → VReg → VReg → Nat → Instr)
  | 0 => some .vexp2
  | 1 => some .vlog2
  | 2 => some .vrcp
  | 3 => some .vrsq
  | _ => none

/-- The floating-point ordering instructions of major 0x3D (R291). -/
def vecOrdOf : Nat → Option (FTy → VReg → VReg → VReg → Nat → Instr)
  | 0 => some .vtord
  | 1 => some .vsort
  | _ => none

/-- The joins of major 0x3D (R291). -/
def vecJoinOf : Nat → Option (ITy → VReg → VReg → VReg → Nat → Instr)
  | 2 => some .vjoinPair
  | 3 => some .vjoinUnion
  | _ => none

/-- The two-operand predicate instructions of major 0x34 (R291). -/
def predBinOf : Nat → Option (Nat → Nat → Nat → Instr)
  | 0 => some .kand
  | 1 => some .kor
  | 2 => some .kxor
  | _ => none

/-- Major 0x33, moves and selections (R291). -/
def decodeMove (f : Nat) (t : ITy) (dn an bn k : Nat) : Decoded :=
  match f with
  | 0 => .ok (.vsel t (vregOf dn) (vregOf an) (vregOf bn) k)
  | 1 => need (bn == 0) .reserved (.ok (.vmov t (vregOf dn) (vregOf an) k))
  | 2 => need (bn == 0) .reserved (.ok (.vbcast t (vregOf dn) (sregOf an) k))
  | 3 => .ok (.vext t (sregOf dn) (vregOf an) (sregOf bn) k)
  | 4 => .ok (.vins t (vregOf dn) (sregOf an) (sregOf bn) k)
  | _ => .error (.function f)

/-- Major 0x34, predicates (R291). -/
def decodePred (f dn an bn : Nat) : Decoded :=
  match predBinOf f with
  | some c => reg3 dn fun kd => reg3 an fun ka => reg3 bn fun kb => .ok (c kd ka kb)
  | none =>
    match f with
    | 3 => need (bn == 0) .reserved (reg3 dn fun kd => reg3 an fun ka => .ok (.knot kd ka))
    | 4 => need (bn == 0) .reserved (reg3 an fun ka => .ok (.kpopc (sregOf dn) ka))
    | 5 => need (bn == 0) .reserved (reg3 an fun ka => .ok (.kfirst (sregOf dn) ka))
    | _ => .error (.function f)

/-- Major 0x35, permutes (R291). -/
def decodePerm (f t dn an bn k : Nat) : Decoded :=
  match vecPermOf f with
  | some c => coded t (ityOf t) fun ty => .ok (c ty (vregOf dn) (vregOf an) (vregOf bn) k)
  | none =>
    match f with
    | 0 =>
      match t with
      | 0 => .ok (.vpermByte (vregOf dn) (vregOf an) (vregOf bn) k)
      | 1 => .ok (.vpermNib (vregOf dn) (vregOf an) (vregOf bn) k)
      | _ => .error (.code t)
    | 6 => need (an == 0 && bn == 0) .reserved (coded t (ityOf t) fun ty => .ok (.viota ty (vregOf dn) k))
    | _ => .error (.function f)

/-- Major 0x3B, VCVT (R291): the sides that R291 forbids are refused. -/
def decodeCvt (f t dn an bn k : Nat) : Decoded :=
  need (bn / 4 == 0) .reserved
    (coded t (cvtTyOf (bn % 2 == 1) t) fun dt => coded (f % 8) (cvtTyOf (bn / 2 % 2 == 1) (f % 8)) fun ct =>
      need (cvtWf (f / 8 == 1) dt ct) (.code f) (.ok (.vcvt (f / 8 == 1) dt ct (vregOf dn) (vregOf an) k)))

/-- The vector majors 0x30-0x3D (R291). -/
def decodeVector (op w : Nat) : Decoded :=
  let dn := bitsAt w 7 5
  let an := bitsAt w 12 5
  let bn := bitsAt w 17 5
  let k := bitsAt w 22 3
  let t := bitsAt w 25 3
  let f := bitsAt w 28 4
  let d := vregOf dn
  let a := vregOf an
  let b := vregOf bn
  match op with
  | 0x30 => match vecIntOf f with
    | some c => coded t (ityOf t) fun ty => .ok (c ty d a b k)
    | none => .error (.function f)
  | 0x31 => need (f == 0) (.function f) (need (bn == 0) .reserved (coded t (ityOf t) fun ty => .ok (.vabs ty d a k)))
  | 0x32 => coded f (iCondOf f) fun c => coded t (ityOf t) fun ty => reg3 dn fun kd => .ok (.vcmp c ty kd a b k)
  | 0x33 => coded t (ityOf t) fun ty => decodeMove f ty dn an bn k
  | 0x34 => need (k == 0 && t == 0) .reserved (decodePred f dn an bn)
  | 0x35 => decodePerm f t dn an bn k
  | 0x36 => coded t (ityOf t) fun ty => need (slideWf ty (f + 1)) (.code f) (.ok (.vslide ty d a b (f + 1) k))
  | 0x37 => need (bn == 0) .reserved (coded t (redOpOf f t) fun r => .ok (.vred r d a k))
  | 0x38 => coded t (ftyOf t) fun ty => match vecFpOf f with
    | some c => .ok (c ty d a b k)
    | none => match vecFpUnOf f with
      | some c => need (bn == 0) .reserved (.ok (c ty d a k))
      | none => .error (.function f)
  | 0x39 => match vecFmaOf f with
    | some c => coded t (ftyOf t) fun ty => .ok (c ty d a b k)
    | none => .error (.function f)
  | 0x3A => coded f (fCondOf f) fun c => coded t (ftyOf t) fun ty => reg3 dn fun kd => .ok (.vfcmp c ty kd a b k)
  | 0x3B => decodeCvt f t dn an bn k
  | 0x3C => match vecSpOf f with
    | some c => coded t (sptyOf t) fun ty => need (bn == 0) .reserved (.ok (c ty d a k))
    | none => .error (.function f)
  | _ => match vecOrdOf f with
    | some c => coded t (ftyOf t) fun ty => .ok (c ty d a b k)
    | none => match vecJoinOf f with
      | some c => coded t (ityOf t) fun ty => .ok (c ty d a b k)
      | none => .error (.function f)

/-- The matrix majors 0x50-0x5C (R292). -/
def decodeMatrix (op w : Nat) : Decoded :=
  let md := bitsAt w 7 2
  let qa := bitsAt w 9 3
  let qb := bitsAt w 12 3
  let t := bitsAt w 15 4
  let c := bitsAt w 19 13
  let ch := c / 32
  let cr := c % 32
  match op with
  | 0x50 => need (bitsAt w 7 5 == 0 && bitsAt w 21 11 == 0) .reserved
      (.ok (.rep (sregOf (bitsAt w 12 5)) (bitsAt w 17 4 + 1)))
  | 0x51 => need (md == 0 && qb == 0 && t == 0 && ch == 0) .reserved (.ok (.qset qa (vregOf cr)))
  | 0x52 => need (md == 0 && qb == 0 && t == 0 && ch == 0) .reserved (.ok (.qadv qa (sregOf cr)))
  | 0x53 => need (md == 0 && qb == 0 && t == 0 && ch == 0) .reserved (.ok (.qpos qa (sregOf cr)))
  | 0x54 => need (c == 0) .reserved (coded t (dotTyOf t) fun ty => .ok (.dot ty md qa qb))
  | 0x55 => need (c / 64 == 0) .reserved (coded t (mxTyOf t) fun ty => .ok (.dotmx ty md qa qb (c % 8) (c / 8 % 8)))
  | 0x56 => need (qa == 0 && qb == 0 && t == 0 && c == 0) .reserved (.ok (.mzero md))
  | 0x57 => need (qa == 0 && qb == 0 && t == 0 && ch == 0) .reserved (.ok (.mld md (sregOf cr)))
  | 0x58 => need (qa == 0 && qb == 0 && t == 0 && ch == 0) .reserved (.ok (.mst md (sregOf cr)))
  | 0x59 => need (t == 0 && c / 256 == 0) .reserved (coded (c / 8 % 16) (outTyOf (c / 8 % 16)) fun ot =>
      need (moutWf ot (c / 4 % 2 == 1)) (.code (c / 8 % 16)) (.ok (.mout ot (c % 2 == 1) (c / 2 % 2 == 1) (c / 4 % 2 == 1) (c / 128 % 2 == 1) md qa qb)))
  | 0x5A => need (md == 0 && qa == 0 && qb == 0 && t == 0 && ch == 0) .reserved (.ok (.actld (sregOf cr)))
  | 0x5B => need (md == 0 && t == 0 && ch == 0) .reserved (need (decide (c % 16 < 8)) (.code (c % 16))
      (.ok (.split (c / 16 % 2 == 1) (c % 16 + 1) qa qb)))
  | _ => need (t == 0 && c / 16 == 0) .reserved (need (decide (c % 16 < 8)) (.code (c % 16))
      (.ok (.merge (c % 16 + 1) md qa qb)))

/-- Major 0x69, the LAUNCH forms (R293). -/
def decodeLaunch (f : Nat) (d a : SReg) (bn : Nat) : Decoded :=
  match f with
  | 0 => need (bn == 0) .reserved (.ok (.launch d a))
  | 1 => need (bn == 0) .reserved (.ok (.launchKill d a))
  | 2 => .ok (.launchSig d a (sregOf bn))
  | 3 => need (bn == 0) .reserved (.ok (.launchPre d a))
  | 4 => need (bn == 0) .reserved (.ok (.launchRes d a))
  | _ => .error (.function f)

/-- The engine majors 0x60-0x6D (R293). -/
def decodeEngine (op w : Nat) : Decoded :=
  let dn := bitsAt w 7 5
  let an := bitsAt w 12 5
  let bn := bitsAt w 17 5
  let m := bitsAt w 22 3
  let f := bitsAt w 25 7
  let d := sregOf dn
  let a := sregOf an
  let b := sregOf bn
  match op with
  | 0x60 => need (bn == 0 && m == 0 && f == 0) .reserved (.ok (.cpy d (vregOf an)))
  | 0x61 => need (bn == 0 && m == 0 && f == 0) .reserved (.ok (.strm d (vregOf an)))
  | 0x62 => need (dn == 0 && bn == 0 && m == 0 && f == 0) .reserved (.ok (.strb a))
  | 0x63 => need (an == 0 && bitsAt w 17 15 == 0) .reserved (reg3 dn fun q => .ok (.leave q))
  | 0x64 => need (an == 0 && bitsAt w 17 15 == 0) .reserved (.ok (.rstat d))
  | 0x65 => need (sendWf (m / 4 == 1) d) .reserved (.ok (.send f (m % 4) (m / 4 == 1) a b d))
  | 0x66 => need (dn == 0) .reserved (.ok (.spawn f (m % 4) (m / 4 == 1) a b))
  | 0x67 => need (w / 128 == 0) .reserved (.ok .hend)
  | 0x68 => need (w / 128 == 0) .reserved (.ok .wclose)
  | 0x69 => need (m == 0) .reserved (decodeLaunch f d a bn)
  | 0x6A => need (m == 0 && f == 0) .reserved (.ok (.adig d a b))
  | 0x6B => need (dn == 0 && bn == 0 && m == 0 && f == 0) .reserved (.ok (.ainv a))
  | 0x6C => need (dn == 0 && bitsAt w 17 7 == 0) .reserved
      (.ok (.live (bitsAt w 31 1 == 1) (BitVec.ofNat 7 (bitsAt w 24 7)) a))
  | _ => need (w / 128 == 0) .reserved (.ok .home)

/-- The system majors 0x70-0x7A (R294). -/
def decodeSystem (op w : Nat) : Decoded :=
  let dn := bitsAt w 7 5
  let an := bitsAt w 12 5
  let bn := bitsAt w 17 5
  let a := sregOf an
  let r := bitsAt w 17 12
  let only := dn == 0 && bitsAt w 17 15 == 0
  match op with
  | 0x70 => need (an == 0 && bitsAt w 29 3 == 0) .reserved (need (sysRegWf r) (.sysReg r) (.ok (.mfs (sregOf dn) r)))
  | 0x71 => need (dn == 0 && bitsAt w 29 3 == 0) .reserved (need (sysRegWf r) (.sysReg r) (.ok (.mts r a)))
  | 0x72 => need only .reserved (.ok (.trap a))
  | 0x73 => need (w / 128 == 0) .reserved (.ok .eret)
  | 0x74 => need (w / 128 == 0) .reserved (.ok .wfe)
  | 0x75 => need (w / 128 == 0) .reserved (.ok .yield)
  | 0x76 => need (w / 128 == 0) .reserved (.ok .halt)
  | 0x77 => need (dn == 0 && an == 0) .reserved (.ok (.brk (BitVec.ofNat 15 (bitsAt w 17 15))))
  | 0x78 => need (dn == 0 && bitsAt w 22 10 == 0) .reserved (.ok (.tlbinv a (sregOf bn)))
  | 0x79 => need only .reserved (.ok (.icinv a))
  | _ => need only .reserved (.ok (.rpace a))

/-- Major 0x7F, the wide forms (R295): `w1` is word 1. -/
def decodeWide (w w1 : Nat) : Decoded :=
  let dn := bitsAt w 7 5
  let an := bitsAt w 12 5
  let x := bitsAt w 17 15
  match x with
  | 1 => need (an == 0) .reserved (.ok (.li (sregOf dn) (BitVec.ofNat 32 w1)))
  | 2 => need (an == 0) .reserved (.ok (.lih (sregOf dn) (BitVec.ofNat 32 w1)))
  | 3 => need (an == 0 && w1 / 2 ^ 22 == 0) .reserved
      (reg3 dn fun q => .ok (.board q (BitVec.ofNat 16 (w1 % 2 ^ 16)) (bitsAt w1 16 6 + 1)))
  | _ => .error (.wide x)

/-- The major opcode of a core word (R280, R285). -/
def opOf (w : Nat) : Nat := bitsAt w 0 7

/-- Whether a core word is word 0 of a wide form (R295). -/
def isWide (w : Nat) : Bool := opOf w == 0x7F

/-- The instruction of a core word, and of the word after it where the first is wide (R285). -/
def decodeCore (w w1 : Nat) : Decoded :=
  let op := opOf w
  if op = 0x01 then decodeScalar w
  else if op = 0x02 then decodeBitField w
  else if 0x03 ≤ op ∧ op ≤ 0x0C then decodeImm op w
  else if 0x10 ≤ op ∧ op ≤ 0x13 then decodeControl op w
  else if 0x18 ≤ op ∧ op ≤ 0x27 then decodeMemory op w
  else if 0x28 ≤ op ∧ op ≤ 0x2E then decodeAtomic op w
  else if 0x30 ≤ op ∧ op ≤ 0x3D then decodeVector op w
  else if 0x50 ≤ op ∧ op ≤ 0x5C then decodeMatrix op w
  else if 0x60 ≤ op ∧ op ≤ 0x6D then decodeEngine op w
  else if 0x70 ≤ op ∧ op ≤ 0x7A then decodeSystem op w
  else if op = 0x7F then decodeWide w w1
  else .error (.major op)

/-- A source select (R297): none for the codes 110 and 111. -/
def selOf : Nat → Option Sel
  | 0 => some .none
  | 1 => some (.inp .n)
  | 2 => some (.inp .e)
  | 3 => some (.inp .s)
  | 4 => some (.inp .w)
  | 5 => some .cout
  | _ => none

/-- A source select of a core output (R297): COUT is illegal there. -/
def coreSelOf : Nat → Option Sel
  | 0 => some .none
  | 1 => some (.inp .n)
  | 2 => some (.inp .e)
  | 3 => some (.inp .s)
  | 4 => some (.inp .w)
  | _ => none

/-- The ten selects of a switch word (R296). -/
def selsOf (w : Nat) : Option Sels :=
  match selOf (bitsAt w 4 3), selOf (bitsAt w 7 3), selOf (bitsAt w 10 3), selOf (bitsAt w 13 3),
    coreSelOf (bitsAt w 16 3), selOf (bitsAt w 19 3), selOf (bitsAt w 22 3), selOf (bitsAt w 25 3),
    selOf (bitsAt w 28 3), coreSelOf (bitsAt w 31 3) with
  | some sn, some se, some ss, some sw, some sc, some vn, some ve, some vs, some vw, some vc =>
    some ⟨sn, se, ss, sw, sc, vn, ve, vs, vw, vc⟩
  | _, _, _, _, _, _, _, _, _, _ => none

/-- The instruction of a 64-bit switch word (R296, R297); an illegal word is refused by name. -/
def decodeSwitch (w : Nat) : Decoded :=
  let op := bitsAt w 0 4
  let sels := bitsAt w 4 30
  let ctr := bitsAt w 34 2
  let imm := bitsAt w 36 16
  let target := bitsAt w 52 11
  let top := w / 2 ^ 63
  match op with
  | 0 => need (w / 16 == 0) .reserved (.ok .snop)
  | 1 => need (ctr == 0 && imm == 0 && target == 0 && top == 0) .reserved
      (coded sels (selsOf w) fun x => .ok (.route x))
  | 2 => need (imm == 0 && top == 0) .reserved (coded sels (selsOf w) fun x => .ok (.routec ctr target x))
  | 3 => need (sels == 0 && ctr == 0 && imm == 0 && top == 0) .reserved (.ok (.sjmp target))
  | 4 => need (sels == 0 && target == 0 && top == 0) .reserved (.ok (.scnt ctr (BitVec.ofNat 16 imm)))
  | 5 => need (sels == 0 && ctr == 0 && imm / 2 == 0 && target == 0 && top == 0) .reserved (.ok (.swaitc (imm == 1)))
  | 6 => need (sels == 0 && ctr == 0 && imm / 2 == 0 && target == 0 && top == 0) .reserved (.ok (.ssigc (imm == 1)))
  | 7 => need (w / 16 == 0) .reserved (.ok .shalt)
  | _ => .error (.function op)

/-- Whether a row's bits are those of a switch word (R279, R296). -/
def tableSwitch (nbits v : Nat) : Bool := decide (nbits = 64) && !isWide v

/-- The instruction that the decoder reads from the bits the opcode table numbers: word 0 in bits 31-0, word 1 of a wide
form in bits 63-32 (R279); a row's bits above `nbits` are zero. Of 64 bits, a word whose low half is no wide core word is a
switch word (R295, R296). -/
def decodeTableWord (nbits w : Nat) : Option Instr :=
  let v := w % 2 ^ nbits
  let r := if tableSwitch nbits v then decodeSwitch v else decodeCore (v % 2 ^ 32) (v / 2 ^ 32 % 2 ^ 32)
  match r with
  | .ok i => some i
  | .error _ => none

/-! The encoder. -/

/-- The order of the port registers (R281). -/
def dirCode : Dir → Nat
  | .n => 0
  | .e => 1
  | .s => 2
  | .w => 3

/-- A scalar register field (R281). -/
def sregCode : SReg → Nat
  | .gen n => n
  | .port d => 28 + dirCode d

/-- A vector register field (R281). -/
def vregCode : VReg → Nat
  | .gen n => n
  | .port d => 28 + dirCode d

/-- The integer type codes (R284). -/
def ityCode : ITy → Nat
  | .i8 => 0
  | .i16 => 1
  | .i32 => 2
  | .i64 => 3
  | .n8 => 4
  | .n16 => 5
  | .n32 => 6
  | .n64 => 7

/-- The floating-point type codes (R284). -/
def ftyCode : FTy → Nat
  | .e4m3 => 0
  | .e5m2 => 1
  | .bf16 => 2
  | .f16 => 3
  | .f32 => 4
  | .f64 => 5

/-- The type codes of the special functions (R284). -/
def sptyCode : SpTy → Nat
  | .bf16 => 2
  | .f16 => 3
  | .f32 => 4
  | .f64 => 5

/-- The operand type codes of DOT (R284). -/
def dotTyCode : DotTy → Nat
  | .i8i8 => 0
  | .i8n8 => 1
  | .n8i8 => 2
  | .n8n8 => 3
  | .e4m3e4m3 => 4
  | .e4m3e5m2 => 5
  | .e5m2e4m3 => 6
  | .e5m2e5m2 => 7
  | .bf16 => 8
  | .f16 => 9

/-- The element type codes of DOTMX (R284). -/
def mxTyCode : MxTy → Nat
  | .e4m3 => 0
  | .e5m2 => 1
  | .i8 => 2

/-- The output type codes of MOUT (R292). -/
def outTyCode : OutTy → Nat
  | .i8 => 0
  | .n8 => 1
  | .e4m3 => 2
  | .e5m2 => 3
  | .bf16 => 4
  | .f16 => 5
  | .f32 => 6

/-- The condition codes of BR (R288). -/
def brCondCode : BrCond → Nat
  | .eq => 0
  | .ne => 1
  | .lt => 2
  | .ge => 3
  | .ltn => 4
  | .gen => 5

/-- The condition codes of VCMP (R291). -/
def iCondCode : ICond → Nat
  | .eq => 0
  | .ne => 1
  | .lt => 2
  | .le => 3
  | .gt => 4
  | .ge => 5

/-- The condition codes of VFCMP (R291). -/
def fCondCode : FCond → Nat
  | .eq => 0
  | .ne => 1
  | .lt => 2
  | .le => 3
  | .gt => 4
  | .ge => 5
  | .un => 6
  | .or => 7

/-- The width codes of a load (R289). -/
def ldWCode : LdW → Nat
  | .i8 => 0
  | .i16 => 1
  | .i32 => 2
  | .w64 => 3
  | .n8 => 4
  | .n16 => 5
  | .n32 => 6

/-- The width codes of a store (R289). -/
def stWCode : StW → Nat
  | .b1 => 0
  | .b2 => 1
  | .b4 => 2
  | .b8 => 3

/-- The ordering codes (R290). -/
def memOrdCode : MemOrd → Nat
  | .none => 0
  | .acq => 1
  | .rel => 2
  | .acqrel => 3

/-- The operation codes op4 (R290). -/
def amoOpCode : AmoOp → Nat
  | .swap => 0
  | .add => 1
  | .and => 2
  | .or => 3
  | .xor => 4
  | .min => 5
  | .max => 6
  | .minn => 7
  | .maxn => 8
  | .fadd => 9
  | .fmin => 10
  | .fmax => 11

/-- The operation codes of AMOORD (R290). -/
def ordOpCode : OrdOp → Nat
  | .swap => 0
  | .add => 1
  | .and => 2
  | .or => 3
  | .xor => 4
  | .min => 5
  | .max => 6
  | .fadd => 7

/-- The select codes (R297). -/
def selCode : Sel → Nat
  | .none => 0
  | .inp .n => 1
  | .inp .e => 2
  | .inp .s => 3
  | .inp .w => 4
  | .cout => 5

/-- The function and type codes of VRED (R291). -/
def redOpCode : RedOp → Nat × Nat
  | .add t => (0, ityCode t)
  | .min t => (1, ityCode t)
  | .max t => (2, ityCode t)
  | .and t => (3, ityCode t)
  | .or t => (4, ityCode t)
  | .xor t => (5, ityCode t)
  | .fadd t => (6, ftyCode t)
  | .fmin t => (7, ftyCode t)
  | .fmax t => (8, ftyCode t)

/-- The type code of one side of a conversion, and whether it is floating-point (R291). -/
def cvtTyCode : CvtTy → Nat × Nat
  | .int t => (ityCode t, 0)
  | .flt t => (ftyCode t, 1)

/-- A flag as a bit. -/
def bit (b : Bool) : Nat := if b then 1 else 0

/-- An R-format word (R280). -/
def encR (op d a b m f : Nat) : Nat :=
  op + d * 2 ^ 7 + a * 2 ^ 12 + b * 2 ^ 17 + m * 2 ^ 22 + f * 2 ^ 25

/-- An I-format word (R280). -/
def encI (op d a imm : Nat) : Nat := op + d * 2 ^ 7 + a * 2 ^ 12 + imm * 2 ^ 17

/-- An S-format word (R280). -/
def encS (op a b imm : Nat) : Nat := encR op (imm % 32) a b 0 0 + imm / 32 * 2 ^ 22

/-- A B-format word (R280). -/
def encB (op a b cond off : Nat) : Nat := op + a * 2 ^ 7 + b * 2 ^ 12 + cond * 2 ^ 17 + off * 2 ^ 20

/-- A J-format word (R280). -/
def encJ (op d off : Nat) : Nat := op + d * 2 ^ 7 + off * 2 ^ 12

/-- A V-format word (R280). -/
def encV (op d a b k t f : Nat) : Nat := encR op d a b k t + f * 2 ^ 28

/-- An M-format word (R280). -/
def encM (op md qa qb t c : Nat) : Nat :=
  op + md * 2 ^ 7 + qa * 2 ^ 9 + qb * 2 ^ 12 + t * 2 ^ 15 + c * 2 ^ 19

/-- The words of a core instruction (R286-R295): one word, two for a wide form, none for any other step. -/
def encode : Instr → List Nat
  | .add d a b => [encR 0x01 (sregCode d) (sregCode a) (sregCode b) 0 0]
  | .sub d a b => [encR 0x01 (sregCode d) (sregCode a) (sregCode b) 0 1]
  | .mul d a b => [encR 0x01 (sregCode d) (sregCode a) (sregCode b) 0 2]
  | .mulh d a b => [encR 0x01 (sregCode d) (sregCode a) (sregCode b) 0 3]
  | .mulhn d a b => [encR 0x01 (sregCode d) (sregCode a) (sregCode b) 0 4]
  | .div d a b => [encR 0x01 (sregCode d) (sregCode a) (sregCode b) 0 5]
  | .divn d a b => [encR 0x01 (sregCode d) (sregCode a) (sregCode b) 0 6]
  | .rem d a b => [encR 0x01 (sregCode d) (sregCode a) (sregCode b) 0 7]
  | .remn d a b => [encR 0x01 (sregCode d) (sregCode a) (sregCode b) 0 8]
  | .and d a b => [encR 0x01 (sregCode d) (sregCode a) (sregCode b) 0 9]
  | .or d a b => [encR 0x01 (sregCode d) (sregCode a) (sregCode b) 0 10]
  | .xor d a b => [encR 0x01 (sregCode d) (sregCode a) (sregCode b) 0 11]
  | .andn d a b => [encR 0x01 (sregCode d) (sregCode a) (sregCode b) 0 12]
  | .orn d a b => [encR 0x01 (sregCode d) (sregCode a) (sregCode b) 0 13]
  | .shl d a b => [encR 0x01 (sregCode d) (sregCode a) (sregCode b) 0 14]
  | .shr d a b => [encR 0x01 (sregCode d) (sregCode a) (sregCode b) 0 15]
  | .sra d a b => [encR 0x01 (sregCode d) (sregCode a) (sregCode b) 0 16]
  | .rol d a b => [encR 0x01 (sregCode d) (sregCode a) (sregCode b) 0 17]
  | .min d a b => [encR 0x01 (sregCode d) (sregCode a) (sregCode b) 0 18]
  | .max d a b => [encR 0x01 (sregCode d) (sregCode a) (sregCode b) 0 19]
  | .minn d a b => [encR 0x01 (sregCode d) (sregCode a) (sregCode b) 0 20]
  | .maxn d a b => [encR 0x01 (sregCode d) (sregCode a) (sregCode b) 0 21]
  | .slt d a b => [encR 0x01 (sregCode d) (sregCode a) (sregCode b) 0 22]
  | .sltn d a b => [encR 0x01 (sregCode d) (sregCode a) (sregCode b) 0 23]
  | .seq d a b => [encR 0x01 (sregCode d) (sregCode a) (sregCode b) 0 24]
  | .addv d a b => [encR 0x01 (sregCode d) (sregCode a) (sregCode b) 0 25]
  | .subv d a b => [encR 0x01 (sregCode d) (sregCode a) (sregCode b) 0 26]
  | .clz d a => [encR 0x01 (sregCode d) (sregCode a) 0 0 27]
  | .ctz d a => [encR 0x01 (sregCode d) (sregCode a) 0 0 28]
  | .popc d a => [encR 0x01 (sregCode d) (sregCode a) 0 0 29]
  | .sel d a b k => [encR 0x01 (sregCode d) (sregCode a) (sregCode b) k 30]
  | .bfx d a p n => [encI 0x02 (sregCode d) (sregCode a) (p + (n - 1) * 2 ^ 6)]
  | .bfi d a p n => [encI 0x02 (sregCode d) (sregCode a) (p + (n - 1) * 2 ^ 6 + 2 ^ 12)]
  | .addi d a imm => [encI 3 (sregCode d) (sregCode a) imm.toNat]
  | .andi d a imm => [encI 4 (sregCode d) (sregCode a) imm.toNat]
  | .ori d a imm => [encI 5 (sregCode d) (sregCode a) imm.toNat]
  | .xori d a imm => [encI 6 (sregCode d) (sregCode a) imm.toNat]
  | .slti d a imm => [encI 10 (sregCode d) (sregCode a) imm.toNat]
  | .shli d a n => [encI 7 (sregCode d) (sregCode a) n.toNat]
  | .shri d a n => [encI 8 (sregCode d) (sregCode a) n.toNat]
  | .srai d a n => [encI 9 (sregCode d) (sregCode a) n.toNat]
  | .lui d off => [encJ 11 (sregCode d) off.toNat]
  | .addpc d off => [encJ 12 (sregCode d) off.toNat]
  | .li d imm => [encI 0x7F (sregCode d) 0 1, imm.toNat]
  | .lih d imm => [encI 0x7F (sregCode d) 0 2, imm.toNat]
  | .board q layer laps => [encI 0x7F q 0 3, layer.toNat + (laps - 1) * 2 ^ 16]
  | .br c a b off => [encB 16 (sregCode a) (sregCode b) (brCondCode c) off.toNat]
  | .jal d off => [encJ 17 (sregCode d) off.toNat]
  | .jalr d a imm => [encI 18 (sregCode d) (sregCode a) imm.toNat]
  | .loop a off => [encB 19 (sregCode a) 0 0 off.toNat]
  | .ld w d a off => [encI 24 (sregCode d) (sregCode a) (off.toNat + ldWCode w * 2 ^ 12)]
  | .st w a b off => [encS 25 (sregCode a) (sregCode b) (off.toNat + stWCode w * 2 ^ 12)]
  | .ldAcq w d a b => [encR 26 (sregCode d) (sregCode a) (sregCode b) 0 (ldWCode w)]
  | .stRel w d a b => [encR 27 (sregCode d) (sregCode a) (sregCode b) 0 (stWCode w)]
  | .ldv d a b k => [encV 28 (vregCode d) (sregCode a) (sregCode b) k 0 0]
  | .stv d a b k => [encV 29 (vregCode d) (sregCode a) (sregCode b) k 0 0]
  | .ldg w d a b k => [encV 30 (vregCode d) (sregCode a) (vregCode b) k (stWCode w) 0]
  | .stg w d a b k => [encV 31 (vregCode d) (sregCode a) (vregCode b) k (stWCode w) 0]
  | .ldw d a imm => [encI 32 (sregCode d) (sregCode a) imm.toNat]
  | .ldwe d a imm => [encI 33 (sregCode d) (sregCode a) imm.toNat]
  | .fetest d a imm => [encI 36 (sregCode d) (sregCode a) imm.toNat]
  | .stf a b imm => [encS 34 (sregCode a) (sregCode b) imm.toNat]
  | .feset a b imm => [encS 35 (sregCode a) (sregCode b) imm.toNat]
  | .pfetch a imm => [encI 37 0 (sregCode a) imm.toNat]
  | .cflush a imm => [encI 38 0 (sregCode a) imm.toNat]
  | .cinv a imm => [encI 39 0 (sregCode a) imm.toNat]
  | .amo op ord w32 d a b => [encR 40 (sregCode d) (sregCode a) (sregCode b) 0 (amoOpCode op + bit w32 * 16 + memOrdCode ord * 32)]
  | .cas ord w32 d a b f => [encR 41 (sregCode d) (sregCode a) (sregCode b) (bit w32) (sregCode f + memOrdCode ord * 32)]
  | .amoord op d a b f => [encR 42 (sregCode d) (sregCode a) (sregCode b) (ordOpCode op) (sregCode f)]
  | .red op w32 a b => [encR 43 0 (sregCode a) (sregCode b) 0 (amoOpCode op + bit w32 * 16)]
  | .fence a => [encR 44 0 (sregCode a) 0 0 0]
  | .fencesc a => [encR 44 0 (sregCode a) 0 0 1]
  | .bar a b => [encR 45 0 (sregCode a) (sregCode b) 0 0]
  | .aexp a b => [encR 46 0 (sregCode a) (sregCode b) 0 0]
  | .await d a b => [encR 46 (sregCode d) (sregCode a) (sregCode b) 0 1]
  | .aalloc d k => [encR 46 (sregCode d) 0 0 k 2]
  | .afree a => [encR 46 0 (sregCode a) 0 0 3]
  | .vadd t d a b k => [encV 0x30 (vregCode d) (vregCode a) (vregCode b) k (ityCode t) 0]
  | .vsub t d a b k => [encV 0x30 (vregCode d) (vregCode a) (vregCode b) k (ityCode t) 1]
  | .vmul t d a b k => [encV 0x30 (vregCode d) (vregCode a) (vregCode b) k (ityCode t) 2]
  | .vmulh t d a b k => [encV 0x30 (vregCode d) (vregCode a) (vregCode b) k (ityCode t) 3]
  | .vmin t d a b k => [encV 0x30 (vregCode d) (vregCode a) (vregCode b) k (ityCode t) 4]
  | .vmax t d a b k => [encV 0x30 (vregCode d) (vregCode a) (vregCode b) k (ityCode t) 5]
  | .vand t d a b k => [encV 0x30 (vregCode d) (vregCode a) (vregCode b) k (ityCode t) 6]
  | .vor t d a b k => [encV 0x30 (vregCode d) (vregCode a) (vregCode b) k (ityCode t) 7]
  | .vxor t d a b k => [encV 0x30 (vregCode d) (vregCode a) (vregCode b) k (ityCode t) 8]
  | .vandn t d a b k => [encV 0x30 (vregCode d) (vregCode a) (vregCode b) k (ityCode t) 9]
  | .vshl t d a b k => [encV 0x30 (vregCode d) (vregCode a) (vregCode b) k (ityCode t) 10]
  | .vshr t d a b k => [encV 0x30 (vregCode d) (vregCode a) (vregCode b) k (ityCode t) 11]
  | .vsra t d a b k => [encV 0x30 (vregCode d) (vregCode a) (vregCode b) k (ityCode t) 12]
  | .vadds t d a b k => [encV 0x30 (vregCode d) (vregCode a) (vregCode b) k (ityCode t) 13]
  | .vsubs t d a b k => [encV 0x30 (vregCode d) (vregCode a) (vregCode b) k (ityCode t) 14]
  | .vavg t d a b k => [encV 0x30 (vregCode d) (vregCode a) (vregCode b) k (ityCode t) 15]
  | .vabs t d a k => [encV 0x31 (vregCode d) (vregCode a) 0 k (ityCode t) 0]
  | .vcmp c t kd a b k => [encV 0x32 kd (vregCode a) (vregCode b) k (ityCode t) (iCondCode c)]
  | .vsel t d a b k => [encV 0x33 (vregCode d) (vregCode a) (vregCode b) k (ityCode t) 0]
  | .vmov t d a k => [encV 0x33 (vregCode d) (vregCode a) 0 k (ityCode t) 1]
  | .vbcast t d a k => [encV 0x33 (vregCode d) (sregCode a) 0 k (ityCode t) 2]
  | .vext t d a b k => [encV 0x33 (sregCode d) (vregCode a) (sregCode b) k (ityCode t) 3]
  | .vins t d a b k => [encV 0x33 (vregCode d) (sregCode a) (sregCode b) k (ityCode t) 4]
  | .kand kd ka kb => [encV 0x34 kd ka kb 0 0 0]
  | .kor kd ka kb => [encV 0x34 kd ka kb 0 0 1]
  | .kxor kd ka kb => [encV 0x34 kd ka kb 0 0 2]
  | .knot kd ka => [encV 0x34 kd ka 0 0 0 3]
  | .kpopc d ka => [encV 0x34 (sregCode d) ka 0 0 0 4]
  | .kfirst d ka => [encV 0x34 (sregCode d) ka 0 0 0 5]
  | .vpermByte d a b k => [encV 0x35 (vregCode d) (vregCode a) (vregCode b) k 0 0]
  | .vpermNib d a b k => [encV 0x35 (vregCode d) (vregCode a) (vregCode b) k 1 0]
  | .vpermx t d a b k => [encV 0x35 (vregCode d) (vregCode a) (vregCode b) k (ityCode t) 1]
  | .vzip t d a b k => [encV 0x35 (vregCode d) (vregCode a) (vregCode b) k (ityCode t) 2]
  | .vunzip t d a b k => [encV 0x35 (vregCode d) (vregCode a) (vregCode b) k (ityCode t) 3]
  | .vcomp t d a b k => [encV 0x35 (vregCode d) (vregCode a) (vregCode b) k (ityCode t) 4]
  | .vexpd t d a b k => [encV 0x35 (vregCode d) (vregCode a) (vregCode b) k (ityCode t) 5]
  | .viota t d k => [encV 0x35 (vregCode d) 0 0 k (ityCode t) 6]
  | .vslide t d a b n k => [encV 0x36 (vregCode d) (vregCode a) (vregCode b) k (ityCode t) (n - 1)]
  | .vred r d a k => [encV 0x37 (vregCode d) (vregCode a) 0 k (redOpCode r).2 (redOpCode r).1]
  | .vfadd t d a b k => [encV 0x38 (vregCode d) (vregCode a) (vregCode b) k (ftyCode t) 0]
  | .vfsub t d a b k => [encV 0x38 (vregCode d) (vregCode a) (vregCode b) k (ftyCode t) 1]
  | .vfmul t d a b k => [encV 0x38 (vregCode d) (vregCode a) (vregCode b) k (ftyCode t) 2]
  | .vfdiv t d a b k => [encV 0x38 (vregCode d) (vregCode a) (vregCode b) k (ftyCode t) 3]
  | .vfmin t d a b k => [encV 0x38 (vregCode d) (vregCode a) (vregCode b) k (ftyCode t) 4]
  | .vfmax t d a b k => [encV 0x38 (vregCode d) (vregCode a) (vregCode b) k (ftyCode t) 5]
  | .vfsqrt t d a k => [encV 0x38 (vregCode d) (vregCode a) 0 k (ftyCode t) 6]
  | .vfclass t d a k => [encV 0x38 (vregCode d) (vregCode a) 0 k (ftyCode t) 7]
  | .vrnd t d a k => [encV 0x38 (vregCode d) (vregCode a) 0 k (ftyCode t) 8]
  | .vfma t d a b k => [encV 0x39 (vregCode d) (vregCode a) (vregCode b) k (ftyCode t) 0]
  | .vfms t d a b k => [encV 0x39 (vregCode d) (vregCode a) (vregCode b) k (ftyCode t) 1]
  | .vfcmp c t kd a b k => [encV 0x3A kd (vregCode a) (vregCode b) k (ftyCode t) (fCondCode c)]
  | .vcvt sat dt ct d a k =>
    [encV 0x3B (vregCode d) (vregCode a) ((cvtTyCode dt).2 + (cvtTyCode ct).2 * 2) k (cvtTyCode dt).1
      ((cvtTyCode ct).1 + bit sat * 8)]
  | .vexp2 t d a k => [encV 0x3C (vregCode d) (vregCode a) 0 k (sptyCode t) 0]
  | .vlog2 t d a k => [encV 0x3C (vregCode d) (vregCode a) 0 k (sptyCode t) 1]
  | .vrcp t d a k => [encV 0x3C (vregCode d) (vregCode a) 0 k (sptyCode t) 2]
  | .vrsq t d a k => [encV 0x3C (vregCode d) (vregCode a) 0 k (sptyCode t) 3]
  | .vtord t d a b k => [encV 0x3D (vregCode d) (vregCode a) (vregCode b) k (ftyCode t) 0]
  | .vsort t d a b k => [encV 0x3D (vregCode d) (vregCode a) (vregCode b) k (ftyCode t) 1]
  | .vjoinPair t d a b k => [encV 0x3D (vregCode d) (vregCode a) (vregCode b) k (ityCode t) 2]
  | .vjoinUnion t d a b k => [encV 0x3D (vregCode d) (vregCode a) (vregCode b) k (ityCode t) 3]
  | .rep a n => [encI 0x50 0 (sregCode a) (n - 1)]
  | .qset q v => [encM 0x51 0 q 0 0 (vregCode v)]
  | .qadv q c => [encM 0x52 0 q 0 0 (sregCode c)]
  | .qpos q c => [encM 0x53 0 q 0 0 (sregCode c)]
  | .dot t m qa qb => [encM 0x54 m qa qb (dotTyCode t) 0]
  | .dotmx t m qa qb sa sb => [encM 0x55 m qa qb (mxTyCode t) (sa + sb * 8)]
  | .mzero m => [encM 0x56 m 0 0 0 0]
  | .mld m c => [encM 0x57 m 0 0 0 (sregCode c)]
  | .mst m c => [encM 0x58 m 0 0 0 (sregCode c)]
  | .mout ot bias act quant i32 m qa qb =>
    [encM 0x59 m qa qb 0 (bit bias + bit act * 2 + bit quant * 4 + outTyCode ot * 8 + bit i32 * 128)]
  | .actld c => [encM 0x5A 0 0 0 0 (sregCode c)]
  | .split cols n qa qb => [encM 0x5B 0 qa qb 0 (n - 1 + bit cols * 16)]
  | .merge n m qa qb => [encM 0x5C m qa qb 0 (n - 1)]
  | .cpy d a => [encV 0x60 (sregCode d) (vregCode a) 0 0 0 0]
  | .strm d a => [encV 0x61 (sregCode d) (vregCode a) 0 0 0 0]
  | .strb a => [encR 0x62 0 (sregCode a) 0 0 0]
  | .leave q => [encI 0x63 q 0 0]
  | .rstat d => [encI 0x64 (sregCode d) 0 0]
  | .send label prio two a b d => [encR 0x65 (sregCode d) (sregCode a) (sregCode b) (prio + bit two * 4) label]
  | .spawn label prio two a b => [encR 0x66 0 (sregCode a) (sregCode b) (prio + bit two * 4) label]
  | .hend => [0x67]
  | .wclose => [0x68]
  | .launch d a => [encR 0x69 (sregCode d) (sregCode a) 0 0 0]
  | .launchKill d a => [encR 0x69 (sregCode d) (sregCode a) 0 0 1]
  | .launchPre d a => [encR 0x69 (sregCode d) (sregCode a) 0 0 3]
  | .launchRes d a => [encR 0x69 (sregCode d) (sregCode a) 0 0 4]
  | .launchSig d a b => [encR 0x69 (sregCode d) (sregCode a) (sregCode b) 0 2]
  | .adig d a b => [encR 0x6A (sregCode d) (sregCode a) (sregCode b) 0 0]
  | .ainv a => [encR 0x6B 0 (sregCode a) 0 0 0]
  | .live remote kmask a => [encI 0x6C 0 (sregCode a) (kmask.toNat * 2 ^ 7 + bit remote * 2 ^ 14)]
  | .home => [0x6D]
  | .mfs d r => [encI 0x70 (sregCode d) 0 r]
  | .mts r a => [encI 0x71 0 (sregCode a) r]
  | .trap a => [encR 0x72 0 (sregCode a) 0 0 0]
  | .eret => [0x73]
  | .wfe => [0x74]
  | .yield => [0x75]
  | .halt => [0x76]
  | .brk imm => [encI 0x77 0 0 imm.toNat]
  | .tlbinv a b => [encR 0x78 0 (sregCode a) (sregCode b) 0 0]
  | .icinv a => [encR 0x79 0 (sregCode a) 0 0 0]
  | .rpace a => [encR 0x7A 0 (sregCode a) 0 0 0]
  | .reset | .selfTestDone .. | .bootctlGo | .imageVerifyComplete | .firmwareStarted | .frameDrop ..
  | .mwrite .. | .mread .. | .msg .. | .eventAck .. | .eventRetransmit | .endpointRegWrite .. | .dropfcsRead
  | .dropsecRead | .drophdrRead | .evlostRead | .mclostRead .. | .attctlGo | .attestComplete | .carveWrite ..
  | .ptpMessage .. | .ptpLockLost .. | .throttleSample .. | .currentExcursion .. | .eolRecompute ..
  | .ucieCrcReplay .. | .ucieRetrainComplete .. | .flasterCrcReplay .. | .flasterPacketArrive ..
  | .hostPortLinkDown .. | .patrolScrub .. | .schedulerPass | .nodeStart | .ageingStep | .nodeSignal
  | .condEvaluate | .tileRetire | .mptDrain | .drainCertificate | .drainTimeout | .gangPrepare
  | .gangReady | .gangStartReceive | .gangMemberStart | .gangWaitTimeout | .gangAbort | .gangMemberDone
  | .gangMemberFail | .preemptProceed | .preemptSave | .resumePlace | .archiveHashComplete
  | .archiveProbeResult | .archiveWatchHit | .archiveDeliverComplete | .archiveInsertComplete
  | .archiveInvalidate | .mptAccess | .mptRed | .sealMarker | .mptAmoord | .amoordResend | .loadReply
  | .runAheadBegin | .runAheadPrefetch | .taskArrive | .taskPick | .detDispatch | .windowClose | .stealProbe
  | .stealRequest | .stealReply | .stolenTaskReturn | .migrateRequest | .migrateQueueTimeout | .migrateGrant
  | .migrateRefuse | .migrateStateArrive | .remoteAccessRequest | .remoteAccessReply | .copyBegin
  | .copyComplete | .arrivalCount | .awaitComplete | .streamBind | .streamLoaderFlit | .streamStorerFlit
  | .streamEnd | .clusterBlockSend | .streamLookaheadFill .. | .rpaceListFillComplete | .handOver | .injectBeat
  | .tapHeader | .tapPayloadBeat | .tapTrailer | .folioRelease | .tapLaneSilent | .laneDownNotice | .laneRestart
  | .ringStallStart | .ringStallEnd | .slowStallTimeout | .armNoticeArrive | .tapReport | .rereadComplete ..
  | .budgetRefill | .routerPowerDown .. | .routerWake .. | .packetDeliver | .dynamicCrcRetry | .bulkCrcDiscard
  | .waitForProbeSend | .waitForProbeArrive | .localCycleDetect | .quiescenceTimeout | .gangChainIssue
  | .debugHalt | .debugHaltComplete | .debugResume | .debugStep | .debugSstep | .debugRegRead ..
  | .debugRegWrite .. | .snop | .route .. | .routec .. | .sjmp .. | .scnt .. | .swaitc .. | .ssigc .. | .shalt
  | .illegalInstruction .. | .instructionFetchFault .. | .switchIllegalWord .. | .neighbourSolicitation ..
  | .hostPortLinkUp .. | .flasterLinkUp .. => []

/-- The selects of a switch word in place (R296). -/
def selsCode (x : Sels) : Nat :=
  selCode x.sn * 2 ^ 4 + selCode x.se * 2 ^ 7 + selCode x.ss * 2 ^ 10 + selCode x.sw * 2 ^ 13 + selCode x.score * 2 ^ 16
    + selCode x.vn * 2 ^ 19 + selCode x.ve * 2 ^ 22 + selCode x.vs * 2 ^ 25 + selCode x.vw * 2 ^ 28
    + selCode x.vcore * 2 ^ 31

/-- The 64-bit word of a switch instruction (R296, R297); none for any other step. -/
def encodeSwitch (i : Instr) : Option Nat :=
  match i with
  | .snop => some 0
  | .route x => some (1 + selsCode x)
  | .routec c target x => some (2 + selsCode x + c * 2 ^ 34 + target * 2 ^ 52)
  | .sjmp target => some (3 + target * 2 ^ 52)
  | .scnt c imm => some (4 + c * 2 ^ 34 + imm.toNat * 2 ^ 36)
  | .swaitc v => some (5 + bit v * 2 ^ 36)
  | .ssigc v => some (6 + bit v * 2 ^ 36)
  | .shalt => some 7
  | _ => none

/-- Whether the step is an instruction of the core, with core words of its own. -/
def isCore (i : Instr) : Bool := !(encode i).isEmpty

end Sys2Proof
end

