-- ==== Sys2Proof/Config.lean ====
section
/-! DEFINITION. What an implementation fixes and the values the spec leaves open. An `opaque` constant has no body: nothing
in Lean can evaluate it or prove a value of it, so a statement that mentions one holds for every value. -/

namespace Sys2Proof.Config

/-- A fresh free word: the n-th value the spec leaves open (log entry 1). -/
opaque freeWord : Nat → BitVec 64

/-- A fresh free choice between two permitted outcomes (log entry 1). -/
opaque freeBool : Nat → Bool

/-- The fused serial number of the part (R446), never 0: only its 32 bits are used. -/
opaque serial : BitVec 32

/-- The silicon revision (R446). -/
opaque revision : BitVec 16

/-- The boot ROM version of the stepping (R446). -/
opaque romVersion : BitVec 16

/-- The fused minimum security version (R446, R47). -/
opaque minimumSvn : BitVec 16

/-- The header checks of a staged image (R47): the manual does not give the image's layout. -/
opaque imageHeaderOk : List (Nat × BitVec 8) → Bool

/-- The length that a staged image's header states (R47). -/
opaque imageLength : List (Nat × BitVec 8) → Nat

/-- The signed body of a staged image, the SLH-DSA public key that it carries, and its signature (R47): where they stand in the image is
not given. -/
opaque imageBody : List (Nat × BitVec 8) → List (BitVec 8)
opaque imageKey : List (Nat × BitVec 8) → List (BitVec 8)
opaque imageSignature : List (Nat × BitVec 8) → List (BitVec 8)

/-- The fused SHAKE256 digest of the verifying key (R47). -/
opaque keyDigest : List (BitVec 8)

/-- The security version of a staged image (R47). -/
opaque imageSvn : List (Nat × BitVec 8) → BitVec 16

/-- The firmware version of a staged image (R47, R48). -/
opaque imageFwver : List (Nat × BitVec 8) → BitVec 16

/-- The entry address of the firmware of a staged image on a service tile (R47): not given by the manual. -/
opaque firmwareEntry : List (Nat × BitVec 8) → Nat → BitVec 64

/-- The page-table root of the firmware on a service tile (R202): not given by the manual. -/
opaque firmwareRoot : List (Nat × BitVec 8) → Nat → Nat

/-- The MAC address of a host port (R37). -/
opaque portMac : Nat → BitVec 48

/-- The SHAKE256 of the boot ROM (R50): the ROM's bytes are not given. -/
opaque romDigest : List (BitVec 8)

/-- The bytes of the fused 256-bit device secret (R49): nothing reads them but the derivation of the identity key. -/
opaque deviceSecret : Nat → BitVec 8

/-- The fixed choice of R246 for VEXP2.f64: true takes the upper of the two neighbours. -/
opaque exp2Upper : BitVec 64 → Bool

/-- The fixed choice of R246 for VLOG2.f64. -/
opaque log2Upper : BitVec 64 → Bool

/-- The stop of the Lantern ring's sequencer, from which lane-down notices travel (R21): not given. -/
opaque sequencerStop : Nat

/-- Whether an Archive entry's FILTER over chunks also matches a chunk that it does not hold (R144, R151): its hash functions are not
given. -/
opaque bloomMatch : List Nat → Nat → Bool

/-- Whether the watch filter over counted chunks also matches a chunk that is not counted (R150, R151). -/
opaque watchMatch : List Nat → Nat → Bool

/-- The clock ticks before the n-th turn that no agenda names: core cycles, nanoseconds, ring cycles (log entry 19). -/
opaque freeClocks : Nat → Nat × Nat × Nat

/-- The agent of that turn (log entry 19): a core (0) or a switch (else), its tile, its slot, and the item of an event. -/
opaque freeAgent : Nat → Nat × Nat × Nat × Nat

/-- The event of that turn, none where it is a core's or a switch's (log entry 19). -/
opaque freeEvent : Nat → Option Instr

/-- The error that arises in that turn, none in most (R33, log entry 19): its kind and up to four numbers that say where. -/
opaque freeUpset : Nat → Option (Nat × Nat × Nat × Nat × Nat)

/-- The MACsec key that the host writes in that turn, none in most: the port, and the key or none to take it away (R36, log entry 19). -/
opaque freeKey : Nat → Option (Nat × Option SecKey)

/-- The most words of a span that are performed in that turn, 0 for all of them (R210, log entry 19). -/
opaque freeWords : Nat → Nat

end Sys2Proof.Config
end

