-- ==== Sys2Proof/Machine/Sparse.lean ====
section
/-! DEFINITION. Sparse tables: a list of (key, value) pairs in one canonical form (keys strictly rising, no entry equal to
what an unlisted key reads as). Memory, register files, tiles and memory-port tiles are all held this way. -/

namespace Sys2Proof.Machine

/-- A sparse table. What an unlisted key reads as is given to every operation. -/
abbrev Sparse (α : Type) := List (Nat × α)

/-- The value at a key: the first entry with that key, or `d`. -/
def sparseGet {α : Type} (d : α) : Sparse α → Nat → α
  | [], _ => d
  | (k, v) :: m, i => if k = i then v else sparseGet d m i

/-- Every entry but those with key `i`. -/
def sparseErase {α : Type} : Sparse α → Nat → Sparse α
  | [], _ => []
  | (k, v) :: m, i => if k = i then sparseErase m i else (k, v) :: sparseErase m i

/-- An entry put before the first one with a greater key. -/
def sparseInsert {α : Type} : Sparse α → Nat → α → Sparse α
  | [], i, x => [(i, x)]
  | (k, v) :: m, i, x => if i < k then (i, x) :: (k, v) :: m else (k, v) :: sparseInsert m i x

/-- The table with key `i` reading `x`: the canonical form is kept (`x = d` removes the entry). -/
def sparseSet {α : Type} [DecidableEq α] (d : α) (m : Sparse α) (i : Nat) (x : α) : Sparse α :=
  if x = d then sparseErase m i else sparseInsert (sparseErase m i) i x

/-- The table with every key in `lo ≤ i < hi` reading the default. -/
def sparseClear {α : Type} (m : Sparse α) (lo hi : Nat) : Sparse α :=
  m.filter (fun e => !(decide (lo ≤ e.1) && decide (e.1 < hi)))

/-- Every key of the tail is greater than `k`, and keys rise strictly. -/
def sparseRising {α : Type} : Option Nat → Sparse α → Bool
  | _, [] => true
  | none, (k, _) :: m => sparseRising (some k) m
  | some j, (k, _) :: m => decide (j < k) && sparseRising (some k) m

/-- The canonical form: keys strictly rising, no entry equal to the default. -/
def sparseWf {α : Type} [DecidableEq α] (d : α) (m : Sparse α) : Bool :=
  sparseRising none m && m.all (fun e => decide (e.2 ≠ d))

/-- A set of keys, held as a rising list without repeats. -/
abbrev KeySet := List Nat

/-- The set with one key added. -/
def keyInsert : KeySet → Nat → KeySet
  | [], i => [i]
  | k :: m, i => if i < k then i :: k :: m else if i = k then k :: m else k :: keyInsert m i

/-- The set with one key removed. -/
def keyErase (m : KeySet) (i : Nat) : KeySet := m.filter (fun k => decide (k ≠ i))

/-- The set without the keys in `lo ≤ i < hi`. -/
def keyClear (m : KeySet) (lo hi : Nat) : KeySet := m.filter (fun k => !(decide (lo ≤ k) && decide (k < hi)))

end Sys2Proof.Machine
end

