-- ==== Sys2Proof/Machine/State.lean ====
section
/-! DEFINITION. The state of the part as plain data (INVENTORY.md, State), the reasons a step can stop, and the state right
after reset. -/

namespace Sys2Proof.Machine

/-- The four forms of the part (R1, R2, R17, R28): the full package, the harvested package, the bare die, the module. -/
inductive Part where
  | e3072P | e2688P | e768D | e3072M
  deriving DecidableEq, Repr

/-- The trap causes (R263), in the order of their codes 0x01 to 0x15. -/
inductive Cause where
  | illegal | privilege | misalign | page | access | fpx | snan | overflow | zerodiv | rewrite | purity | overrun | folio
  | cycle | scope | ecc | link | brk | software | launch | blocked
  deriving DecidableEq, Repr

/-- What a thread waits for (R156, R178): the reason its next instruction is not ready. -/
inductive Wait where
  /-- Nothing: the thread may issue. -/
  | none
  /-- An empty CIN buffer (R164). -/
  | portIn (p : Plane) (d : Dir)
  /-- A full COUT buffer (R164). -/
  | portOut (p : Plane) (d : Dir)
  /-- Bytes of a stream register, or room in it (R343). -/
  | stream (q : Nat)
  /-- A full word, in an LDW or LDWE (R188). -/
  | full
  /-- The reply to a global access (R358). -/
  | global
  /-- The reply to a remote access (R196). -/
  | remote
  /-- The reply to an LDW or LDWE performed as a remote access (R178, R188). -/
  | remoteFull
  /-- A migration grant (R194). -/
  | migrate
  /-- Earlier stores, REDs and seal markers (R371, R391, R396, R421). -/
  | drain
  /-- A place for a task in the network (R391). -/
  | send
  /-- The region's window (R99, R394). -/
  | wclose
  /-- A barrier phase (R373). -/
  | bar
  /-- An arrival word's generation (R377). -/
  | await
  /-- The ordered-atomic unit (R369). -/
  | amoord
  /-- A CPY or STRM status, or a place among the 8 outstanding (R380). -/
  | status
  /-- The divider, the dot-product unit or the ordering unit (R157, R305). -/
  | unit
  /-- A gang chain (R169, R170). -/
  | gang
  /-- The event bit (R420). -/
  | wfe
  /-- Copies and streams of a HALT (R421). -/
  | engines
  /-- The Archive's banks (R401). -/
  | archive
  deriving DecidableEq, Repr

/-- A timed flit: it can be used from cycle `at` on (R164, R166). -/
structure Flit (α : Type) where
  ready : Nat
  val : α
  bad : Bool
  deriving DecidableEq, Repr

/-- A flit buffer (R164, R167): oldest first; `freed` flits were taken in cycle `freedAt`, and their room is seen one cycle
later. -/
structure Buf (α : Type) where
  flits : List (Flit α)
  freed : Nat
  freedAt : Nat
  deriving DecidableEq, Repr

/-- An empty buffer. -/
def Buf.empty {α : Type} : Buf α := { flits := [], freed := 0, freedAt := 0 }

/-- The buffers of one plane of a tile: the switch inputs, CIN and COUT, each for N, E, S, W (R164, R165). -/
structure Bufs (α : Type) where
  inN : Buf α
  inE : Buf α
  inS : Buf α
  inW : Buf α
  cinN : Buf α
  cinE : Buf α
  cinS : Buf α
  cinW : Buf α
  coutN : Buf α
  coutE : Buf α
  coutS : Buf α
  coutW : Buf α
  deriving DecidableEq, Repr

/-- The empty buffers of one plane. -/
def Bufs.empty {α : Type} : Bufs α :=
  ⟨.empty, .empty, .empty, .empty, .empty, .empty, .empty, .empty, .empty, .empty, .empty, .empty⟩

/-- The switch processor (R165, R405): its PC, counters c0-c3 and memory; `halted` after SHALT, `blocked` after an illegal
word (R79); `since` is the cycle in which its present wait began, and `waiting` whether it has one (R176); `ranAt` and `sigAt` are the cycles
of its last word and of its last SSIGC, plus 1 (R405, R408). -/
structure Switch where
  pc : Nat
  c0 : BitVec 16
  c1 : BitVec 16
  c2 : BitVec 16
  c3 : BitVec 16
  mem : Sparse Word
  halted : Bool
  blocked : Bool
  waiting : Bool
  since : Nat
  ranAt : Nat
  sigAt : Nat
  deriving DecidableEq, Repr

/-- A switch without a program: it acts as having executed SHALT (R399). -/
def Switch.idle : Switch := ⟨0, 0, 0, 0, 0, [], true, false, false, 0, 0, 0⟩

/-- The kinds of a bound stream register (R341, R342). -/
inductive StreamKind where
  | none | tileLocal | cluster | global | tap
  deriving DecidableEq, Repr

/-- A stream register (R341-R346): its binding, its position, the bytes fetched ahead of the position, and how many of them an executing
SPLIT or MERGE has taken (R343). -/
structure Stream where
  kind : StreamKind
  write : Bool
  wrap : Bool
  members : BitVec 16
  base : Word
  len0 : Nat
  stride1 : Word
  stride2 : Word
  n1 : Nat
  n2 : Nat
  pos : Nat
  ahead : List (Byte × Bool)
  taken : Nat
  deriving DecidableEq, Repr

/-- An unbound stream register (R340). -/
def Stream.unbound : Stream := ⟨.none, false, false, 0, 0, 0, 0, 0, 0, 0, 0, [], 0⟩

/-- One instruction held in the repeat buffer: its offset in words from the body's start, and its words (R347). -/
structure RepWord where
  off : Nat
  w0 : BitVec 32
  w1 : BitVec 32
  deriving DecidableEq, Repr

/-- The repeat state of a native slot (R347, R267): `len` instructions from `start`; `buf` holds those fetched so far; `idx`
is the index of the next one and `remain` the passes left, the current one included. -/
structure Rep where
  active : Bool
  start : Word
  len : Nat
  buf : List RepWord
  idx : Nat
  remain : Nat
  deriving DecidableEq, Repr

/-- No repeat (R340). -/
def Rep.none : Rep := ⟨false, 0, 0, [], 0, 0⟩

/-- What a native slot holds besides the thread (R155): q0-q7, the elements of m0-m3 (key 1024·m + 32·i + j), the
activation table, the repeat state and REPSTATE; `badAcc` marks the accumulators whose parity is wrong (R33), and `toldAcc` those of
them whose machine check has been sent (R270). -/
structure Native where
  q : Sparse Stream
  m : Sparse (BitVec 32)
  act : Sparse Byte
  rep : Rep
  repstate : Word
  badAcc : KeySet
  toldAcc : KeySet
  deriving DecidableEq, Repr

/-- A native slot at thread start (R340). -/
def Native.fresh : Native := ⟨[], [], [], .none, 0, [], []⟩

/-- Who asked for an access: the tile, the slot, the thread's own number, and the placement's tag (R82). -/
structure Who where
  tile : Nat
  slot : Nat
  uid : Nat
  rid : Nat
  gen : Nat
  deriving DecidableEq, Repr

/-- One access to one word at its place of performance (R187, R210, R221, R222, R224, R375). -/
inductive MemOp where
  | load (n : Nat)
  | store (n : Nat) (v : Word)
  | storeM (mask : BitVec 8) (v : Word)
  | amo (op : AmoOp) (w32 : Bool) (y : Word) (det : Bool)
  | cas (w32 : Bool) (x y : Word)
  | ldw
  | ldwe
  | stf (v : Word)
  | feset (b : Bool)
  | fetest
  | red (op : AmoOp) (w32 : Bool) (y : Word) (det : Bool)
  | amoord (op : OrdOp) (n y : Word) (det : Bool)
  | aexp (t : Nat)
  | prefetch
  | flush
  deriving DecidableEq, Repr

/-- What the place of performance answers. -/
inductive Res where
  | ok (v : Word)
  | poison (src : Nat)
  | rewrite
  | access
  | stale (next : Word)
  | link (val2 : Word)
  | overrun (gen : Word)
  deriving DecidableEq, Repr

/-- What a pending instruction does with its replies (R358-R370). -/
inductive Dest where
  /-- A scalar destination, extended as the width code gives (R359). -/
  | load (d : SReg) (w : LdW)
  /-- The zero-extended old value of an AMO, CAS or AMOORD (R366). -/
  | old (d : SReg) (w32 : Bool)
  /-- The same of a CAS with ORD that only releases: where it fails, its old value differing from `x`, it acquires (R368). -/
  | oldUnless (d : SReg) (w32 : Bool) (x : Word)
  /-- No register: a remote store, or an AEXP. -/
  | nothing
  /-- Bytes of a vector register; `size` bytes per reply, reply i at byte size·i; bytes outside `mask` keep (R361, R362).
  `gather` says that a reply's index is an element of a gather. -/
  | vec (d : VReg) (keep : Vec) (size : Nat) (mask : Word) (gather : Bool)
  /-- No register: a scatter, whose accesses carry their elements' indices (R362). -/
  | scatter
  /-- The image of an accumulator (R350). -/
  | acc (m : Nat)
  /-- The activation table (R353). -/
  | act
  /-- The 32-byte key of an AINV (R401). -/
  | key
  deriving DecidableEq, Repr

/-- Where an access is to be performed, after its checks. -/
inductive Target where
  | sram (tile off : Nat)
  | glob (pa : Nat) (nol1 : Bool)
  deriving DecidableEq, Repr

/-- One access of an instruction: its index, its virtual address, its target and its operation. -/
structure Item where
  idx : Nat
  va : Word
  target : Target
  op : MemOp
  deriving DecidableEq, Repr

/-- An instruction that waits for replies: how many are missing, those that came (index, value), the address of each, the
physical addresses whose CACHE lines the replies refresh (filled, or dropped), a request to send again (R225) or to judge again (R377), the flits popped
at issue (given back if it traps), whether it acquires beyond the tile, and its accesses to the own tile still to perform (R210). -/
structure Pend where
  tok : Nat
  dest : Dest
  left : Nat
  got : List (Nat × Word)
  addrs : List (Nat × Word)
  fills : List (Nat × Bool)
  again : Option (Nat × MemOp)
  refusals : Nat
  resendAt : Option Nat
  pops : List (Dir × Word)
  popsV : List (Dir × Vec)
  acquire : Bool
  bad : Option (Nat × Res)
  todo : List Item
  deriving DecidableEq, Repr

/-- A global load that its thread has issued and gone on from (R213, R264, R358): the PC of the instruction, what it waits for, and whether
a later store of the thread has been performed, so that it traps no more (R214). -/
structure LoadOut where
  pc : Word
  pend : Pend
  sure : Bool
  deriving DecidableEq, Repr

/-- A copy or stream whose status a thread awaits (R380). -/
structure Awaited where
  tok : Nat
  dest : SReg
  stream : Bool
  deriving DecidableEq, Repr

/-- The hash of an executing ADIG (R400): its restarts, the chunks it watches, and whether a watched write has come. -/
structure Dig where
  restarts : Nat
  chunks : List (Nat × Nat)
  hit : Bool
  deriving DecidableEq, Repr

/-- A thread (R155): registers, system registers, and what it waits for. `node` is the address of its launch node (none: firmware), `busy`
holds the first cycle in which an instruction that reads a register can issue (R305, R321, R351), and `issueFrom` that of the next
instruction after a transfer (R305); `loads` lists the global loads still out, oldest first, `issued` the instruction that waits for
replies, as it was fetched, `toldRegs` the registers whose parity error has been reported (R270), `lean` is LEANCYC (R161), and `dig` the hash under
way of an ADIG (R400). -/
structure Thread where
  pc : Word
  s : Sparse Word
  v : Sparse Vec
  k : Sparse Word
  badRegs : KeySet
  status : Word
  fpcsr : Word
  trapvec : Word
  trapcause : Word
  trappc : Word
  trapval : Word
  trapval2 : Word
  livemask : Word
  left : Nat
  key : BitVec 32
  count : BitVec 32
  window : BitVec 32
  origin : Nat
  node : Option Nat
  root : Nat
  uid : Nat
  stopped : Bool
  wait : Wait
  since : Nat
  phase : Nat
  pend : Option Pend
  awaited : List Awaited
  ev : Bool
  yielded : Nat
  barPhase : Option (Nat × Nat)
  strb : List (Nat × BitVec 12)
  busy : Sparse Nat
  issueFrom : Nat
  loads : List LoadOut
  issued : Option Instr
  toldRegs : KeySet
  lean : Nat
  dig : Option Dig
  deriving DecidableEq, Repr

/-- A thread before its first instruction (R71, R155, R193, R262, R420): every register zero, LIVEMASK at its reset value. -/
def Thread.fresh : Thread :=
  { pc := 0, s := [], v := [], k := [], badRegs := [], status := 0, fpcsr := 0, trapvec := 0, trapcause := 0, trappc := 0,
    trapval := 0, trapval2 := 0, livemask := 0x0FFFFFFE, left := 0xFFF, key := 0, count := 0, window := 0,
    origin := 0, node := none, root := 0, uid := 0, stopped := false, wait := .none, since := 0, phase := 0, pend := none,
    awaited := [], ev := false, yielded := 0, barPhase := none, strb := [], busy := [], issueFrom := 0,
    loads := [], issued := none, toldRegs := [], lean := 0, dig := none }

/-- A slot as it stood before a global load that its thread went on from (R264): what a trap of the load restores. -/
structure Shadow where
  tok : Nat
  thread : Thread
  native : Native
  deriving DecidableEq, Repr

/-- A slot in run-ahead (R162): the checkpoint copy of its thread. A register of an invalid value is busy for good. -/
structure Ahead where
  thread : Thread
  native : Native
  deriving DecidableEq, Repr

/-- A task (R84): the fields of its packet, the session and sequence number of the host MSG it came from, whether it is a
machine check (R269), and the cycle in which it was buffered, or its age in cycles while it lies in no buffer (R96, R272). -/
structure Task where
  rid : Nat
  gen : Nat
  srcPkg : Nat
  srcIdx : Nat
  stolen : Bool
  aff : Bool
  prio : Nat
  two : Bool
  label : Nat
  dpkg : Nat
  dx : Nat
  dy : Nat
  win : BitVec 32
  key : BitVec 32
  cnt : BitVec 32
  w0 : Word
  w1 : Word
  host : Option (Nat × Nat)
  check : Bool
  since : Nat
  deriving DecidableEq, Repr

/-- The states of a tap (R128, R129). -/
inductive TapState where
  | idle | armed | capture | hold | faulted | done
  deriving DecidableEq, Repr

/-- The tap of a tile (R123-R138): its state and holder, the layer and the windows left, the window under way (its LAP, whether one has
opened, whether its SGEN must be the saved one) and its folio (`folio` holds the header and the payload so far, `len` the payload
length, `src` its injector), folios waiting for release (step, laps left, index, payload), released bytes not yet read (`taken` of them by an executing MERGE, R343), the released
folios (laps left, index, length), the last window counted as missed, and, for each lane, the serial of the next beat, the lap starts
counted and the step of the last arrival, and the core cycle of its BOARD, counted from 1 (R124). -/
structure Tap where
  state : TapState
  q : Nat
  slot : Nat
  layer : Nat
  laps : Nat
  armed : Nat
  lane : Nat
  lap : Nat
  index : Nat
  len : Nat
  last : Bool
  mid : Bool
  src : Nat
  opened : Bool
  checkSgen : Bool
  folio : List Byte
  waiting : List (Nat × Nat × Nat × List Byte)
  bytes : List Byte
  taken : Nat
  rel : List (Nat × Nat × Nat)
  frel : Nat
  missed : Nat
  reason : Nat
  failed : Word
  sgen : Nat
  resume : Option (Nat × Nat)
  skip : Nat
  counted : Bool
  slow : Bool
  missedLap : Option (Nat × Nat)
  seen : Sparse Nat
  starts : Sparse Nat
  beatAt : Sparse Nat
  boarded : Nat
  deriving DecidableEq, Repr

/-- A tap at IDLE (R129). -/
def Tap.idle : Tap :=
  { state := .idle, q := 0, slot := 0, layer := 0, laps := 0, armed := 0, lane := 0, lap := 0, index := 0, len := 0,
    last := false, mid := false, src := 0, opened := false, checkSgen := false, folio := [], waiting := [], bytes := [], taken := 0, rel := [], frel := 0, missed := 0, reason := 0, failed := 0,
    sgen := 0, resume := none, skip := 0, counted := false, slow := false, missedLap := none,
    seen := [], starts := [], beatAt := [], boarded := 0 }

/-- An instruction of a gang's leader as its members execute it (R169, R170): the leader's PC, the PC it went on to, the value it
wrote, whether it transferred control, the cycle in which a member may execute it, and how many members come after it. -/
structure GangOp where
  instr : Instr
  pc : Word
  next : Word
  value : Word
  jumped : Bool
  due : Nat
  hops : Nat
  deriving DecidableEq, Repr

/-- What the present step's instruction retired with: its PC, the next PC, the value it wrote, and whether it
transferred control (R170, R316). -/
structure Retired where
  pc : Word
  next : Word
  value : Word
  jumped : Bool
  deriving DecidableEq, Repr

/-- A request that waits for a full word (R188): who asks, the offset of the word, whether it empties it, and the cycle in which
it reached the bank. -/
structure FeWait where
  who : Who
  tok : Nat
  off : Nat
  empties : Bool
  cycle : Nat
  deriving DecidableEq, Repr

/-- A tile but for its threads and memory: buffers, switch, bank roles, system registers per tile, task buffer, TLB,
instruction cache, CACHE lines and the bookkeeping of R64, R92, R96, R176, R194 and R276: `fills` is the BUDGETCFG in effect since the
last refill (R159), `probed` the beginning of the wait whose probes have been sent (R176), `pickedAt` the cycle of the last pick (R92),
`toldPorts` names the CIN buffers whose bad head has been reported (R270), and `emptied` the words that an LDWE emptied in the cycle that
it reached them, with that cycle (R188). -/
structure Tile where
  sc : Bufs Word
  ve : Bufs Vec
  sw : Switch
  sig : Bool
  roles : BitVec 24
  fifot : BitVec 48
  budgetcfg : Word
  gang : Word
  gangQ : List GangOp
  gangNow : Option GangOp
  htab : Word
  tasks : List Task
  ready : KeySet
  handlers : BitVec 32
  rr : Sparse Nat
  stealNext : Nat
  idleFrom : Nat
  rid : Nat
  gen : Nat
  node : Option Nat
  root : Nat
  trapvec : Word
  started : Nat
  retired : Bool
  lastSlot : Nat
  issuedAt : Option Nat
  divUntil : Nat
  dotUntil : Nat
  ordUntil : Nat
  vdivUntil : Nat
  outUntil : Nat
  tlb : List (Nat × Nat × Nat × Word)
  icache : Sparse (Nat × BitVec 32)
  lines : Sparse (Option (List Word))
  inbound : List (Who × Nat)
  reserved : KeySet
  fewait : List FeWait
  redMpts : List (Nat × Nat)
  probed : Option Nat
  halting : Bool
  halted : Bool
  brkhalt : Bool
  dbgsel : Nat
  stepOnce : Option Nat
  sstep : Bool
  dbgreg : Word
  dbgdata : Word
  placed : Bool
  fills : Word
  pickedAt : Option Nat
  toldPorts : KeySet
  emptied : List (Nat × Nat)
  deriving DecidableEq, Repr

/-- A tile that holds no region (R70, R88, R160, R165, R168, R408, R415). -/
def Tile.free : Tile :=
  { sc := .empty, ve := .empty, sw := .idle, sig := false, roles := 0, fifot := 0, budgetcfg := 0x8FFFFFFFFFFFFFFF, gang := 0,
    gangQ := [], gangNow := none, htab := 0, tasks := [], ready := [], handlers := 0, rr := [], stealNext := 0, idleFrom := 0, rid := 0,
    gen := 0, node := none, root := 0, trapvec := 0, started := 0, retired := true, lastSlot := 5, issuedAt := none,
    divUntil := 0, dotUntil := 0, ordUntil := 0, vdivUntil := 0, outUntil := 0, tlb := [], icache := [], lines := [], inbound := [],
    reserved := [], fewait := [], redMpts := [], probed := none, halting := false, halted := false, brkhalt := false,
    dbgsel := 0, stepOnce := none, sstep := false, dbgreg := 0, dbgdata := 0, placed := false,
    fills := 0x8FFFFFFFFFFFFFFF, pickedAt := none, toldPorts := [], emptied := [] }

/-- A reduction slot (R103): the tile, the RID, the field's address and width, its value, and whether it is sealed. -/
structure RedSlot where
  tile : Nat
  rid : Nat
  addr : Nat
  wide : Bool
  val : Word
  isSealed : Bool
  deriving DecidableEq, Repr

/-- A pool word of an AWPOOL area (R378). -/
structure PoolWord where
  alloc : Bool
  uses : Nat
  rid : Nat
  deriving DecidableEq, Repr

/-- An out-of-turn ordered atomic (R224, R225). -/
structure OrdReq where
  who : Who
  tok : Nat
  cell : Nat
  op : OrdOp
  n : Word
  y : Word
  det : Bool
  deriving DecidableEq, Repr

/-- A copy request at its engine (R380-R384): once begun, the counts still to apply and what the status reports; `sent` words of it have left
for another package. -/
structure Copy where
  id : Nat
  who : Who
  tok : Nat
  node : Option Nat
  req : Vec
  root : Nat
  pl : Nat
  engine : Nat
  begun : Bool
  counts : List (Nat × Nat)
  code : Nat
  poisoned : Bool
  bytes : Nat
  sent : Nat
  deriving DecidableEq, Repr

/-- A stream bound at an MPT stream generator (R385-R387): `after` lists the streams that a STRB makes it wait for, `flits`
are those that a storer has taken and not yet written, `lines` the places of its pattern's lines as its binding translated them (R382), `got`
the words read of a loader's next flit, and `put` the words written of a storer's present one (R210). -/
structure EdgeStream where
  id : Nat
  who : Who
  tok : Nat
  node : Option Nat
  root : Nat
  pl : Nat
  mpt : Nat
  store : Bool
  vector : Bool
  tile : Nat
  side : Dir
  aw : Word
  pat : Stream
  total : Nat
  bound : Bool
  code : Nat
  poisoned : Bool
  req : Vec
  after : List Nat
  flits : List (Vec × Bool)
  lines : List Target
  got : List (Word × Bool)
  put : Nat
  paused : Bool
  movedAt : Nat
  deriving DecidableEq, Repr

/-- The state of an Archive entry (R144). -/
inductive EntryState where
  | filling | valid
  deriving DecidableEq, Repr

/-- An entry of an Archive bank (R144); `chunks` holds the argument chunks that FILTER stands for, each the number of its 4096 bytes and its
length, and `serial` numbers the insertion that made it. -/
structure Entry where
  set : Nat
  way : Nat
  state : EntryState
  tenant : Nat
  key : List Byte
  chunks : List (Nat × Nat)
  roff : Nat
  rlen : Nat
  charge : Nat
  age : Nat
  serial : Nat
  deriving DecidableEq, Repr

/-- A memory-port tile (R199, R103, R225, R378, R82, R142, R144): CARVE, reduction slots, the ordered-atomic buffer, pool words,
the live generation of each drained RID, its Archive bank, and the cached digests (chunk, length, digest) of chunks that it holds. -/
structure Mpt where
  carve : Word
  reds : List RedSlot
  ord : List OrdReq
  pool : Sparse PoolWord
  live : Sparse (Option Nat)
  entries : List Entry
  digests : List (Nat × Nat × List Byte)
  deriving DecidableEq, Repr

/-- A memory-port tile of dies 1-3 at reset (R199). -/
def Mpt.fresh : Mpt := ⟨0, [], [], [], [], [], []⟩

/-- Where a packet starts or ends. -/
inductive Node where
  | tile (t : Nat)
  | mpt (m : Nat)
  | su (die : Nat)
  | outside
  deriving DecidableEq, Repr

/-- The packet classes (R172, R173), and the side channels (R132, R176). -/
inductive Class where
  | req | rsp | tsk | bulk | side
  deriving DecidableEq, Repr

/-- A thread's state on its way to another tile (R195). -/
structure Moving where
  thread : Thread
  slot : Nat
  deriving DecidableEq, Repr

/-- What a packet carries. -/
inductive Body where
  /-- An access to global memory, or a remote access (R196, R211): `addr` is the physical address or the slot offset. -/
  | access (who : Who) (tok idx : Nat) (addr : Nat) (op : MemOp)
  /-- The answer to it (R358, R196). -/
  | reply (who : Who) (tok idx : Nat) (r : Res)
  /-- A refused ordered atomic (R225). -/
  | refusal (who : Who) (tok idx : Nat)
  /-- A seal marker (R104). -/
  | sealed (who : Who)
  /-- A task (R84). -/
  | task (t : Task)
  /-- A steal probe, its answer, and a returned task (R96). -/
  | probe (thief : Nat)
  | stolen (t : Task) (victim : Nat)
  | stolenBack (t : Task)
  /-- Migration (R194, R195). -/
  | migrate (who : Who)
  | grant (who : Who) (owner slot : Nat)
  | refuse (who : Who)
  | moved (m : Moving) (rid gen : Nat)
  /-- A copy request, a stream request and an arrival count (R380, R385, R375). -/
  | copy (c : Copy)
  | stream (e : EdgeStream)
  | count (copy : Nat) (aw : Nat) (n : Nat)
  /-- A wait-for probe (R176). -/
  | waitFor (origin hops : Nat) (since : Nat)
  /-- An arm or release notice (R132), and a tap's report (R135). -/
  | arm (layer : Nat) (release : Bool) (sent : Nat)
  | report (layer index : Nat) (lap : Nat)
  /-- A drain and its certificate (R82, R83). -/
  | drain (rid gen : Nat)
  | certificate (mpt rid gen done gone : Nat)
  /-- An invalidation of the Archive chunk that holds a written address, awaited by the write (R150). -/
  | invalidate (pa : Nat) (write : Nat)
  /-- The words of a copy: those still to be read, each with the places it goes to, and those read (value, poison, places); and words on
  their way to the places where they are written (R173, R383), whose writing has begun or not (R174). -/
  | pull (copy : Nat) (words : List (Target × List Target)) (got : List (Word × Bool × List Target))
  | push (copy : Nat) (words : List (Target × Word × Bool)) (begun : Bool)
  /-- Copied words and their poison on their way to another package, with the whole destination of their copy and its words, a reply to a
  remote access of another package, and a message of a gang launch (R25, R75, R383). -/
  | remoteCopy (copy : Nat) (who : Who) (pkg dst aw : Nat) (data : List (Word × Bool)) (base words : Nat)
  | remoteReply (pkg tag : Nat) (value : Word)
  | gangMsg (pkg node : Nat) (m : GangMsg)
  deriving DecidableEq, Repr

/-- A packet: in flight, or arrived at its endpoint and waiting for the step that handles it; an answer leaves only once the writes that
`after` names are acknowledged (R150). -/
structure Packet where
  id : Nat
  cls : Class
  src : Node
  dst : Node
  retries : Nat
  notBefore : Nat
  body : Body
  after : List Nat
  deriving DecidableEq, Repr

/-- The states of a node (R62). -/
inductive NState where
  | idle | waiting | ready | held | running | preempted | draining | done | skipped | failed | killed
  deriving DecidableEq, Repr

/-- The states of an Archive lookup (R145). -/
inductive Look where
  | arm | hash | probe | deliver | run | insert
  deriving DecidableEq, Repr

/-- An Archive lookup (R145): its state, the restarts, the watched argument chunks and output words, the key, whether an
insertion is still allowed, whether a watched write has been signalled, and the entry being filled: bank, set, way and serial. -/
structure Lookup where
  st : Look
  restarts : Nat
  chunks : List (Nat × Nat)
  outs : List (Nat × Nat)
  key : List Byte
  insert : Bool
  hit : Bool
  entry : Option (Nat × Nat × Nat × Nat)
  deriving DecidableEq, Repr

/-- The progress of a pre-emption or of a stop and drain (R272, R81, R137). -/
inductive Stop where
  | no
  | deferred
  | saving (since : Nat)
  | drain (certs : KeySet) (since : Nat) (final : NState)
  deriving DecidableEq, Repr

/-- Whether a region is being stopped and saved (R272). -/
def Stop.saves : Stop → Bool
  | .saving _ => true
  | _ => false

/-- A gang launch at its home (R75, R76): members (package, node), ready ticks, the members done, and when it began. -/
structure Gang where
  members : List (Nat × Nat)
  readyAt : List (Nat × Nat)
  done : KeySet
  began : Nat
  start : Option Nat
  home : Bool
  deriving DecidableEq, Repr

/-- An admitted node (R53, R61-R66): its block, its region's block, its descriptor table and its tenant's key as read at admission, its
path (itself first, its tenant last), and its progress: `prio` is its effective priority and `base` that of its admission, `begun` says
that its region is placed for it, `todo` names the tiles on which it has still to start (R72), and `arch` lists the Archive caps of its
path as its start check read them; `aid` numbers the admission. -/
structure NodeRec where
  addr : Nat
  die : Nat
  blk : List Word
  rblk : List Word
  desc : List Word
  region : Nat
  path : List Nat
  tenant : Nat
  pending : Nat
  sawDone : Bool
  state : NState
  prio : Nat
  base : Nat
  prioAt : Nat
  readyAt : Nat
  fd : Nat
  rerun : Bool
  impure : Bool
  late : Bool
  code : Nat
  tileX : Nat
  tileY : Nat
  detail : Nat
  todo : KeySet
  begun : Bool
  bytes : Nat
  stop : Stop
  look : Option Lookup
  gang : Option Gang
  resuming : Bool
  tkey : List Byte
  arch : List (Nat × Nat)
  aid : Nat
  deriving DecidableEq, Repr

/-- A barrier counter (R372, R373): the count, the phase number, and the scope and N that the phase's first arrival fixed. -/
structure Bar where
  count : Nat
  phase : Nat
  scope : Word
  need : Nat
  deriving DecidableEq, Repr

/-- A tile record of a pre-empted region (R273): the tile and its threads. Its banks, F/E bits and switch memory stand in
the SAVE area as bytes. -/
structure SavedTile where
  offset : Nat
  unit : Nat
  tile : Tile
  threads : List (Nat × Thread)
  natives : List (Nat × Native)
  tap : Tap
  deriving DecidableEq, Repr

/-- A placed region, or one whose node is PREEMPTED (R68, R70, R98, R107, R178, R271): `barFar` holds the arrivals of other packages in the
phases under way (barrier, package, node, token), and `barDone` the answers to this package's arrivals at its gang's home (R372). -/
structure RegionRec where
  blk : Nat
  rid : Nat
  gen : Nat
  x0 : Nat
  y0 : Nat
  w : Nat
  h : Nat
  det : Bool
  number : BitVec 32
  digests : List (Nat × List Byte)
  faults : BitVec 32
  header : Nat × Nat
  bars : Sparse Bar
  barFar : List (Nat × Nat × Nat × Nat)
  barDone : List (Nat × Word)
  quietFrom : Option Nat
  base : Nat
  on : Bool
  saved : List SavedTile
  streams : List EdgeStream
  dead : Bool
  deriving DecidableEq, Repr

/-- A signal on its way to a successor of the same admission (R63). -/
structure SignalRec where
  aid : Nat
  succ : Nat
  sig : Sig
  deriving DecidableEq, Repr

/-- A write that waits for the Archive's acknowledgements (R150): its issuer and the banks still to answer. -/
structure Unacked where
  id : Nat
  who : Option Who
  left : Nat
  deriving DecidableEq, Repr

/-- A charge record of the Archive (R152): the capped blocks of a path. -/
structure Charge where
  idx : Nat
  blocks : List Nat
  deriving DecidableEq, Repr

/-- One layer of a shelf list (R115, R116): its folios are (COFF, LEN, BACK) and their POISON and SUSPECT marks. -/
structure Folio where
  coff : Nat
  len : Nat
  back : Nat
  suspect : Bool
  poison : Bool
  deriving DecidableEq, Repr

/-- A layer entry of a shelf list (R115). -/
structure Layer where
  layer : Nat
  home : Nat
  lane : Nat
  ftab : Nat
  folios : List Folio
  deriving DecidableEq, Repr

/-- A shelf list (R115): its generation and its layers in order. -/
structure Shelf where
  sgen : Nat
  layers : List Layer
  deriving DecidableEq, Repr

/-- A beat (R109, R112): a header, 256 bytes of payload, or a trailer. -/
inductive BeatKind where
  | header | payload | trailer
  deriving DecidableEq, Repr

/-- A beat on the ring: its lane, its serial on that lane, the stop and step of its injection, whether it is a lap-start header, its
bytes, and the step from which on it arrives nowhere (R21). -/
structure Beat where
  lane : Nat
  serial : Nat
  kind : BeatKind
  stop : Nat
  step : Nat
  first : Bool
  data : List Byte
  lostAt : Option Nat
  deriving DecidableEq, Repr

/-- A lane's injection (R118, R120-R122): the list in force and the one to come, the lap and whether lap 0 has begun, the places of the
layer and of the folio, what is left of the folio to present, the step of the hand-over to come, whether anything of the lap has been
presented, when a beat last arrived, the next serial, the step at which the last beat passed the first injector, the headers
taken off that may still be the last one presented at some stop, newest first, and the step at which the lane went down. -/
structure Lane where
  shelf : Option Shelf
  next : Option Shelf
  lap : Nat
  started : Bool
  layerPos : Nat
  folioPos : Nat
  queue : List (BeatKind × List Byte)
  handAt : Option Nat
  begun : Bool
  beatAt : Nat
  serial : Nat
  passedAt : Nat
  gone : List Beat
  down : Bool
  downAt : Nat
  deriving DecidableEq, Repr

/-- A silent lane (R118). -/
def Lane.silent : Lane := ⟨none, none, 0, false, 0, 0, [], none, false, 0, 0, 0, [], false, 0⟩

/-- The ring (R109, R118, R131, R132): its lanes, the beats in flight, the pace, the stall, the ring cycles since which SLOW is asserted or
is not, a pace to come (R118) and the one that applied up to a step, the shelf list being filled, arm counts and the folios being re-read. -/
structure Ring where
  step : Nat
  cycle : Nat
  lanes : Sparse Lane
  beats : List Beat
  slowen : Bool
  ghosten : Bool
  stalled : Bool
  slowFrom : Option Nat
  freeFrom : Option Nat
  pace : Option (Bool × Bool)
  oldPace : Nat × Bool × Bool
  filling : Option Shelf
  arms : Sparse Nat
  reread : List (Nat × Nat)
  deriving DecidableEq, Repr

/-- The silent ring (R118). -/
def Ring.silent : Ring := ⟨0, 0, [], [], false, false, false, none, none, none, (0, false, false), none, [], []⟩

/-- The boot states (R47). -/
inductive Boot where
  | selfTest | awaiting | verifying | starting | running | failed
  deriving DecidableEq, Repr

/-- The MACsec protection of a frame that is sent (R36): its key and packet number. -/
structure Seal where
  key : SecKey
  pn : Nat
  deriving DecidableEq, Repr

/-- How a frame leaves (R36): its port, the VID of its tag, 0 where it has none, and its MACsec protection. -/
structure Via where
  port : Nat
  vid : Nat
  sec : Option Seal
  deriving DecidableEq, Repr

/-- A port's MACsec secure channel (R36): its key, and the next packet numbers, received and sent. -/
structure SecChan where
  key : SecKey
  rxPn : Nat
  txPn : Nat
  deriving DecidableEq, Repr

/-- A response or an event sent to the host (R38, R43): how it left, and the IPv6 address and UDP port it goes to. -/
structure Sent where
  via : Via
  dest : BitVec 128 × BitVec 16
  event : Bool
  kind : Nat
  session : Nat
  seq : Nat
  status : Nat
  addr : Word
  aux : Word
  payload : List Byte
  deriving DecidableEq, Repr

/-- A session of the host protocol (R40): EXPECT, the cached responses, and the ring cycle of its last request. -/
structure Session where
  id : Nat
  expect : BitVec 32
  cache : List Sent
  last : Nat
  deriving DecidableEq, Repr

/-- A span of words of a request that is performed in parts (R41, R210): the message, the words still to be written with their values, or to
be read, and those read so far. -/
structure HostSpan where
  msg : HostMsg
  todo : List (Nat × Word)
  got : List (Word × Bool)
  deriving DecidableEq, Repr

/-- The endpoint (R44-R50): registers, sessions, events, the latched image, and what has been sent. `msgs` holds the messages whose task
is on its way (session, SEQ, ADDR, where it came from), `resentAt` the ring cycle of the last retransmission, `readback` what the last read of a
clearing register returned, and `adverts` the neighbour advertisements sent (port, address). -/
structure Endpoint where
  boot : Boot
  failcode : Nat
  fwver : BitVec 16
  svn : BitVec 16
  image : Sparse Byte
  meas : List Byte
  epctl : Word
  pkgid : Word
  pwrcap : Word
  eoldie : Sparse Word
  dropfcs : Sparse Nat
  dropsec : Sparse Nat
  drophdr : Sparse Nat
  evlost : Nat
  hport : Word
  vlan : Word
  ipv6a : Sparse Byte
  attnonce : Sparse Byte
  evdest : Sparse Byte
  busy : Bool
  nonce : List Byte
  repgen : BitVec 16
  report : List Byte
  spares : List (List Nat)
  portsUp : Bool
  linkUp : Sparse Bool
  sessions : List Session
  unacked : List Sent
  queued : List Sent
  seq : BitVec 32
  sent : List Sent
  msgs : List (Nat × Nat × Word × (Nat × (BitVec 128 × BitVec 16)))
  spans : List HostSpan
  chans : Sparse (Option SecChan)
  resentAt : Nat
  readback : Word
  adverts : List (Via × BitVec 128)
  deriving DecidableEq, Repr

/-- The endpoint at reset (R44, R48). -/
def Endpoint.fresh : Endpoint :=
  { boot := .selfTest, failcode := 0, fwver := 0, svn := Config.minimumSvn, image := [], meas := [], epctl := 7, pkgid := 0,
    pwrcap := 3000, eoldie := [], dropfcs := [], dropsec := [], drophdr := [], evlost := 0, hport := 0xCFD0, vlan := 0,
    ipv6a := [], attnonce := [], evdest := [], busy := false, nonce := [], repgen := 0, report := [], spares := [],
    portsUp := false, linkUp := [], sessions := [], unacked := [], queued := [], seq := 0, sent := [], msgs := [], spans := [], chans := [], resentAt := 0,
    readback := 0, adverts := [] }

/-- Power and heat (R29, R30): the throttle step, whether a trip holds the package, and how long each condition has held, in
microseconds. -/
structure Power where
  step : Nat
  tripped : Bool
  aboveCap : Nat
  below95 : Nat
  below90 : Nat
  lowCurrent : Nat
  inStep1 : Nat
  deriving DecidableEq, Repr

/-- PTP (R46): whether the tick has locked once, the grandmaster of each port that is locked, the correction still to slew in
nanoseconds, the nanoseconds towards its next one, whether the package has joined a domain, and the last disciplined rate: by how many
parts in 10^9 the tick runs faster than the reference oscillator, with what is left of a nanosecond. -/
structure Ptp where
  everLocked : Bool
  locked : Sparse (Option Grandmaster)
  slew : Int
  toward : Nat
  joined : Bool
  rate : Int
  part : Int
  deriving DecidableEq, Repr

/-- The item a step acts on: a core instruction acts on the thread at (tile, slot), a switch instruction on the tile, an
event on the item. -/
structure Here where
  tile : Nat
  slot : Nat
  item : Nat
  deriving DecidableEq, Repr

/-- An uncorrectable error that arises in a store or on a path (R33): it comes from outside, and is found where it is consumed. -/
inductive Upset where
  /-- A word of tile SRAM, of a slice or of HBM, by its storage key. -/
  | word (key : Nat)
  /-- The newest flit of a switch input buffer of a tile. -/
  | flit (tile : Nat) (p : Plane) (d : Dir)
  /-- A register of a slot: a scalar (0), vector (1) or predicate (2) one. -/
  | reg (tile slot file n : Nat)
  /-- An accumulator of a native slot. -/
  | acc (tile slot m : Nat)
  deriving DecidableEq, Repr

/-- Who takes a turn. -/
inductive Agent where
  | core (tile slot : Nat)
  | switch (tile : Nat)
  | event (here : Here) (e : Instr)
  | upset (u : Upset)
  /-- The host writes the MACsec key of a port, or takes it away (R36). -/
  | key (port : Nat) (k : Option SecKey)
  /-- An agent in whose turn at most `n` words of a span are performed (R210). -/
  | part (n : Nat) (a : Agent)
  deriving DecidableEq, Repr

/-- One turn of the schedule: how far the clocks advance before it, and who takes it. -/
structure Turn where
  cycles : Nat
  nanos : Nat
  ringCycles : Nat
  who : Agent
  deriving DecidableEq, Repr

/-- Down links and error counts (R20, R21, R27, R33, R175), the packages of the domain, and those of them that have PTP lock (R46). -/
structure Links where
  moduleDown : KeySet
  moduleRetry : Sparse Nat
  portDown : KeySet
  portRetry : Sparse Nat
  asleep : KeySet
  routerIdle : Sparse Nat
  domain : KeySet
  peerLock : KeySet
  deriving DecidableEq, Repr

/-- A collective reduction of other packages whose ranks have not all come (R97, R105): where its result goes, its width, how many ranks it has,
and the values that have come, none from a rank without leaves. -/
structure Collective where
  pa : Nat
  w32 : Bool
  ranks : Nat
  got : List (Nat × Option Word)
  deriving DecidableEq, Repr

/-- A reservation of a die's Scheduler Unit (R65): its node and the rectangle. -/
structure Reserve where
  die : Nat
  node : Nat
  x0 : Nat
  y0 : Nat
  w : Nat
  h : Nat
  deriving DecidableEq, Repr

/-- The whole part. `agenda`, `here` and `retired` are the model's own: the schedule of the turns to come, the item of the present
one, what the present instruction retired with, and `words` the most words of a span that the present turn performs, 0 for all (R210); `latent`
holds the poisoned words whose error nothing has found yet (R270), `hbmBad` those whose error arose in HBM (R269), `shadows` and
`aheads` what loads and run-ahead of a slot restore (R162, R264), `fuses` the defective columns of each die that manufacture recorded
(R15); `free` counts the free values taken, `nextId` the packets, requests and threads made. -/
structure State where
  part : Part
  hbm : Bool
  cycle : Nat
  tick : Word
  mem : Sparse Byte
  poison : KeySet
  latent : KeySet
  hbmBad : KeySet
  full : KeySet
  threads : Sparse (Option Thread)
  natives : Sparse Native
  shadows : Sparse (List Shadow)
  aheads : Sparse (Option Ahead)
  tiles : Sparse Tile
  taps : Sparse Tap
  mpts : Sparse Mpt
  net : List Packet
  arrived : List Packet
  unacked : List Unacked
  copies : List Copy
  edges : List EdgeStream
  collectives : List Collective
  nodes : List NodeRec
  regions : List RegionRec
  signals : List SignalRec
  reserve : List Reserve
  lastGen : Sparse Nat
  charges : List Charge
  used : Sparse Nat
  mclost : Sparse Nat
  eolhours : Word
  ring : Ring
  ep : Endpoint
  power : Power
  ptp : Ptp
  links : Links
  free : Nat
  nextId : Nat
  here : Here
  retired : Option Retired
  agenda : List Turn
  words : Nat
  fuses : List (List Nat)
  deriving DecidableEq, Repr

/-- Why the machine stops. Every fault is safe: no claim about a state that follows can be proved from it. -/
inductive Fault where
  /-- Raised by exec when the item of the step names no thread, or a tile, slot or memory-port tile that the part lacks (R2,
  R28). Safe: a schedule that names nothing is no behaviour of the part. -/
  | nothingHere
  deriving DecidableEq, Repr

/-- Why a step has no meaning. -/
inductive Refusal where
  /-- Raised by an arm of exec whose instruction has no meaning yet. Safe: the model stops. -/
  | notModelled (mnemonic : String)
  deriving DecidableEq, Repr

/-- The MPTs of die 0 start with DIRECT at 1 MiB (R199). -/
def Mpt.die0 : Mpt := { Mpt.fresh with carve := 1 }

/-- The part right after reset (R15, R29, R44, R46-R48, R118, R199): self-test begins, the ring is silent, no thread runs. The
form of the part and the values the spec does not give are design choices (notes/assumptions). -/
def State.reset : State :=
  { part := .e3072P, hbm := true, cycle := 0, tick := 0, mem := [], poison := [], latent := [], hbmBad := [], full := [], threads := [], natives := [], shadows := [], aheads := [],
    tiles := [], taps := [], mpts := (List.range 32).map (fun i => (i, Mpt.die0)), net := [], arrived := [], unacked := [],
    copies := [], edges := [], collectives := [], nodes := [], regions := [], signals := [], reserve := [], lastGen := [], charges := [], used := [],
    mclost := [], eolhours := 0, ring := .silent, ep := .fresh,
    power := ⟨0, false, 0, 0, 0, 0, 0⟩, ptp := ⟨false, [], 0, 0, false, 0, 0⟩, links := ⟨[], [], [], [], [], [], [], []⟩, free := 0,
    nextId := 1, here := ⟨0, 0, 0⟩, retired := none, agenda := [], words := 0, fuses := [] }

end Sys2Proof.Machine
end

