-- ==== Sys2Proof/Machine/Bits.lean ====
section
/-! DEFINITION. Bit fields, sign extension and byte order (R5, R10), and the accessors of the part's tables. -/

namespace Sys2Proof.Machine

/-- The answer of a meaning. -/
abbrev Out := Host.Outcome State Fault Refusal

/-- A natural number as a word, modulo 2^64. -/
def word (n : Nat) : Word := BitVec.ofNat 64 n

/-- An integer as a word, modulo 2^64. -/
def wordOfInt (i : Int) : Word := BitVec.ofInt 64 i

/-- A flag as a word. -/
def boolWord (b : Bool) : Word := if b then 1 else 0

/-- `n` bits of a word from bit `lo` up. -/
def field (w : Word) (lo n : Nat) : Nat := bitsAt w.toNat lo n

/-- One bit of a word. -/
def flag (w : Word) (i : Nat) : Bool := bitsAt w.toNat i 1 == 1

/-- The word with `n` bits from bit `lo` up replaced. -/
def setField (w : Word) (lo n v : Nat) : Word :=
  word (w.toNat - bitsAt w.toNat lo n * 2 ^ lo + v % 2 ^ n * 2 ^ lo)

/-- The low `n` bits of `x` as a signed value (R10); `n` is at least 1. -/
def sextInt (x n : Nat) : Int :=
  let v := x % 2 ^ n
  if v < 2 ^ (n - 1) then (v : Int) else (v : Int) - (2 ^ n : Nat)

/-- The low `n` bits of `x`, sign-extended to a word (R10). -/
def sext (x n : Nat) : Word := wordOfInt (sextInt x n)

/-- A word as a signed value. -/
def signed (w : Word) : Int := sextInt w.toNat 64

/-- The little-endian bytes of a number (R5). -/
def leBytes : Nat → Nat → List Byte
  | 0, _ => []
  | n + 1, v => BitVec.ofNat 8 v :: leBytes n (v / 256)

/-- The number that little-endian bytes hold (R5). -/
def leNat : List Byte → Nat
  | [] => 0
  | b :: bs => b.toNat + 256 * leNat bs

/-- Big-endian bytes of a number. -/
def beBytes (n v : Nat) : List Byte := (leBytes n v).reverse

/-- The number of big-endian bytes. -/
def beNat (b : List Byte) : Nat := leNat b.reverse

/-- Lists cut into pieces of `n`, at most `fuel` of them. -/
def chunks {α : Type} (n : Nat) : Nat → List α → List (List α)
  | 0, _ => []
  | fuel + 1, xs => if xs.isEmpty then [] else xs.take n :: chunks n fuel (xs.drop n)

/-- The first `n` of a list, padded with `d`. -/
def takePad {α : Type} (d : α) : Nat → List α → List α
  | 0, _ => []
  | n + 1, [] => d :: takePad d n []
  | n + 1, x :: xs => x :: takePad d n xs

/-- Element `i` of a list, or `d`. -/
def nth {α : Type} (d : α) : List α → Nat → α
  | [], _ => d
  | x :: _, 0 => x
  | _ :: xs, i + 1 => nth d xs i

/-- ASCII bytes. -/
def ascii (cs : List Char) : List Byte := cs.map (fun c => BitVec.ofNat 8 c.toNat)

/-- The tile's record; a tile the table does not list holds no region. -/
def State.tile (s : State) (t : Nat) : Tile := sparseGet Tile.free s.tiles t

/-- The state with a tile's record changed. -/
def State.setTile (s : State) (t : Nat) (x : Tile) : State := { s with tiles := sparseSet Tile.free s.tiles t x }

/-- The state with a tile's record updated. -/
def State.updTile (s : State) (t : Nat) (f : Tile → Tile) : State := s.setTile t (f (s.tile t))

/-- The key of a thread slot. -/
def slotKey (t k : Nat) : Nat := t * 8 + k

/-- The thread in a slot. -/
def State.thread (s : State) (t k : Nat) : Option Thread := sparseGet none s.threads (slotKey t k)

/-- The state with a slot's thread changed. -/
def State.setThread (s : State) (t k : Nat) (x : Option Thread) : State :=
  { s with threads := sparseSet none s.threads (slotKey t k) x }

/-- The state with a slot's thread updated, where it holds one. -/
def State.updThread (s : State) (t k : Nat) (f : Thread → Thread) : State :=
  match s.thread t k with
  | some x => s.setThread t k (some (f x))
  | none => s

/-- What a native slot holds besides its thread. -/
def State.native (s : State) (t k : Nat) : Native := sparseGet Native.fresh s.natives (slotKey t k)

/-- The state with a native slot changed. -/
def State.setNative (s : State) (t k : Nat) (x : Native) : State :=
  { s with natives := sparseSet Native.fresh s.natives (slotKey t k) x }

/-- The state with a native slot updated. -/
def State.updNative (s : State) (t k : Nat) (f : Native → Native) : State := s.setNative t k (f (s.native t k))

/-- The records that a slot's loads restore (R264), oldest first. -/
def State.shadow (s : State) (t k : Nat) : List Shadow := sparseGet [] s.shadows (slotKey t k)

/-- The state with a slot's records changed. -/
def State.setShadow (s : State) (t k : Nat) (x : List Shadow) : State := { s with shadows := sparseSet [] s.shadows (slotKey t k) x }

/-- The checkpoint copy of a slot in run-ahead (R162). -/
def State.aheadOf (s : State) (t k : Nat) : Option Ahead := sparseGet none s.aheads (slotKey t k)

/-- The state with a slot's checkpoint copy changed. -/
def State.setAhead (s : State) (t k : Nat) (x : Option Ahead) : State := { s with aheads := sparseSet none s.aheads (slotKey t k) x }

/-- The tap of a tile. -/
def State.tap (s : State) (t : Nat) : Tap := sparseGet Tap.idle s.taps t

/-- The state with a tile's tap changed. -/
def State.setTap (s : State) (t : Nat) (x : Tap) : State := { s with taps := sparseSet Tap.idle s.taps t x }

/-- The record of a memory-port tile. -/
def State.mpt (s : State) (m : Nat) : Mpt := sparseGet Mpt.fresh s.mpts m

/-- The state with a memory-port tile changed. -/
def State.setMpt (s : State) (m : Nat) (x : Mpt) : State := { s with mpts := sparseSet Mpt.fresh s.mpts m x }

/-- The state with a memory-port tile updated. -/
def State.updMpt (s : State) (m : Nat) (f : Mpt → Mpt) : State := s.setMpt m (f (s.mpt m))

/-- The thread that the present step acts on. -/
def State.cur (s : State) : Option Thread := s.thread s.here.tile s.here.slot

/-- The thread that the present step acts on; a slot without one reads as a fresh thread. -/
def State.me (s : State) : Thread := s.cur.getD Thread.fresh

/-- The state with the present thread updated. -/
def State.upd (s : State) (f : Thread → Thread) : State := s.updThread s.here.tile s.here.slot f

/-- The state with the present tile updated. -/
def State.updHere (s : State) (f : Tile → Tile) : State := s.updTile s.here.tile f

/-- The tile of the present step. -/
def State.hereTile (s : State) : Tile := s.tile s.here.tile

/-- The native part of the present slot. -/
def State.myNative (s : State) : Native := s.native s.here.tile s.here.slot

/-- The state with the present native slot updated. -/
def State.updMyNative (s : State) (f : Native → Native) : State := s.updNative s.here.tile s.here.slot f

/-- A fresh free value, and the state that has taken it (log entry 1). -/
def State.freeWord (s : State) : Word × State := (Config.freeWord s.free, { s with free := s.free + 1 })

/-- A fresh free choice, and the state that has taken it (log entry 1). -/
def State.freeBool (s : State) : Bool × State := (Config.freeBool s.free, { s with free := s.free + 1 })

/-- A new number for a packet, a request or a thread. -/
def State.fresh (s : State) : Nat × State := (s.nextId, { s with nextId := s.nextId + 1 })

end Sys2Proof.Machine
end

