-- ==== Sys2Proof/Machine/Shake.lean ====
section
/-! DEFINITION. SHAKE256 (R50, R106, R142): Keccak-f[1600] with a rate of 136 bytes and the suffix 0x1F. -/

namespace Sys2Proof.Machine

/-- The round constants of Keccak-f[1600]. -/
def keccakRc : List Word :=
  [0x0000000000000001, 0x0000000000008082, 0x800000000000808A, 0x8000000080008000, 0x000000000000808B, 0x0000000080000001,
   0x8000000080008081, 0x8000000000008009, 0x000000000000008A, 0x0000000000000088, 0x0000000080008009, 0x000000008000000A]
  ++ [0x000000008000808B, 0x800000000000008B, 0x8000000000008089, 0x8000000000008003, 0x8000000000008002,
   0x8000000000000080, 0x000000000000800A, 0x800000008000000A, 0x8000000080008081, 0x8000000000008080,
   0x0000000080000001, 0x8000000080008008]

/-- The rotation of lane (x, y), at index x + 5·y. -/
def keccakRot : List Nat :=
  [0, 1, 62, 28, 27, 36, 44, 6, 55, 20, 3, 10, 43, 25, 39, 41, 45, 15, 21, 8, 18, 2, 61, 56, 14]

/-- The lane at (x, y). -/
def lane (a : List Word) (x y : Nat) : Word := nth 0 a (x % 5 + 5 * (y % 5))

/-- The parity of column x. -/
def columnParity (a : List Word) (x : Nat) : Word :=
  lane a x 0 ^^^ lane a x 1 ^^^ lane a x 2 ^^^ lane a x 3 ^^^ lane a x 4

/-- One round of Keccak-f[1600]. -/
def keccakRound (a : List Word) (rc : Word) : List Word :=
  let c := (List.range 5).map (columnParity a)
  let t := (List.range 25).map (fun i =>
    nth 0 a i ^^^ (nth 0 c ((i + 4) % 5) ^^^ (nth 0 c ((i % 5 + 1) % 5)).rotateLeft 1))
  -- B[y, 2x + 3y] := rot(A[x, y]); so B[x, y] comes from A[(x + 3y) mod 5, x]
  let b := (List.range 25).map (fun i =>
    let src := (i % 5 + 3 * (i / 5)) % 5 + 5 * (i % 5)
    (nth 0 t src).rotateLeft (nth 0 keccakRot src))
  let d := (List.range 25).map (fun i =>
    lane b (i % 5) (i / 5) ^^^ (~~~(lane b (i % 5 + 1) (i / 5)) &&& lane b (i % 5 + 2) (i / 5)))
  match d with
  | [] => []
  | x :: xs => (x ^^^ rc) :: xs

/-- Keccak-f[1600]. -/
def keccakF (a : List Word) : List Word := keccakRc.foldl keccakRound a

/-- A 136-byte block as lanes, padded with zero lanes to 25. -/
def blockLanes (b : List Byte) : List Word :=
  takePad 0 25 ((chunks 8 17 b).map (fun c => word (leNat c)))

/-- One block absorbed. -/
def absorb (a : List Word) (b : List Byte) : List Word :=
  keccakF (List.zipWith (fun x y => x ^^^ y) a (blockLanes b))

/-- The padding of SHAKE256 after `n` bytes. -/
def shakePad (n : Nat) : List Byte :=
  let k := 136 - n % 136
  if k = 1 then [0x9F] else 0x1F :: (List.replicate (k - 2) 0 ++ [0x80])

/-- The first `n` output bytes (at most 136) of SHAKE256 over a message. -/
def shake256 (n : Nat) (m : List Byte) : List Byte :=
  let p := m ++ shakePad m.length
  let a := (chunks 136 (p.length / 136) p).foldl absorb (List.replicate 25 0)
  ((a.take 17).flatMap (fun w => leBytes 8 w.toNat)).take n

end Sys2Proof.Machine
end

