-- ==== Sys2Proof/Machine/Geometry.lean ====
section
/-! DEFINITION. Where things lie: tiles, dies, memory ports, ring stops (R12-R14, R17, R22, R25, R28, R110, R111), physical
addresses and their home MPTs (R197, R198, R201), and scope values (R365). -/

namespace Sys2Proof.Machine

/-- Whether the part is the bare die (R28). -/
def Part.bare (p : Part) : Bool := decide (p = .e768D)

/-- Memory-port tiles of the part (R28). -/
def Part.mpts (p : Part) : Nat := if p.bare then 32 else 128

/-- Dies of the part. -/
def Part.dies (p : Part) : Nat := if p.bare then 1 else 4

/-- Columns of the global grid. -/
def Part.width (p : Part) : Nat := if p.bare then 32 else 64

/-- Rows of the global grid. -/
def Part.height (p : Part) : Nat := if p.bare then 24 else 48

/-- Logical columns of a die that hold tiles (R17). -/
def Part.columns (p : Part) : Nat := if p = .e2688P then 28 else 32

/-- The X coordinate of a package tile index (R7, R180). -/
def tileX (t : Nat) : Nat := t % 64

/-- The Y coordinate of a package tile index. -/
def tileY (t : Nat) : Nat := t / 64

/-- The package tile index of a coordinate (R12: 64·Y + X). -/
def tileAt (x y : Nat) : Nat := 64 * y + x

/-- The die that holds a coordinate (R12). -/
def dieOf (x y : Nat) : Nat := x / 32 + 2 * (y / 24)

/-- The die that holds a tile. -/
def dieOfTile (t : Nat) : Nat := dieOf (tileX t) (tileY t)

/-- Whether the part has a tile at a coordinate (R2, R3, R17, R28). -/
def Part.hasTile (p : Part) (x y : Nat) : Bool :=
  decide (x < p.width) && decide (y < p.height) && decide (x % 32 < p.columns)

/-- Whether a package tile index names a tile of the part. -/
def Part.populated (p : Part) (t : Nat) : Bool := p.hasTile (tileX t) (tileY t)

/-- The service tiles of the part (R28, R68). -/
def Part.service (p : Part) : List Nat := if p.bare then [0] else [0, 32, 1536, 1568]

/-- The service tile of a die. -/
def serviceTile (die : Nat) : Nat := tileAt (32 * (die % 2)) (24 * (die / 2))

/-- The memory-port tile at the end of a tile's column (R13). -/
def mptOfTile (t : Nat) : Nat := 32 * dieOfTile t + tileX t % 32

/-- The memory-port tile of a Flaster port (R25, R28). -/
def flasterMpt (p : Nat) : Nat := 32 * (p / 4) + 8 * (p % 4) + 4

/-- A coordinate's neighbour in a direction (R7), none off the grid. -/
def neighbour (p : Part) (t : Nat) (d : Dir) : Option Nat :=
  let x := tileX t
  let y := tileY t
  match d with
  | .n => if y = 0 then none else some (tileAt x (y - 1))
  | .s => if y + 1 < p.height then some (tileAt x (y + 1)) else none
  | .e => if x + 1 < p.width then some (tileAt (x + 1) y) else none
  | .w => if x = 0 then none else some (tileAt (x - 1) y)

/-- Whether a coordinate is a router without a tile (R17): the columns that ZN-E2688-P fuses off. -/
def Part.passes (p : Part) (t : Nat) : Bool :=
  decide (tileX t < p.width) && decide (tileY t < p.height) && !p.populated t

/-- The opposite direction. -/
def dirOpp : Dir → Dir
  | .n => .s
  | .e => .w
  | .s => .n
  | .w => .e

/-- The direction's code (R177, R385). -/
def dirIndex : Dir → Nat := dirCode

/-- The UCIe module of the hop from a tile to its neighbour, where the hop crosses a die edge (R22). -/
def edgeModule (t u : Nat) : Option Nat :=
  if dieOfTile t = dieOfTile u then none
  else if tileY t = tileY u then some (tileY t)
  else some (48 + tileX t)

/-- The ring stop of a tile (R110). -/
def stopOfTile (t : Nat) : Nat :=
  let x := tileX t
  let y := tileY t
  let die := dieOf x y
  let base := match die with
    | 0 => 0
    | 1 => 800
    | 3 => 1600
    | _ => 2400
  let k := match die with
    | 0 => x
    | 1 => x - 32
    | 3 => 63 - x
    | _ => 31 - x
  if die < 2 then (if k % 2 = 0 then base + 25 * k + (23 - y) else base + 25 * k + 1 + y)
  else (if k % 2 = 0 then base + 25 * k + (y - 24) else base + 25 * k + 1 + (47 - y))

/-- The ring stop of a memory-port tile (R110). -/
def stopOfMpt (m : Nat) : Nat :=
  let die := m / 32
  let c := m % 32
  let base := match die with
    | 0 => 0
    | 1 => 800
    | 3 => 1600
    | _ => 2400
  let k := if die < 2 then c else 31 - c
  if k % 2 = 0 then base + 25 * k + 24 else base + 25 * k

/-- The ring's stops (R110, R111). -/
def Part.stops (p : Part) : Nat := if p.bare then 800 else 3200

/-- The loop delay L in steps (R111). -/
def Part.loop (p : Part) : Nat := if p.bare then 823 else 3292

/-- Steps from stop 0 to a stop (R111): one per stop, 23 more for each die edge passed. -/
def stopSteps (i : Nat) : Nat := i + 23 * (i / 800)

/-- Steps from one stop to another in the ring direction; a whole loop from a stop to itself. -/
def ringDist (p : Part) (a b : Nat) : Nat :=
  if a < b then stopSteps b - stopSteps a else p.loop + stopSteps b - stopSteps a

/-! Paths between endpoints (R13, R172). -/

/-- The coordinates at which a packet of an endpoint is on the grid (R13, R172). -/
def nodeCoord : Node → Option (Nat × Nat)
  | .tile t => some (tileX t, tileY t)
  | .mpt m => some (32 * (m / 32 % 2) + m % 32, if m < 64 then 0 else 47)
  | .su d => some (tileX (serviceTile d), tileY (serviceTile d))
  | .outside => none

/-- The network modules that a packet crosses, first along X, then along Y (R22, R172). -/
def pathModules (a b : Node) : List Nat :=
  match nodeCoord a, nodeCoord b with
  | some p, some q =>
    (if p.1 / 32 ≠ q.1 / 32 then [p.2] else []) ++ (if p.2 / 24 ≠ q.2 / 24 then [48 + q.1] else [])
  | _, _ => []

/-- The module that is down between two endpoints (R20). -/
def crossDown (s : State) (a b : Node) : Option Nat := (pathModules a b).find? (fun m => s.links.moduleDown.contains m)

/-- TRAPVAL2 of a LINK trap from a UCIe module (R263). -/
def linkVal2 (m : Nat) : Word := word (m * 256 + 1)

/-- What a physical address names (R197). -/
inductive PaKind where
  | hbm
  | direct (mpt off : Nat)
  | save (mpt off : Nat)
  | pool (mpt off : Nat)
  | config (mpt off : Nat)
  | staging (off : Nat)
  | endpoint (off : Nat)
  | nothing
  deriving DecidableEq, Repr

/-- Bytes of HBM that the part holds (R197, R445). -/
def hbmLimit (s : State) : Nat :=
  if s.part.bare then (if s.hbm then 0x1800000000 else 0) else 0x6000000000

/-- A CARVE field in bytes (R199). -/
def carveBytes (carve : Word) (lo : Nat) : Nat := field carve lo 4 * 0x100000

/-- What a physical address names on this part now (R197, R199, R201). -/
def paKind (s : State) (pa : Nat) : PaKind :=
  if pa < hbmLimit s then .hbm
  else if 0x800000000000 ≤ pa ∧ pa < 0x800080000000 then
    let m := (pa - 0x800000000000) / 0x1000000
    let o := pa % 0x1000000
    if m < s.part.mpts ∧ o < carveBytes (s.mpt m).carve 0 then .direct m o else .nothing
  else if 0x800100000000 ≤ pa ∧ pa < 0x800180000000 then
    let m := (pa - 0x800100000000) / 0x1000000
    let o := pa % 0x1000000
    let save := carveBytes (s.mpt m).carve 12
    if s.part.mpts ≤ m then .nothing
    else if o < save then .save m o
    else if o < save + carveBytes (s.mpt m).carve 16 then .pool m (o - save)
    else .nothing
  else if 0xFFFFFF0000000 ≤ pa ∧ pa < 0xFFFFFF0800000 then
    let m := (pa - 0xFFFFFF0000000) / 0x10000
    if m < s.part.mpts then .config m (pa % 0x10000) else .nothing
  else if 0xFFFFFF8000000 ≤ pa ∧ pa < 0xFFFFFFA000000 then .staging (pa - 0xFFFFFF8000000)
  else if 0xFFFFFFFFF0000 ≤ pa ∧ pa < 0x10000000000000 then .endpoint (pa - 0xFFFFFFFFF0000)
  else .nothing

/-- The home MPT of a physical address (R198): of an aperture address, the MPT it names. -/
def homeMpt (s : State) (pa : Nat) : Nat :=
  match paKind s pa with
  | .direct m _ => m
  | .save m _ => m
  | .pool m _ => m
  | .config m _ => m
  | .staging o => o / 0x100000
  | _ =>
    if s.part.bare then Nat.xor (pa / 0x1000 % 32) (pa / 0x20000 % 32)
    else Nat.xor (pa / 0x1000 % 128) (pa / 0x80000 % 128)

/-- Whether a physical address lies in a configuration window (R197). -/
def isConfig (s : State) (pa : Nat) : Bool :=
  match paKind s pa with
  | .config _ _ => true
  | _ => false

/-- The areas of a slice (R199), for the keys of their storage. -/
inductive Area where
  | save | pool | arch | shelf
  deriving DecidableEq, Repr

/-- The storage key of a byte of tile SRAM: the tile's slot and the offset in it (R182). -/
def sramKey (t off : Nat) : Nat := 0x10000000000000 + t * 0x100000 + off

/-- The storage key of a byte of a slice's area. -/
def areaKey (a : Area) (m off : Nat) : Nat :=
  let n := match a with
    | .save => 2
    | .pool => 3
    | .arch => 4
    | .shelf => 5
  n * 0x10000000000000 + m * 0x1000000 + off

/-- The storage key of a physical address that names bytes of memory; the staging window is DIRECT of die 0 (R47, R199). -/
def paKey (s : State) (pa : Nat) : Option Nat :=
  match paKind s pa with
  | .hbm => some pa
  | .direct _ _ => some pa
  | .save m o => some (areaKey .save m o)
  | .pool m o => some (areaKey .pool m o)
  | .staging o => some (0x800000000000 + o / 0x100000 * 0x1000000 + o % 0x100000)
  | _ => none

/-- The package's id (R26, R44). -/
def pkgId (s : State) : Nat := field s.ep.pkgid 0 8

/-- A scope's rectangle and package (R365). -/
structure Scope where
  x0 : Nat
  y0 : Nat
  x1 : Nat
  y1 : Nat
  pkg : Nat
  deriving DecidableEq, Repr

/-- Whether a package id names a package of the domain (R26). -/
def inDomain (s : State) (p : Nat) : Bool := decide (p = pkgId s) || (s.links.domain.contains p)

/-- The scope that a value names at a tile; none where R365 raises SCOPE. -/
def scopeOf (s : State) (t : Nat) (v : Word) : Option Scope :=
  if v = 0 then some ⟨tileX t, tileY t, tileX t, tileY t, pkgId s⟩
  else
    let x0 := field v 0 8
    let y0 := field v 8 8
    let x1 := field v 16 8
    let y1 := field v 24 8
    let p := field v 32 16
    if field v 48 16 ≠ 0 ∨ x0 > x1 ∨ y0 > y1 ∨ x1 > 63 ∨ y1 > 47 then none
    else if p = 0xFFFF ∨ (p < 256 ∧ inDomain s p) then some ⟨x0, y0, x1, y1, p⟩ else none

/-- Whether a scope contains a tile of this package (R10, R209). -/
def Scope.contains (c : Scope) (s : State) (t : Nat) : Bool :=
  decide (c.x0 ≤ tileX t) && decide (tileX t ≤ c.x1) && decide (c.y0 ≤ tileY t) && decide (tileY t ≤ c.y1)
    && (decide (c.pkg = pkgId s) || decide (c.pkg = 0xFFFF))

/-- Whether a scope is wider than a tile (R191, R211). -/
def Scope.wide (c : Scope) (s : State) (t : Nat) : Bool :=
  !(decide (c = ⟨tileX t, tileY t, tileX t, tileY t, pkgId s⟩))

/-- The record of the region a tile holds (R68). -/
def regionOf (s : State) (t : Nat) : Option RegionRec :=
  if (s.tile t).placed then s.regions.find? (fun r => r.on && decide (r.rid = (s.tile t).rid) && decide (r.gen = (s.tile t).gen))
  else none

/-- Whether a tile lies in a region's rectangle. -/
def RegionRec.has (r : RegionRec) (t : Nat) : Bool :=
  decide (r.x0 ≤ tileX t) && decide (tileX t < r.x0 + r.w) && decide (r.y0 ≤ tileY t) && decide (tileY t < r.y0 + r.h)

/-- The tiles of a region in row-major order. -/
def RegionRec.tiles (r : RegionRec) : List Nat :=
  (List.range r.h).flatMap (fun j => (List.range r.w).map (fun i => tileAt (r.x0 + i) (r.y0 + j)))

/-- Whether two tiles hold the same placed region. -/
def sameRegion (s : State) (t u : Nat) : Bool :=
  (s.tile t).placed && (s.tile u).placed && decide ((s.tile t).rid = (s.tile u).rid) && decide ((s.tile t).gen = (s.tile u).gen)

/-- Whether a tile is a service tile of the part. -/
def isService (s : State) (t : Nat) : Bool := s.part.service.contains t

/-- The bank's role code (R184). -/
def roleOf (x : Tile) (b : Nat) : Nat := bitsAt x.roles.toNat (2 * b) 2

/-- The bank's FIFO target (R184). -/
def fifoTarget (x : Tile) (b : Nat) : Nat := bitsAt x.fifot.toNat (4 * b) 4

/-- The bank that serves as the task spill bank (R87, R88). -/
def spillBank (x : Tile) : Option Nat :=
  if flag x.htab 28 && decide (field x.htab 24 4 < 12) then some (field x.htab 24 4) else none

/-- Whether a bank is an ADDR or SA bank that programs may reach (R182, R184). -/
def bankOpen (x : Tile) (b : Nat) : Bool :=
  decide (b < 12) && (decide (roleOf x b = 0) || decide (roleOf x b = 3)) && decide (spillBank x ≠ some b)

/-- Whether a bank is a single-assignment bank (R184). -/
def bankSA (x : Tile) (b : Nat) : Bool := decide (roleOf x b = 3)

/-- Whether the tile has a CACHE bank (R190) that is not taken for spilled tasks (R87). -/
def hasCache (x : Tile) : Bool := (List.range 12).any (fun b => decide (roleOf x b = 2) && decide (spillBank x ≠ some b))

end Sys2Proof.Machine
end

