-- ==== Sys2Proof/Machine/Beats.lean ====
section
/-! DEFINITION. Beats on the Lantern ring: where and when they arrive, their headers, and the folio's CRC (R109-R114, R120, R128). -/

namespace Sys2Proof.Machine

/-- The step at which a beat arrives at a stop (R111, R120): once round the loop at its own. -/
def Beat.arrival (p : Part) (b : Beat) (stop : Nat) : Nat := b.step + ringDist p b.stop stop

/-- Whether a beat has arrived at a stop by now, and was not lost on the way (R21). -/
def Beat.arrived (s : State) (b : Beat) (stop : Nat) : Bool :=
  decide (b.arrival s.part stop ≤ s.ring.step) && match b.lostAt with
    | some l => decide (b.arrival s.part stop < l)
    | none => true

/-- Whether a beat that has been taken off had been presented at a stop (R21). -/
def Beat.reached (p : Part) (b : Beat) (stop : Nat) : Bool :=
  match b.lostAt with
  | some l => decide (b.arrival p stop < l)
  | none => true

/-- A word of a header (R113). -/
def headerWord (h : List Byte) (n : Nat) : Word := word (leNat ((List.range 8).map (fun i => nth 0 h (8 * n + i))))

/-- The fields of a folio header (R113). -/
structure FolioHeader where
  lap : Nat
  index : Nat
  layer : Nat
  fcount : Nat
  src : Nat
  lane : Nat
  ghost : Bool
  last : Bool
  suspect : Bool
  poison : Bool
  len : Nat
  sgen : Nat
  deriving DecidableEq, Repr

/-- The header in its 64 bytes (R113). -/
def FolioHeader.bytes (h : FolioHeader) : List Byte :=
  leBytes 8 (h.lap % 2 ^ 32 * 2 ^ 32 + h.index * 2 ^ 16 + h.layer)
    ++ leBytes 8 (h.fcount * 2 ^ 48 + h.src * 2 ^ 40 + h.lane * 2 ^ 37 + bit h.ghost * 2 ^ 36 + bit h.last * 2 ^ 35
      + bit h.suspect * 2 ^ 34 + bit h.poison * 2 ^ 33 + h.len)
    ++ leBytes 8 h.sgen ++ List.replicate 40 0

/-- The header that a beat's bytes hold. -/
def headerOf (b : List Byte) : FolioHeader :=
  let w0 := headerWord b 0
  let w1 := headerWord b 1
  { lap := field w0 32 32, index := field w0 16 16, layer := field w0 0 16, fcount := field w1 48 16, src := field w1 40 8,
    lane := field w1 37 3, ghost := flag w1 36, last := flag w1 35, suspect := flag w1 34, poison := flag w1 33,
    len := field w1 0 17, sgen := field (headerWord b 2) 0 32 }

/-- LAP of the last header presented at a tile's stop on a lane (R128): of the beats still on the ring, else of the last one taken off that
reached the stop. -/
def headerLap (s : State) (t lane : Nat) : Nat :=
  let hs := s.ring.beats.filter (fun b => decide (b.lane = lane) && decide (b.kind = .header) && b.arrived s (stopOfTile t))
  match hs.getLast? with
  | some b => (headerOf b.data).lap
  | none =>
    match (sparseGet Lane.silent s.ring.lanes lane).gone.find? (fun b => b.reached s.part (stopOfTile t)) with
    | some b => (headerOf b.data).lap
    | none => 0

/-- The serial after the last beat of each lane that has arrived at a tile's stop. -/
def seenNow (s : State) (t : Nat) : Sparse Nat :=
  (List.range 8).foldl (fun m l =>
    let bs := s.ring.beats.filter (fun b => decide (b.lane = l) && b.arrived s (stopOfTile t))
    sparseSet 0 m l (bs.foldl (fun n b => max n (b.serial + 1)) 0)) []

/-! A tap's buffer and the SLOW signal (R126, R130, R131). -/

/-- The buffer space of a folio's payload: whole beats of 256 bytes (R112, R126). -/
def beatSpace (n : Nat) : Nat := (n + 255) / 256 * 256

/-- Buffer space that released folios still hold, the newest first: it frees as q's reads pass it, 64 bytes at a time; `n` bytes are
unread. -/
def releasedSpace : List (Nat × Nat × Nat) → Nat → Nat
  | [], _ => 0
  | f :: fs, n => if n = 0 then 0 else if n ≤ f.2.2 then n + (beatSpace f.2.2 - f.2.2) else beatSpace f.2.2 + releasedSpace fs (n - f.2.2)

/-- The payload beats that a tap's buffer of 512 has free (R126). -/
def Tap.freeBeats (x : Tap) : Nat :=
  (131072 - releasedSpace x.rel.reverse (x.bytes.length - x.taken) - (x.waiting.map (fun e => beatSpace e.2.2.2.length)).sum
    - (if x.folio.isEmpty then 0 else beatSpace (x.folio.length - 64))) / 256

/-- Whether a tap takes a layer from the ring (R126, R137). -/
def Tap.taking (x : Tap) : Bool := decide (x.state = .capture) || (decide (x.state = .hold) && x.mid)

/-- A tap's part of SLOW (R131): asserted in CAPTURE below 32 free beats, until 64 are free. -/
def Tap.paced (slowen : Bool) (x : Tap) : Tap :=
  { x with slow := slowen && x.taking && (decide (x.freeBeats < 32) || (x.slow && decide (x.freeBeats < 64))) }

/-- SLOW as its taps give it (R131), and the ring cycle since which it has been asserted, or has not. -/
def slowSignal (s : State) : State :=
  { s with ring := { s.ring with
      slowFrom := if s.taps.any (fun e => e.2.slow) then some (s.ring.slowFrom.getD s.ring.cycle) else none,
      freeFrom := if s.taps.any (fun e => e.2.slow) then none else some (s.ring.freeFrom.getD s.ring.cycle) } }

/-- A tap set, with its part of SLOW. -/
def State.placeTap (s : State) (t : Nat) (x : Tap) : State := slowSignal (s.setTap t (x.paced s.ring.slowen))

/-- SLOWEN and GHOSTEN as they are in force in a step (R118, R133). -/
def Ring.paceAt (r : Ring) (h : Nat) : Bool × Bool := if h ≤ r.oldPace.1 then r.oldPace.2 else (r.slowen, r.ghosten)

/-- A pace to come takes effect (R118, R133): a stall ends with PACED. -/
def takePace (s : State) : State :=
  match s.ring.pace with
  | none => s
  | some p =>
    let s : State := { s with ring := { s.ring with
      slowen := p.1, ghosten := p.2, pace := none, oldPace := (s.ring.step, s.ring.slowen, s.ring.ghosten),
      stalled := s.ring.stalled && p.1 } }
    slowSignal { s with taps := s.taps.map (fun e => (e.1, e.2.paced p.1)) }

/-- The steps among `n` ring cycles (R109, R131): the ring stalls within 16 ring cycles of SLOW, and resumes within 16 of its end. -/
def Ring.stepsIn (r : Ring) (n : Nat) : Nat :=
  match r.stalled, r.slowFrom, r.freeFrom with
  | false, none, _ => n
  | false, some c, _ => min n (c + 16 - r.cycle)
  | true, none, some c => n - (c + 16 - r.cycle)
  | true, _, _ => 0

/-- Whether the ring is stalled after `n` ring cycles (R131). -/
def Ring.stalledAfter (r : Ring) (n : Nat) : Bool :=
  match r.stalled, r.slowFrom, r.freeFrom with
  | false, none, _ => false
  | false, some c, _ => decide (c + 16 ≤ r.cycle + n)
  | true, none, some c => decide (r.cycle + n < c + 16)
  | true, _, _ => true

/-- The arm instant of a tap (R124): the first step that begins when the core cycle of its BOARD is over. -/
def Tap.rearm (step cycle : Nat) (x : Tap) : Tap :=
  if x.state = .armed ∧ x.boarded = cycle + 1 then { x with armed := step + 1 } else x

/-- The ring after a turn's clocks: a pace that was to come, its cycles and steps, and the arm instants of BOARDs of a core cycle that is
not over. -/
def ringAdvance (cycles n : Nat) (s : State) : State :=
  if n = 0 then s
  else
    let s := takePace s
    let s : State := { s with ring := { s.ring with
      cycle := s.ring.cycle + n, step := s.ring.step + s.ring.stepsIn n, stalled := s.ring.stalledAfter n } }
    if cycles = 0 then { s with taps := s.taps.map (fun e => (e.1, e.2.rearm s.ring.step s.cycle)) } else s

/-! The control side-band (R19, R21, R132). -/

/-- Whether every module of a ring crossing is down. -/
def crossingDown (s : State) (c : Nat) : Bool := (List.range 16).all (fun i => s.links.moduleDown.contains (112 + 16 * c + i))

/-- Whether a notice cannot reach a stop from another one in the ring's direction: a crossing on the way has no module up (R21). -/
def sideBlocked (s : State) (a b : Nat) : Bool :=
  !s.part.bare && decide (a ≠ b) && (List.range 4).any (fun c =>
    crossingDown s c && decide (ringDist s.part a (800 * c + 799) % s.part.loop < ringDist s.part a b))

/-! The CRC (R114). -/

/-- Eight bits of the CRC's division. -/
def crcShift : Nat → Nat → Nat
  | 0, c => c
  | n + 1, c => crcShift n (if c < 2 ^ 63 then 2 * c else Nat.xor (2 * c % 2 ^ 64) 0x42F0E1EBA9EA3693)

/-- CRC-64/ECMA-182 of bytes, most significant bit first, from 0. -/
def crc64 (bs : List Byte) : Nat := bs.foldl (fun c b => crcShift 8 (Nat.xor c (b.toNat * 2 ^ 56))) 0

end Sys2Proof.Machine
end

