-- ==== Sys2Proof/Machine/Memory.lean ====
section
/-! DEFINITION. The one byte memory that holds every byte-addressed store of the part (R5, R182, R197, R199): reads, writes,
poison (R35), and the full/empty bits of tile SRAM (R187). -/

namespace Sys2Proof.Machine

/-- What a byte reads as that nothing has written (log entry 3). -/
def blankByte : Byte := 0

/-- Memory: pairs of a storage key and a byte, in canonical form. -/
abbrev Memory := Sparse Byte

/-- Keys strictly rising, no entry that an unlisted key reads as. -/
def Memory.wf (m : Memory) : Bool := sparseWf blankByte m

/-- One byte. -/
def Memory.read (m : Memory) (k : Nat) : Byte := sparseGet blankByte m k

/-- One byte written. -/
def Memory.write (m : Memory) (k : Nat) (b : Byte) : Memory := sparseSet blankByte m k b

/-- `n` bytes from key `k` up. -/
def Memory.readBytes (m : Memory) (k : Nat) : Nat → List Byte
  | 0 => []
  | n + 1 => m.read k :: Memory.readBytes m (k + 1) n

/-- Bytes written from key `k` up. -/
def Memory.writeBytes (m : Memory) : Nat → List Byte → Memory
  | _, [] => m
  | k, b :: bs => Memory.writeBytes (m.write k b) (k + 1) bs

/-- The little-endian value of `n` bytes (R5). -/
def Memory.readLE (m : Memory) (k n : Nat) : Nat := leNat (m.readBytes k n)

/-- The key of the aligned 8-byte word that holds a byte. -/
def wordKey (k : Nat) : Nat := k / 8

/-- The bytes of a store that fill one or more whole words clear their poison (R35). -/
def clearPoison (p : KeySet) (k n : Nat) : KeySet := keyClear p ((k + 7) / 8) ((k + n) / 8)

/-- One byte of the part's memory. -/
def State.byteAt (s : State) (k : Nat) : Byte := Memory.read s.mem k

/-- The bytes of the part's memory. -/
def State.getBytes (s : State) (k n : Nat) : List Byte := Memory.readBytes s.mem k n

/-- The little-endian value of `n` bytes of the part's memory. -/
def State.getNat (s : State) (k n : Nat) : Nat := Memory.readLE s.mem k n

/-- Bytes written; a full overwrite of a word clears its poison (R35). -/
def State.putBytes (s : State) (k : Nat) (bs : List Byte) : State :=
  { s with mem := Memory.writeBytes s.mem k bs, poison := clearPoison s.poison k bs.length,
           latent := clearPoison s.latent k bs.length, hbmBad := clearPoison s.hbmBad k bs.length }

/-- The low `n` bytes of a value written (R5). -/
def State.putNat (s : State) (k n v : Nat) : State := s.putBytes k (leBytes n v)

/-- Whether any word that `n` bytes touch is poisoned (R35); `n` is at least 1. -/
def State.isPoisoned (s : State) (k n : Nat) : Bool :=
  s.poison.any (fun w => decide (k / 8 ≤ w) && decide (w ≤ (k + n - 1) / 8))

/-- A word marked as poisoned (R35). -/
def State.poisonWord (s : State) (k : Nat) : State := { s with poison := keyInsert s.poison (k / 8) }

/-- Whether a word of tile SRAM is full (R187). -/
def State.isFull (s : State) (t off : Nat) : Bool := s.full.contains (wordKey (sramKey t off))

/-- The F/E bit of a word of tile SRAM written (R187). -/
def State.setFull (s : State) (t off : Nat) (b : Bool) : State :=
  { s with full := if b then keyInsert s.full (wordKey (sramKey t off)) else keyErase s.full (wordKey (sramKey t off)) }

/-- Words whose values the spec does not give, from a key up (log entry 1). -/
def putFree (k : Nat) : Nat → State → State
  | 0, s => s
  | n + 1, s =>
    let f := s.freeWord
    putFree (k + 8) n (f.2.putNat k 8 f.1.toNat)

/-- Every byte of the keys from `lo` up to `hi` blank, and no word of them poisoned. -/
def State.blank (s : State) (lo hi : Nat) : State :=
  { s with mem := sparseClear s.mem lo hi, poison := keyClear s.poison (lo / 8) (hi / 8),
           latent := keyClear s.latent (lo / 8) (hi / 8), hbmBad := keyClear s.hbmBad (lo / 8) (hi / 8) }

/-- A range of a tile's SRAM zeroed and its words empty (R70, R186). -/
def State.blankSram (s : State) (t lo hi : Nat) : State :=
  let s := s.blank (sramKey t lo) (sramKey t hi)
  { s with full := keyClear s.full (wordKey (sramKey t lo)) (wordKey (sramKey t hi)) }

/-- Words of 8 bytes from key `k` up. -/
def State.getWords (s : State) (k : Nat) : Nat → List Word
  | 0 => []
  | n + 1 => word (s.getNat k 8) :: State.getWords s (k + 8) n

/-- An 8-byte word at a physical address; an address that holds nothing reads as zero. -/
def State.paWord (s : State) (pa : Nat) : Word :=
  match paKey s pa with
  | some k => word (s.getNat k 8)
  | none => 0

/-- An 8-byte word written at a physical address that holds memory. -/
def State.putPaWord (s : State) (pa : Nat) (v : Word) : State :=
  match paKey s pa with
  | some k => s.putNat k 8 v.toNat
  | none => s

/-- Whether the word at a physical address is poisoned (R35). -/
def State.paPoisoned (s : State) (pa : Nat) : Bool :=
  match paKey s pa with
  | some k => s.isPoisoned k 8
  | none => false

/-- The machine-check source of a poisoned physical address (R269): 3 where the error was found on a read from HBM, else 2, the slice. -/
def poisonSource (s : State) (pa : Nat) : Nat := if s.hbmBad.contains (pa / 8) then 3 else 2

end Sys2Proof.Machine
end

