-- ==== Sys2Proof/Machine/Net.lean ====
section
/-! DEFINITION. Packets on the dynamic and bulk networks (R172, R173), events to the host (R43), machine checks (R269), and
which writes of a thread are still to be performed (R64, R371). -/

namespace Sys2Proof.Machine

/-- A packet put on its way, not to be delivered before a cycle. -/
def State.sendAt (s : State) (notBefore : Nat) (cls : Class) (src dst : Node) (b : Body) : State :=
  { s with net := s.net ++ [⟨s.nextId, cls, src, dst, 0, notBefore, b, []⟩], nextId := s.nextId + 1 }

/-- A packet put on its way. -/
def State.send (s : State) (cls : Class) (src dst : Node) (b : Body) : State := s.sendAt 0 cls src dst b

/-- An answer put on its way, which leaves once the writes made since number `n` are acknowledged (R150). -/
def State.sendAfter (s : State) (n : Nat) (cls : Class) (src dst : Node) (b : Body) : State :=
  { s with net := s.net ++ [⟨s.nextId, cls, src, dst, 0, 0, b, (s.unacked.filter (fun u => decide (n ≤ u.id))).map (fun u => u.id)⟩],
           nextId := s.nextId + 1 }

/-- The arrived packet of a number. -/
def State.packet (s : State) (id : Nat) : Option Packet := s.arrived.find? (fun p => decide (p.id = id))

/-- The state without an arrived packet. -/
def State.dropPacket (s : State) (id : Nat) : State := { s with arrived := s.arrived.filter (fun p => decide (p.id ≠ id)) }

/-- Whether an older packet of the same class, source and destination is still on its way or waiting (R172). -/
def behind (p : Packet) (q : List Packet) : Bool :=
  q.any (fun x => decide (x.id < p.id) && decide (x.cls = p.cls) && decide (x.src = p.src) && decide (x.dst = p.dst))

/-- Everything under way: in flight or arrived. -/
def State.traffic (s : State) : List Packet := s.arrived ++ s.net

/-- The boot state's code (R47, R48). -/
def bootCode : Boot → Nat
  | .selfTest => 0
  | .awaiting => 1
  | .verifying => 2
  | .starting => 3
  | .running => 4
  | .failed => 5

/-- BOOTSTAT (R48). -/
def State.bootstat (s : State) : Word :=
  word (s.ep.fwver.toNat * 2 ^ 48 + s.ep.svn.toNat * 2 ^ 32 + Config.romVersion.toNat * 2 ^ 16 + s.ep.failcode * 2 ^ 8
    + bootCode s.ep.boot)

/-- An IPv6 address of 16 bytes of an array, the first byte highest. -/
def ipv6At (m : Sparse Byte) (o : Nat) : BitVec 128 :=
  BitVec.ofNat 128 ((List.range 16).foldl (fun n j => 256 * n + (sparseGet 0 m (o + j)).toNat) 0)

/-- EVDEST: where events go (R43, R44). -/
def eventDest (s : State) : BitVec 128 × BitVec 16 :=
  (ipv6At s.ep.evdest 0, BitVec.ofNat 16 (leNat [sparseGet 0 s.ep.evdest 16, sparseGet 0 s.ep.evdest 17]))

/-- Whether a port carries frames: self-test is over, its link is up and it is enabled (R45, R47). -/
def portOpen (s : State) (p : Nat) : Bool :=
  s.ep.portsUp && decide (p < 2) && sparseGet true s.ep.linkUp p && flag s.ep.epctl p

/-- The VID of a port's VLAN (R36, R44). -/
def portVid (s : State) (p : Nat) : Nat := if p = 0 then field s.ep.vlan 0 12 else field s.ep.vlan 16 12

/-- The MACsec channel of a port (R36). -/
def portChan (s : State) (p : Nat) : Option SecChan := sparseGet none s.ep.chans p

/-- How a frame that a port sends now leaves (R36): with the VLAN's tag, and protected where the port has a key. -/
def viaPort (s : State) (p : Nat) : Via := ⟨p, portVid s p, (portChan s p).map (fun c => ⟨c.key, c.txPn⟩)⟩

/-- The packet number of a port's next frame counted on (R36). -/
def countSent (p : Nat) (s : State) : State :=
  match portChan s p with
  | some c => { s with ep := { s.ep with chans := sparseSet none s.ep.chans p (some { c with txPn := c.txPn + 1 }) } }
  | none => s

/-- A response or event sent at a port (R36, R38, R43). -/
def sendAtPort (p : Nat) (r : Sent) (s : State) : State :=
  countSent p { s with ep := { s.ep with sent := s.ep.sent ++ [{ r with via := viaPort s p }] } }

/-- The port at which events leave (R43): port 0, but where port 1 alone carries frames (log entry 118). -/
def eventPort (s : State) : Nat := if !portOpen s 0 && portOpen s 1 then 1 else 0

/-- Events sent to EVDEST as it now is (R43). -/
def sendEvents (es : List Sent) (s : State) : State :=
  es.foldl (fun s e => sendAtPort (eventPort s) { e with dest := eventDest s } s) s

/-- A frame that is yet to leave. -/
def Via.none : Via := ⟨0, 0, Option.none⟩

/-- The next event of the device (R43): its SEQ is the next one. -/
def nextEvent (s : State) (code : Nat) (w0 w1 : List Byte) : Sent :=
  ⟨.none, eventDest s, true, 4, 0xFFFF, s.ep.seq.toNat, 0, word code, s.tick, w0 ++ w1⟩

/-- An event queued for the host (R43): at most 16 unacknowledged, 256 more queued, then lost. -/
def State.hostEvent (s : State) (code : Nat) (w0 w1 : List Byte) : State :=
  let e := nextEvent s code w0 w1
  if s.ep.unacked.length < 16 ∧ s.ep.queued = [] then
    sendEvents [e] { s with ep := { s.ep with unacked := s.ep.unacked ++ [e], seq := s.ep.seq + 1 } }
  else if s.ep.queued.length < 256 then
    { s with ep := { s.ep with queued := s.ep.queued ++ [e], seq := s.ep.seq + 1 } }
  else { s with ep := { s.ep with evlost := s.ep.evlost + 1 } }

/-- A boot state entered, with its BOOTSTATE event once the ports are up (R47, R43). -/
def State.enterBoot (s : State) (b : Boot) : State :=
  let s := { s with ep := { s.ep with boot := b } }
  if s.ep.portsUp then s.hostEvent 1 (leBytes 8 s.bootstat.toNat) [] else s

/-- A message whose task is no longer on its way (R42). -/
def forgetMsg (m : Nat × Nat) (s : State) : State :=
  { s with ep := { s.ep with msgs := s.ep.msgs.filter (fun e => !(decide (e.1 = m.1) && decide (e.2.1 = m.2))) } }

/-- The task of a machine check (R269); the fields that R269 does not give are free values. -/
def checkTask (s : State) (w0 w1 : Word) : Task × State :=
  let k := s.freeWord
  let c := k.2.freeWord
  let i := c.2.freeWord
  ({ rid := 0, gen := 0, srcPkg := pkgId s, srcIdx := i.1.toNat % 4096, stolen := false, aff := false, prio := 3, two := true,
     label := 127, dpkg := pkgId s, dx := 0, dy := 0, win := 0, key := BitVec.ofNat 32 k.1.toNat,
     cnt := BitVec.ofNat 32 c.1.toNat, w0 := w0, w1 := w1, host := none, check := true, since := 0 }, i.2)

/-- A task sent to the tile it names. -/
def State.sendTask (s : State) (src : Node) (t : Task) : State :=
  s.send .tsk src (.tile (tileAt t.dx t.dy)) (.task t)

/-- A machine-check event (R269): a task to label 127 of the service tiles of the dies named, and an MCHECK event. -/
def State.machineCheck (s : State) (source unit : Nat) (w1 : Word) (dies : List Nat) : State :=
  let w0 := word (source * 2 ^ 56 + unit % 65536 * 2 ^ 32)
  let s := dies.foldl (fun s d =>
    let t := checkTask s w0 w1
    t.2.sendTask .outside { t.1 with dx := tileX (serviceTile d), dy := tileY (serviceTile d) }) s
  s.hostEvent 2 (leBytes 8 w0.toNat) (leBytes 8 w1.toNat)

/-- A machine check to the service tile of every die of the part: where the rule that raises it names none (R33, R122, R135; log entry 86). -/
def State.machineCheckAll (s : State) (source unit : Nat) (w1 : Word) : State :=
  s.machineCheck source unit w1 (List.range s.part.dies)

/-- The machine check of an uncorrectable word of a storage key (R269): its source, its unit, and its physical address, 0 where it has
none. -/
def keySource (s : State) (k : Nat) : Nat × Nat × Word :=
  let o := k % 0x10000000000000
  let m := o / 0x1000000
  let system := 0x800100000000 + o
  match k / 0x10000000000000 with
  | 0 => (if s.hbmBad.contains (k / 8) then 3 else 2, homeMpt s k, word (k / 8 * 8))
  | 1 => (1, o / 0x100000, 0)
  | 2 => (2, m, word (system / 8 * 8))
  | 3 => (2, m, word ((system + carveBytes (s.mpt m).carve 12) / 8 * 8))
  | _ => (2, m, 0)

/-- The uncorrectable words that a read of `n` bytes finds (R270): each sends one machine check, when it is first found. -/
def State.detect (s : State) (k n : Nat) : State :=
  (s.latent.filter (fun w => decide (k / 8 ≤ w) && decide (w ≤ (k + n - 1) / 8))).foldl (fun s w =>
    let u := keySource s (8 * w)
    let s := { s with latent := keyErase s.latent w }
    s.machineCheckAll u.1 u.2.1 u.2.2) s

/-- Whether an operation writes memory. -/
def MemOp.writes : MemOp → Bool
  | .store _ _ => true
  | .storeM _ _ => true
  | .amo _ _ _ _ => true
  | .cas _ _ _ => true
  | .stf _ => true
  | .red _ _ _ _ => true
  | .amoord _ _ _ _ => true
  | .aexp _ => true
  | _ => false

/-- Whether a packet is a write of the thread of a number, or a seal marker of its own or of the tile it is on (R64, R223, R371). -/
def Packet.writeOf (p : Packet) (t rid uid : Nat) : Bool :=
  match p.body with
  | .access w _ _ _ op => decide (w.uid = uid) && op.writes
  | .sealed w => decide (w.uid = uid) || (decide (w.tile = t) && decide (w.rid = rid))
  | _ => false

/-- Whether every earlier store, atomic and RED of a thread is performed or sealed, and acknowledged, and every seal marker of its tile has arrived (R371, R150,
R223). -/
def State.settled (s : State) (t uid : Nat) : Bool :=
  !(s.traffic.any (fun p => p.writeOf t (s.tile t).rid uid)) && !(s.unacked.any (fun u => match u.who with
    | some w => decide (w.uid = uid)
    | none => false))

/-- Whether a thread has a task still to be accepted at its destination (R99). -/
def State.tasksOut (s : State) (tile : Nat) (key : BitVec 32) : Bool :=
  s.traffic.any (fun p => match p.body with
    | .task t => decide (t.srcIdx = tile) && decide (t.key = key) && t.host.isNone && !t.check
    | _ => false)

/-- Who the thread of the present step is (R82). -/
def State.who (s : State) : Who :=
  ⟨s.here.tile, s.here.slot, s.me.uid, s.hereTile.rid, s.hereTile.gen⟩

/-- An event bit posted at every slot of a tile (R420). -/
def State.postEvent (s : State) (t : Nat) : State :=
  (List.range 6).foldl (fun s k => s.updThread t k (fun x => { x with ev := true })) s

end Sys2Proof.Machine
end

