-- ==== Sys2Proof/Machine/SysRegs.lean ====
section
/-! DEFINITION. The system registers (R412): what MFS reads and what MTS writes, with the privilege rule of each; what an instruction is charged (R158). -/

namespace Sys2Proof.Machine

/-- Whether a slot is a guest slot (R155). -/
def isGuest (k : Nat) : Bool := decide (4 ≤ k)

/-- The FILL of a slot (R159, R160). -/
def fillOf (cfg : Word) (k : Nat) : Nat := field cfg (if isGuest k then 48 else 12 * k) 12

/-- TILEID (R413). -/
def tileIdWord (s : State) (t : Nat) : Word :=
  word ((if (s.tile t).sig then 2 ^ 63 else 0) + pkgId s * 2 ^ 32 + dieOfTile t * 2 ^ 28 + t * 2 ^ 16 + tileY t * 2 ^ 8 + tileX t)

/-- THREADID (R414). -/
def threadIdWord (x : Thread) (k : Nat) : Word := word (x.key.toNat * 2 ^ 32 + k)

/-- REGIONID (R415). -/
def regionIdWord (s : State) (t : Nat) : Word :=
  if (s.tile t).placed then word ((s.tile t).gen * 2 ^ 16 + (s.tile t).rid) else 0

/-- REGIONRECT (R415). -/
def regionRectWord (s : State) (t : Nat) : Word :=
  match regionOf s t with
  | some r => word (pkgId s * 2 ^ 32 + (r.y0 + r.h - 1) * 2 ^ 24 + (r.x0 + r.w - 1) * 2 ^ 16 + r.y0 * 2 ^ 8 + r.x0)
  | none => 0

/-- The lowest address bit that a level's index takes (R202). -/
def levelShift : Nat → Nat
  | 0 => 39
  | 1 => 30
  | 2 => 21
  | _ => 16

/-- The index of a level (R202). -/
def levelIndex (level : Nat) (va : Word) : Nat := field va (levelShift level) (if level = 3 then 5 else 9)

/-- The entry of a TLB that maps an address (R205): level, page, root and leaf. -/
def tlbFind (x : Tile) (root : Nat) (va : Word) : Option (Nat × Nat × Nat × Word) :=
  x.tlb.find? (fun e => decide (e.2.1 = va.toNat % 2 ^ 48 / 2 ^ levelShift e.1) && decide (e.2.2.1 = root))

/-- The physical address that a leaf gives (R203). -/
def leafPa (level : Nat) (e va : Word) : Nat := field e 8 44 * 256 + va.toNat % 2 ^ levelShift level

/-- The instruction of a repeat's replay (R347). -/
def replayed (r : Rep) : Option RepWord := if r.active ∧ r.idx < r.buf.length then some (nth ⟨0, 0, 0⟩ r.buf r.idx) else none

/-- The charge of an instruction (R158). -/
def chargeOf (i : Instr) : Nat :=
  match i with
  | .dot .. | .dotmx .. => 64
  | .mout .. | .mld .. | .mst .. | .split .. | .merge .. => 16
  | .vfdiv .. | .vfsqrt .. => 8
  | .vexp2 .. | .vlog2 .. | .vrcp .. | .vrsq .. => 6
  | .vfma .. | .vfms .. | .vtord .. | .vsort .. | .vjoinPair .. | .vjoinUnion .. => 4
  | .vfadd .. | .vfsub .. | .vfmul .. | .vfmin .. | .vfmax .. | .vfcmp .. | .vfclass .. | .vcvt .. | .vrnd .. | .vred .. => 3
  | .ldv .. | .stv .. | .ldg .. | .stg .. => 2
  | .vadd .. | .vsub .. | .vmul .. | .vmulh .. | .vmin .. | .vmax .. | .vand .. | .vor .. | .vxor .. | .vandn ..
  | .vshl .. | .vshr .. | .vsra .. | .vadds .. | .vsubs .. | .vavg .. | .vabs .. | .vcmp .. | .vsel .. | .vmov ..
  | .vbcast .. | .vext .. | .vins .. | .kand .. | .kor .. | .kxor .. | .knot .. | .kpopc .. | .kfirst .. | .vpermByte ..
  | .vpermNib .. | .vpermx .. | .vzip .. | .vunzip .. | .vcomp .. | .vexpd .. | .viota .. | .vslide .. => 2
  | _ => 0

/-- The physical address that a walk of the tables finds, read as they stand (R202, R203). -/
def peekWalk (s : State) (table : Nat) (va : Word) : Nat → Nat → Option Nat
  | 0, _ => none
  | fuel + 1, level =>
    let e := s.paWord (table + 8 * levelIndex level va)
    if !flag e 0 then none
    else if flag e 1 then some (leafPa level e va)
    else peekWalk s (field e 8 44 * 256) va fuel (level + 1)

/-- The instruction word that a tile would fetch at an address, without the effects of a fetch (R205, R299). -/
def peekWord (s : State) (t root : Nat) (va : Word) : Option Nat :=
  let x := s.tile t
  let c := sparseGet (0, 0) x.icache (va.toNat / 4)
  if c.1 = root + 1 then some c.2.toNat
  else
    (match tlbFind x root va with
      | some e => some (leafPa e.1 e.2.2.2 va)
      | none => peekWalk s root va 4 0).map (fun pa => field (s.paWord (pa / 8 * 8)) (8 * (pa % 8)) 32)

/-- The charge of the next instruction of the thread in a slot (R158): 0 where it cannot be fetched or decoded. -/
def nextCharge (s : State) (t k : Nat) (x : Thread) : Nat :=
  let charge (w0 w1 : Nat) : Nat := match decodeCore w0 w1 with
    | .ok i => chargeOf i
    | .error _ => 0
  match replayed (s.native t k).rep with
  | some w => charge w.w0.toNat w.w1.toNat
  | none =>
    match peekWord s t x.root x.pc with
    | some w0 => charge w0 ((peekWord s t x.root (x.pc + 4)).getD 0)
    | none => 0

/-- BUDGET (R161): LEANCYC, LEAN and LEFT. -/
def budgetWord (s : State) (t k : Nat) (x : Thread) : Word :=
  if fillOf (s.tile t).fills k = 0xFFF then word (x.lean * 2 ^ 16 + 0xFFF)
  else word (x.lean * 2 ^ 16 + bit (decide (x.left < nextCharge s t k x)) * 2 ^ 12 + x.left)

/-- WINDOW (R98). -/
def windowWord (s : State) (t : Nat) (x : Thread) : Word :=
  match regionOf s t with
  | some r =>
    if r.det then
      word (2 ^ 63 + (if r.number.toNat < x.window.toNat then 2 ^ 62 else 0)
        + min 0xFFFF ((s.tile t).tasks.filter (fun k => decide (r.number.toNat ≤ k.win.toNat))).length * 2 ^ 32 + r.number.toNat)
    else word r.number.toNat
  | none => 0

/-- The state of a tap as TSTATE (R128). -/
def tapCode : TapState → Nat
  | .idle => 0
  | .armed => 1
  | .capture => 2
  | .hold => 3
  | .faulted => 4
  | .done => 5

/-- LAP (R128). -/
def lapWord (s : State) (t : Nat) : Word :=
  let x := s.tap t
  word (tapCode x.state * 2 ^ 61 + (if x.state = .idle then 0 else x.q) * 2 ^ 58 + x.lane * 2 ^ 55
    + (bit s.ring.slowen * 2 + bit s.ring.ghosten) * 2 ^ 53 + x.layer * 2 ^ 32 + headerLap s t x.lane)

/-- A system register read for the thread in a slot (R412). Numbers that name no register read as zero. -/
def sysRead (s : State) (t k : Nat) (x : Thread) (r : Nat) : Word × State :=
  match r with
  | 0x000 => (x.status, s)
  | 0x001 => (x.trappc, s)
  | 0x002 => (x.trapcause, s)
  | 0x003 => (x.trapval, s)
  | 0x004 => (x.trapval2, s)
  | 0x005 => (x.trapvec, s)
  | 0x006 => (x.fpcsr, s)
  | 0x010 => (tileIdWord s t, s)
  | 0x011 => (threadIdWord x k, s)
  | 0x012 => (regionIdWord s t, s)
  | 0x013 => (regionRectWord s t, s)
  | 0x014 => (s.tick, s)
  | 0x020 => (budgetWord s t k x, s)
  | 0x021 => ((s.tile t).budgetcfg, s)
  | 0x022 => (x.livemask, s)
  | 0x023 => (if isGuest k then 0 else (s.native t k).repstate, s)
  | 0x040 => ((s.tile t).gang, s)
  | 0x041 => ((s.tile t).htab, s)
  | 0x042 => (windowWord s t x, s)
  | 0x043 => (lapWord s t, s)
  | 0x044 => (s.eolhours, s)
  | _ =>
    if 0x030 ≤ r ∧ r ≤ 0x037 then (word (sparseGet Stream.unbound (s.native t k).q (r - 0x030)).pos, s) else (0, s)

/-- What an MTS does (R417): it is performed, raises PRIVILEGE, or raises ACCESS. -/
inductive SysWrite where
  | done (s : State)
  | privilege
  | access
  deriving DecidableEq, Repr

/-- The bits of `mask` taken from `v`, the others kept. -/
def masked (mask old v : Word) : Word := (v &&& mask) ||| (old &&& ~~~mask)

/-- A write performed at S and D, and PRIVILEGE at U. -/
def atS (pl : Nat) (s : State) : SysWrite := if pl = 0 then .privilege else .done s

/-- A write ignored at D, and PRIVILEGE at U and S. -/
def ignoredAtD (pl : Nat) (s : State) : SysWrite := if pl = 2 then .done s else .privilege

/-- The new value of STATUS (R260): a write of 3 to PL or PPL leaves the field. -/
def statusWrite (old v : Word) : Word :=
  let pl := if field v 0 2 = 3 then field old 0 2 else field v 0 2
  let ppl := if field v 2 2 = 3 then field old 2 2 else field v 2 2
  word (field v 5 1 * 32 + ppl * 4 + pl)

/-- The new value of FPCSR (R237): a write of 5-7 to RM leaves the field. -/
def fpcsrWrite (old v : Word) : Word :=
  word (field v 3 11 * 8 + (if field v 0 3 < 5 then field v 0 3 else field old 0 3))

/-- The length T of a stream's pattern (R341). -/
def Stream.total (q : Stream) : Nat := q.len0 * q.n1 * q.n2

/-- Whether a position passes T on a stream that does not wrap (R343, R346). -/
def Stream.past (q : Stream) (p : Nat) : Bool := !q.wrap && decide (q.total < p)

/-- The stream register `q` of a slot. -/
def State.streamAt (s : State) (t k q : Nat) : Stream := sparseGet Stream.unbound (s.native t k).q q

/-- The state with a stream register changed. -/
def State.setStreamAt (s : State) (t k q : Nat) (x : Stream) : State :=
  s.updNative t k (fun n => { n with q := sparseSet Stream.unbound n.q q x })

/-- Every read-stream lookahead of a slot discarded (R345). -/
def State.dropAhead (s : State) (t k : Nat) : State :=
  s.updNative t k (fun n => { n with q := n.q.map (fun e => (e.1, if e.2.write then e.2 else { e.2 with ahead := [], taken := 0 })) })

/-- MTS to a QPOS register (R346). -/
def qposWrite (s : State) (t k q : Nat) (v : Word) : SysWrite :=
  let x := s.streamAt t k q
  if isGuest k then .access
  else if v.toNat % 64 ≠ 0 ∨ x.kind = .none ∨ x.kind = .tap ∨ x.past v.toNat then .access
  else .done ((s.dropAhead t k).setStreamAt t k q { x with pos := v.toNat, ahead := [], taken := 0 })

/-- The tiles of a chain of n + 1 tiles from its leader eastward (R169). -/
def chainTiles (t n : Nat) : List Nat := (List.range n).map (fun i => t + 1 + i)

/-- GANG after a write of its RW fields; writing 1 clears BROKEN (R168). -/
def gangWord (old v : Word) : Word :=
  let broken := if flag v 19 then 0 else field old 19 1
  word (broken * 2 ^ 19 + field v 16 3 * 2 ^ 16 + field v 8 4 * 2 ^ 8 + field v 0 2)

/-- MTS to GANG (R168, R169). A chain that would leave its row, the part or the region raises ACCESS. -/
def gangWrite (s : State) (t k : Nat) (v : Word) : SysWrite :=
  let n := field v 8 4
  if field v 0 2 = 3 ∨ 4 ≤ field v 16 3 then .access
  else if field v 0 2 = 1 then
    if n = 0 ∨ isGuest k ∨ field v 16 3 ≠ k ∨ 64 ≤ tileX t + n ∨ !((chainTiles t n).all (sameRegion s t)) then .access
    else .done (s.updTile t (fun x => { x with gang := gangWord x.gang v, gangQ := [], gangNow := none }))
  else .done (s.updTile t (fun x => { x with gang := gangWord x.gang v }))

/-- A system register written for the thread in a slot at a privilege level (R412, R417). -/
def sysWrite (s : State) (t k pl r : Nat) (v : Word) : SysWrite :=
  let upd (f : Thread → Thread) : State := s.updThread t k f
  match r with
  | 0x000 =>
    if pl = 0 ∨ (pl = 1 ∧ (field v 0 2 = 2 ∨ field v 2 2 = 2)) then .privilege
    else .done (upd (fun x => { x with status := statusWrite x.status v }))
  | 0x001 => atS pl (upd (fun x => { x with trappc := v }))
  | 0x002 => atS pl (upd (fun x => { x with trapcause := masked 0x81FF x.trapcause v }))
  | 0x003 => atS pl (upd (fun x => { x with trapval := v }))
  | 0x004 => atS pl (upd (fun x => { x with trapval2 := v }))
  | 0x005 => atS pl (upd (fun x => { x with trapvec := masked 0x0000FFFFFFFFFFFD x.trapvec v }))
  | 0x006 => .done (upd (fun x => { x with fpcsr := fpcsrWrite x.fpcsr v }))
  | 0x010 => .done (s.updTile t (fun x => { x with sig := if x.sw.sigAt = s.cycle + 1 then x.sig else flag v 63 }))
  | 0x021 => atS pl (s.updTile t (fun x => { x with budgetcfg := masked 0x8FFFFFFFFFFFFFFF x.budgetcfg v }))
  | 0x022 => .done (upd (fun x => { x with livemask := masked 0xFFFFFFFFFFFFFFFE x.livemask v }))
  | 0x023 =>
    if pl = 0 ∨ isGuest k then .privilege
    else .done (s.updNative t k (fun n => { n with repstate := masked 0x80FF3F00FFFFFFFF n.repstate v }))
  | 0x040 => if pl = 0 then .privilege else gangWrite s t k v
  | 0x041 => .done (s.updTile t (fun x => { x with htab := masked 0x1F0FF801 x.htab v }))
  | _ =>
    if 0x030 ≤ r ∧ r ≤ 0x037 then (if pl = 0 then .privilege else qposWrite s t k (r - 0x030) v)
    else ignoredAtD pl s

end Sys2Proof.Machine
end

