-- ==== Sys2Proof/Machine/ConfigRegs.lean ====
section
/-! DEFINITION. The MPT configuration windows: CARVE (R199, R200), MCLOST (R269) and the debug registers (R276-R278). -/

namespace Sys2Proof.Machine

/-- The offset and size, in MiB, of the areas SHELF, ARCH, SAVE, AWPOOL and DIRECT in a slice (R199). -/
def carveAreas (c : Word) : List (Nat × Nat) :=
  let shelf := field c 4 4
  let arch := field c 8 4
  let save := field c 12 4
  let pool := field c 16 4
  [(0, shelf), (shelf, arch), (shelf + arch, save), (shelf + arch + save, pool), (shelf + arch + save + pool, field c 0 4)]

/-- Whether an area moves or shrinks (R200). -/
def areaWorse (o n : Nat × Nat) : Bool := decide (o.1 ≠ n.1) || decide (n.2 < o.2)

/-- Whether an area moves or changes its size (R200). -/
def areaChanged (o n : Nat × Nat) : Bool := decide (o ≠ n)

/-- Whether the shelf list in force, or a pending LOAD, uses an MPT's SHELF area (R118, R200). -/
def shelfUsed (s : State) (m : Nat) : Bool :=
  let uses (x : Option Shelf) : Bool := match x with
    | some l => l.layers.any (fun y => decide (y.home = m))
    | none => false
  uses s.ring.filling || s.ring.lanes.any (fun e => uses e.2.shelf || uses e.2.next)

/-- Whether an MPT's SAVE area holds a region save header, or a tile record of a PREEMPTED region (R200, R271). -/
def saveUsed (s : State) (m : Nat) : Bool :=
  s.regions.any (fun r => (decide (r.header.1 = m)) || r.saved.any (fun t => decide (t.unit / 16 = m)))

/-- Whether a write of CARVE is refused (R200). -/
def carveRefused (s : State) (m : Nat) (v : Word) : Bool :=
  let o := carveAreas (s.mpt m).carve
  let n := carveAreas v
  let worse (i : Nat) : Bool := areaWorse (nth (0, 0) o i) (nth (0, 0) n i)
  decide (12 < field v 0 4 + field v 4 4 + field v 8 4 + field v 12 4 + field v 16 4)
    || (worse 0 && shelfUsed s m)
    || (worse 1 && !(s.mpt m).entries.isEmpty)
    || (worse 2 && saveUsed s m)
    || (worse 3 && (s.mpt m).pool.any (fun e => e.2.alloc))

/-- The storage of an area of an MPT zeroed (R200). -/
def State.blankArea (s : State) (lo : Nat) : State := s.blank lo (lo + 0x1000000)

/-- The shelf copies of an MPT's SHELF area are gone (R200): what the lists in force would present of them until the next LOAD is free
(log entry 1). -/
def forgetCopies (m : Nat) (s : State) : State :=
  let ls := s.ring.lanes.flatMap (fun e => match e.2.shelf with
    | some x => x.layers.filter (fun y => decide (y.lane = e.1) && decide (y.home = m))
    | none => [])
  ls.foldl (fun s y => y.folios.foldl (fun s f => putFree (areaKey .shelf m (f.coff * 256)) (f.len / 8) s) s) s

/-- A write of CARVE (R200). -/
def carveStore (s : State) (m : Nat) (v : Word) : State :=
  let old := (s.mpt m).carve
  if carveRefused s m v then s.updMpt m (fun x => { x with carve := word (old.toNat % 2 ^ 63 + 2 ^ 63) })
  else
    let o := carveAreas old
    let n := carveAreas v
    let ch (i : Nat) : Bool := areaChanged (nth (0, 0) o i) (nth (0, 0) n i)
    let grows (i : Nat) : Bool := decide ((nth (0, 0) o i).1 ≠ (nth (0, 0) n i).1) || decide ((nth (0, 0) o i).2 < (nth (0, 0) n i).2)
    let s := if grows 0 then forgetCopies m s else s
    let s := if ch 2 then s.blankArea (areaKey .save m 0) else s
    let s := if ch 3 then s.blankArea (areaKey .pool m 0) else s
    let s := if ch 4 then s.blankArea (0x800000000000 + m * 0x1000000) else s
    let rej := if flag v 63 then 0 else field old 63 1
    s.updMpt m (fun x => { x with
      carve := word (rej * 2 ^ 63 + field v 0 20),
      entries := if grows 1 then [] else x.entries,
      pool := if grows 3 then [] else x.pool })

/-- MCLOST of a die read, which clears it (R269, R9). -/
def mclostGet (s : State) (die : Nat) : Word × State :=
  (word (sparseGet 0 s.mclost die), { s with mclost := sparseSet 0 s.mclost die 0 })

/-- DBGCTL.HALT: the tile begins to halt (R276, R277). -/
def debugHaltTile (s : State) (t : Nat) : State :=
  s.updTile t (fun x => if x.halted then x else { x with halting := true })

/-- The waits of a tile's threads and switch counted from now on (R179). -/
def restartTileWaits (s : State) (t : Nat) : State :=
  (List.range 6).foldl (fun s k => s.updThread t k (fun x => { x with since := s.cycle }))
    (s.updTile t (fun x => { x with probed := none, sw := { x.sw with since := s.cycle } }))

/-- The waits of a halted tile's whole region counted from now on (R179). -/
def restartWaits (s : State) (t : Nat) : State :=
  match regionOf s t with
  | some r => r.tiles.foldl restartTileWaits s
  | none => restartTileWaits s t

/-- DBGCTL.RESUME: the halt ends (R277). -/
def debugResumeTile (s : State) (t : Nat) : State :=
  if (s.tile t).halted then
    restartWaits (s.updTile t (fun x => { x with halted := false, halting := false, stepOnce := none, sstep := false })) t
  else s

/-- DBGCTL.STEP: one instruction of slot SEL may issue (R277). -/
def debugStepTile (s : State) (t : Nat) : State :=
  s.updTile t (fun x => if x.halted then { x with stepOnce := some (if x.dbgsel < 6 then x.dbgsel else 0) } else x)

/-- DBGCTL.SSTEP: one switch word may be attempted (R277). -/
def debugSstepTile (s : State) (t : Nat) : State :=
  s.updTile t (fun x => if x.halted then { x with sstep := true } else x)

/-- The item that DBGREG selects of a thread (R278). -/
def debugItem (s : State) (t k : Nat) (x : Thread) (i : Nat) : Word × State :=
  if i < 0x01C then (if i = 0 then 0 else sparseGet 0 x.s i, s)
  else if 0x100 ≤ i ∧ i < 0x100 + 8 * 28 then
    (((sparseGet 0 x.v ((i - 0x100) / 8)).extractLsb' (64 * ((i - 0x100) % 8)) 64), s)
  else if 0x200 ≤ i ∧ i < 0x208 then (if i = 0x200 then BitVec.allOnes 64 else sparseGet 0 x.k (i - 0x200), s)
  else if i = 0x400 then (x.pc, s)
  else if 0x300 ≤ i ∧ i < 0x400 then sysRead s t k x (i - 0x300)
  else (0, s)

/-- A vector register with one 64-bit word replaced. -/
def vecSetWord (v : Vec) (w : Nat) (x : Word) : Vec :=
  (v &&& ~~~((BitVec.allOnes 64).setWidth 512 <<< (64 * w))) ||| (x.setWidth 512 <<< (64 * w))

/-- The item that DBGREG selects written (R278). -/
def debugItemWrite (s : State) (t k : Nat) (i : Nat) (v : Word) : State :=
  let upd (f : Thread → Thread) : State := s.updThread t k f
  if i < 0x01C then (if i = 0 then s else upd (fun x =>
    { x with s := sparseSet 0 x.s i v, badRegs := keyErase x.badRegs i, toldRegs := keyErase x.toldRegs i }))
  else if 0x100 ≤ i ∧ i < 0x100 + 8 * 28 then
    let n := (i - 0x100) / 8
    upd (fun x => { x with v := sparseSet 0 x.v n (vecSetWord (sparseGet 0 x.v n) ((i - 0x100) % 8) v) })
  else if 0x200 ≤ i ∧ i < 0x208 then (if i = 0x200 then s else upd (fun x =>
    { x with k := sparseSet 0 x.k (i - 0x200) v, badRegs := keyErase x.badRegs (i - 0x200 + 64),
             toldRegs := keyErase x.toldRegs (i - 0x200 + 64) }))
  else if i = 0x400 then upd (fun x => { x with pc := v })
  else if 0x300 ≤ i ∧ i < 0x400 then
    match sysWrite s t k 2 (i - 0x300) v with
    | .done s' => s'
    | _ => s
  else s

/-- DBGREG as it is kept: GO clears, and the reserved bits read as zero (R8, R278). -/
def dbgregKept (v : Word) : Word := word (bit (flag v 62) * 2 ^ 62 + field v 56 3 * 2 ^ 56 + field v 0 16)

/-- DBGREG with GO = 1 and WR = 0 (R278): the item is read into DBGDATA, zero on a tile that is not halted or a slot without a
thread. -/
def debugRead (s : State) (t : Nat) (sel : Word) : State :=
  let k := field sel 56 3
  let store (s : State) (v : Word) : State := s.updTile t (fun x => { x with dbgreg := dbgregKept sel, dbgdata := v })
  if (s.tile t).halted ∧ k < 6 then
    match s.thread t k with
    | some x => let r := debugItem s t k x (field sel 0 16); store r.2 r.1
    | none => store s 0
  else store s 0

/-- DBGREG with GO = 1 and WR = 1 (R278): DBGDATA is written into the item. -/
def debugWrite (s : State) (t : Nat) (sel : Word) : State :=
  let k := field sel 56 3
  let s' := s.updTile t (fun x => { x with dbgreg := dbgregKept sel })
  if (s.tile t).halted ∧ k < 6 ∧ (s.thread t k).isSome then debugItemWrite s' t k (field sel 0 16) (s.tile t).dbgdata else s'

/-- The tile whose debug registers lie at row `r` of an MPT's window (R276). -/
def debugTile (m r : Nat) : Nat := tileAt (32 * (m / 32 % 2) + m % 32) (24 * (m / 64) + r)

/-- DBGCTL as read: STEP, SSTEP, RESUME and HALT read as zero (R276, R9). -/
def dbgctlWord (x : Tile) : Word := word (bit x.brkhalt * 2 ^ 31 + x.dbgsel * 2 ^ 5 + bit x.halted * 4)

/-- A write of DBGCTL (R276): HALT wins over RESUME; STEP and SSTEP act on a halted tile. -/
def dbgctlWrite (s : State) (t : Nat) (v : Word) : State :=
  let s := s.updTile t (fun x => { x with brkhalt := flag v 31, dbgsel := field v 5 3 })
  let s := if flag v 3 then debugStepTile s t else s
  let s := if flag v 4 then debugSstepTile s t else s
  if flag v 0 then debugHaltTile s t else if flag v 1 then debugResumeTile s t else s

/-- An 8-byte read of an MPT's configuration window; an offset that names no register reads as zero (log entry 13). -/
def configRead (s : State) (m off : Nat) : Word × State :=
  if off = 0 then ((s.mpt m).carve, s)
  else if off = 8 ∧ m % 32 = 0 then mclostGet s (m / 32)
  else if 0x1000 ≤ off ∧ off < 0x1000 + 64 * 24 then
    let t := debugTile m ((off - 0x1000) / 64)
    match (off - 0x1000) % 64 with
    | 0 => (dbgctlWord (s.tile t), s)
    | 8 => ((s.tile t).dbgreg, s)
    | 16 => ((s.tile t).dbgdata, s)
    | _ => (0, s)
  else (0, s)

/-- An 8-byte write of an MPT's configuration window. -/
def configWrite (s : State) (m off : Nat) (v : Word) : State :=
  if off = 0 then carveStore s m v
  else if 0x1000 ≤ off ∧ off < 0x1000 + 64 * 24 then
    let t := debugTile m ((off - 0x1000) / 64)
    if s.part.populated t then
      match (off - 0x1000) % 64 with
      | 0 => dbgctlWrite s t v
      | 8 => if flag v 63 then (if flag v 62 then debugWrite s t v else debugRead s t v)
             else s.updTile t (fun x => { x with dbgreg := dbgregKept v })
      | 16 => s.updTile t (fun x => { x with dbgdata := v })
      | _ => s
    else s
  else s

end Sys2Proof.Machine
end

