-- ==== Sys2Proof/Machine/Float.lean ====
section
/-! DEFINITION. Number formats and arithmetic (R233-R247, R251, R254): values of patterns, one rounding of an exact result,
flags, comparisons, and the special functions. A finite value is m·2^e with a sign; every result is computed exactly and
rounded once. -/

namespace Sys2Proof.Machine

/-- A floating-point format (R233): width, fraction bits, bias, and whether it has infinities (e4m3 has none). -/
structure Fmt where
  width : Nat
  frac : Nat
  bias : Nat
  hasInf : Bool
  deriving DecidableEq, Repr

/-- The formats of R233. -/
def fmtOf : FTy → Fmt
  | .e4m3 => ⟨8, 3, 7, false⟩
  | .e5m2 => ⟨8, 2, 15, true⟩
  | .bf16 => ⟨16, 7, 127, true⟩
  | .f16 => ⟨16, 10, 15, true⟩
  | .f32 => ⟨32, 23, 127, true⟩
  | .f64 => ⟨64, 52, 1023, true⟩

/-- f32. -/
def f32 : Fmt := fmtOf .f32

/-- f64. -/
def f64 : Fmt := fmtOf .f64

/-- The value of a pattern: NaN (signalling or not), an infinity, or (-1)^neg · m · 2^e. -/
inductive FVal where
  | nan (signalling : Bool)
  | inf (neg : Bool)
  | fin (neg : Bool) (m : Nat) (e : Int)
  deriving DecidableEq, Repr

/-- The rounding modes (R238). -/
inductive Rm where
  | rne | rtz | rup | rdn | rna
  deriving DecidableEq, Repr

/-- The rounding mode of FPCSR.RM (R238). -/
def rmOf (fpcsr : Word) : Rm :=
  match field fpcsr 0 3 with
  | 0 => .rne
  | 1 => .rtz
  | 2 => .rup
  | 3 => .rdn
  | _ => .rna

/-- Flags NV, DZ, OF, UF, NX from bit 4 down (R237, R243). -/
abbrev FFlags := BitVec 5

/-- Invalid. -/
def flNV : FFlags := 16

/-- Divide by zero. -/
def flDZ : FFlags := 8

/-- Overflow. -/
def flOF : FFlags := 4

/-- Underflow. -/
def flUF : FFlags := 2

/-- Inexact. -/
def flNX : FFlags := 1

/-- A flag that a condition raises. -/
def flIf (c : Bool) (f : FFlags) : FFlags := if c then f else 0

/-- A result pattern and the flags it raises. -/
structure FRes where
  bits : Nat
  fl : FFlags
  deriving DecidableEq, Repr

/-- The exponent field's greatest value. -/
def Fmt.emaxField (f : Fmt) : Nat := 2 ^ (f.width - 1 - f.frac) - 1

/-- The pattern's sign bit. -/
def Fmt.sign (f : Fmt) (x : Nat) : Bool := decide (x / 2 ^ (f.width - 1) % 2 = 1)

/-- The value of a pattern (R233, R234). -/
def Fmt.val (f : Fmt) (x : Nat) : FVal :=
  let neg := f.sign x
  let e := x / 2 ^ f.frac % (f.emaxField + 1)
  let m := x % 2 ^ f.frac
  if f.hasInf && e == f.emaxField then (if m = 0 then .inf neg else .nan (decide (m < 2 ^ (f.frac - 1))))
  else if !f.hasInf && e == f.emaxField && m == 2 ^ f.frac - 1 then .nan false
  else if e = 0 then .fin neg m (1 - (f.bias : Int) - f.frac)
  else .fin neg (2 ^ f.frac + m) ((e : Int) - f.bias - f.frac)

/-- A sign bit in place. -/
def Fmt.signBit (f : Fmt) (neg : Bool) : Nat := if neg then 2 ^ (f.width - 1) else 0

/-- The default NaN (R234). -/
def Fmt.defaultNan (f : Fmt) : Nat :=
  if f.hasInf then f.emaxField * 2 ^ f.frac + 2 ^ (f.frac - 1) else f.emaxField * 2 ^ f.frac + (2 ^ f.frac - 1)

/-- An infinity; in e4m3 the NaN of R240. -/
def Fmt.infinity (f : Fmt) (neg : Bool) : Nat :=
  if f.hasInf then f.signBit neg + f.emaxField * 2 ^ f.frac else f.defaultNan

/-- The largest finite value (R233). -/
def Fmt.largest (f : Fmt) (neg : Bool) : Nat :=
  f.signBit neg + (if f.hasInf then f.emaxField * 2 ^ f.frac - 1 else f.emaxField * 2 ^ f.frac + (2 ^ f.frac - 2))

/-- A zero. -/
def Fmt.zero (f : Fmt) (neg : Bool) : Nat := f.signBit neg

/-- The exponent of the smallest normal value. -/
def Fmt.emin (f : Fmt) : Int := 1 - (f.bias : Int)

/-- The largest finite magnitude as (m, e). -/
def Fmt.maxMag (f : Fmt) : Nat × Int :=
  if f.hasInf then (2 ^ (f.frac + 1) - 1, (f.bias : Int) - f.frac)
  else (2 ^ (f.frac + 1) - 2, (f.emaxField : Int) - f.bias - f.frac)

/-- Whether m·2^e (with a little more where `sticky`) is rounded up in magnitude when bits below 2^g are dropped. -/
def roundsUp (mode : Rm) (neg sticky : Bool) (q r half : Nat) : Bool :=
  let inexact := sticky || decide (r ≠ 0)
  match mode with
  | .rne => decide (half < r) || (decide (r = half) && (sticky || decide (q % 2 = 1)))
  | .rtz => false
  | .rup => inexact && !neg
  | .rdn => inexact && neg
  | .rna => decide (half ≤ r)

/-- The magnitude m·2^e, and a little more where `sticky`, rounded to a multiple of 2^g: the multiple, and whether it
differs. -/
def roundTo (mode : Rm) (neg : Bool) (m : Nat) (e : Int) (sticky : Bool) (g : Int) : Nat × Bool :=
  if g ≤ e then
    let q := m * 2 ^ (e - g).toNat
    (if roundsUp mode neg sticky q 0 1 then q + 1 else q, sticky)
  else
    let sh := (g - e).toNat
    let q := m / 2 ^ sh
    let r := m % 2 ^ sh
    (if roundsUp mode neg sticky q r (2 ^ (sh - 1)) then q + 1 else q, sticky || decide (r ≠ 0))

/-- Whether m·2^e is below m'·2^e'. -/
def magLt (m : Nat) (e : Int) (m' : Nat) (e' : Int) : Bool :=
  if e ≤ e' then decide (m < m' * 2 ^ (e' - e).toNat) else decide (m * 2 ^ (e - e').toNat < m')

/-- The pattern of the representable magnitude q·2^g. -/
def Fmt.pack (f : Fmt) (neg : Bool) (q : Nat) (g : Int) : Nat :=
  if q = 0 then f.zero neg
  else
    let top := (Nat.log2 q : Int) + g
    if top < f.emin then f.signBit neg + q * 2 ^ (g - (f.emin - f.frac)).toNat
    else
      let lo := top - f.frac
      let sig := if lo ≤ g then q * 2 ^ (g - lo).toNat else q / 2 ^ (lo - g).toNat
      f.signBit neg + (top + f.bias).toNat * 2 ^ f.frac + (sig - 2 ^ f.frac)

/-- The overflowed result (R239, R240). -/
def Fmt.overflow (f : Fmt) (mode : Rm) (sat neg : Bool) : FRes :=
  let toInf := match mode with
    | .rne => true
    | .rna => true
    | .rtz => false
    | .rup => !neg
    | .rdn => neg
  ⟨if toInf && !sat then f.infinity neg else f.largest neg, flOF ||| flNX⟩

/-- One rounding of the nonzero magnitude m·2^e, and a little more where `sticky` (R239). -/
def Fmt.round (f : Fmt) (mode : Rm) (sat neg : Bool) (m : Nat) (e : Int) (sticky : Bool) : FRes :=
  if m = 0 then ⟨f.zero neg, 0⟩
  else
    let g := (Nat.log2 m : Int) + e - f.frac
    let u := roundTo mode neg m e sticky g
    let mx := f.maxMag
    if magLt mx.1 mx.2 u.1 g then f.overflow mode sat neg
    else if magLt u.1 g 1 f.emin then
      let t := roundTo mode neg m e sticky (f.emin - f.frac)
      ⟨f.pack neg t.1 (f.emin - f.frac), flIf t.2 (flUF ||| flNX)⟩
    else ⟨f.pack neg u.1 g, flIf u.2 flNX⟩

/-- A signed dyadic number n·2^e. -/
structure Dyad where
  n : Int
  e : Int
  deriving DecidableEq, Repr

/-- The exact sum of dyadic numbers. -/
def Dyad.add (x y : Dyad) : Dyad :=
  if x.e ≤ y.e then ⟨x.n + y.n * (2 ^ (y.e - x.e).toNat : Nat), x.e⟩
  else ⟨x.n * (2 ^ (x.e - y.e).toNat : Nat) + y.n, y.e⟩

/-- The signed number of a finite value. -/
def dyad (neg : Bool) (m : Nat) (e : Int) : Dyad := ⟨if neg then -(m : Int) else m, e⟩

/-- The sign of an exact zero sum (R239): the common sign of zero addends, else + but for RDN. -/
def zeroSign (mode : Rm) (ts : List FVal) : Bool :=
  if ts.all (fun t => decide (t = .fin true 0 0) || (match t with
      | .fin n m _ => n && m == 0
      | _ => false)) then true
  else if ts.all (fun t => match t with
      | .fin n m _ => !n && m == 0
      | _ => false) then false
  else decide (mode = .rdn)

/-- The exact sum of finite values. -/
def sumFin (ts : List FVal) : Dyad :=
  ts.foldl (fun a t => match t with
    | .fin n m e => a.add (dyad n m e)
    | _ => a) ⟨0, 0⟩

/-- Whether a value is a NaN. -/
def FVal.isNan : FVal → Bool
  | .nan _ => true
  | _ => false

/-- Whether a value is a signalling NaN. -/
def FVal.isSnan : FVal → Bool
  | .nan s => s
  | _ => false

/-- Whether a value is the infinity of a sign. -/
def FVal.isInf (neg : Bool) : FVal → Bool
  | .inf n => decide (n = neg)
  | _ => false

/-- The sign of a value; a NaN counts as positive. -/
def FVal.isNeg : FVal → Bool
  | .nan _ => false
  | .inf n => n
  | .fin n _ _ => n

/-- The value with its sign inverted. -/
def FVal.neg : FVal → FVal
  | .nan s => .nan s
  | .inf n => .inf (!n)
  | .fin n m e => .fin (!n) m e

/-- One rounding of an exact sum (R239, R242, R248): infinities of both signs are invalid. -/
def Fmt.sum (f : Fmt) (mode : Rm) (ts : List FVal) : FRes :=
  let pos := ts.any (FVal.isInf false)
  let ng := ts.any (FVal.isInf true)
  if pos && ng then ⟨f.defaultNan, flNV⟩
  else if ts.any FVal.isNan then ⟨f.defaultNan, 0⟩
  else if pos then ⟨f.infinity false, 0⟩
  else if ng then ⟨f.infinity true, 0⟩
  else
    let d := sumFin ts
    if d.n = 0 then ⟨f.zero (zeroSign mode ts), 0⟩ else f.round mode false (decide (d.n < 0)) d.n.natAbs d.e false

/-- The exact product of two values, and whether it is the invalid 0 · ∞ (R242). -/
def FVal.mul (x y : FVal) : FVal × Bool :=
  match x, y with
  | .nan s, _ => (.nan s, false)
  | _, .nan s => (.nan s, false)
  | .inf a, .inf b => (.inf (a != b), false)
  | .inf a, .fin b m _ => if m = 0 then (.nan false, true) else (.inf (a != b), false)
  | .fin a m _, .inf b => if m = 0 then (.nan false, true) else (.inf (a != b), false)
  | .fin a m e, .fin b m' e' => (.fin (a != b) (m * m') (e + e'), false)

/-- NV from signalling operands (R242). -/
def snanFlag (xs : List FVal) : FFlags := flIf (xs.any FVal.isSnan) flNV

/-- x + y (R239). -/
def Fmt.add (f : Fmt) (mode : Rm) (x y : Nat) : FRes :=
  let r := f.sum mode [f.val x, f.val y]
  ⟨r.bits, r.fl ||| snanFlag [f.val x, f.val y]⟩

/-- x - y (R239). -/
def Fmt.sub (f : Fmt) (mode : Rm) (x y : Nat) : FRes :=
  let r := f.sum mode [f.val x, (f.val y).neg]
  ⟨r.bits, r.fl ||| snanFlag [f.val x, f.val y]⟩

/-- The rounding of one exact value to a format; `sat` is the saturation of R240. -/
def Fmt.ofVal (f : Fmt) (mode : Rm) (sat : Bool) (x : FVal) : FRes :=
  match x with
  | .nan _ => ⟨f.defaultNan, 0⟩
  | .inf n =>
    if sat then ⟨f.largest n, flNX⟩ else if f.hasInf then ⟨f.infinity n, 0⟩ else ⟨f.defaultNan, flNV⟩
  | .fin n m e => f.round mode sat n m e false

/-- x · y (R239). An infinite product of e4m3 operands cannot arise: the format has no infinity. -/
def Fmt.mul (f : Fmt) (mode : Rm) (x y : Nat) : FRes :=
  let p := (f.val x).mul (f.val y)
  let r := f.ofVal mode false p.1
  ⟨r.bits, r.fl ||| flIf p.2 flNV ||| snanFlag [f.val x, f.val y]⟩

/-- x · y + z, or x · y - z, rounded once (R239). -/
def Fmt.fma (f : Fmt) (mode : Rm) (minus : Bool) (x y z : Nat) : FRes :=
  let p := (f.val x).mul (f.val y)
  let c := if minus then (f.val z).neg else f.val z
  let r := f.sum mode [p.1, c]
  ⟨r.bits, r.fl ||| flIf p.2 flNV ||| snanFlag [f.val x, f.val y, f.val z]⟩

/-- The rounded quotient of nonzero magnitudes. -/
def Fmt.quot (f : Fmt) (mode : Rm) (neg : Bool) (m : Nat) (e : Int) (m' : Nat) (e' : Int) : FRes :=
  let k := f.frac + 4 + Nat.log2 m'
  let n := m * 2 ^ k
  f.round mode false neg (n / m') (e - e' - k) (decide (n % m' ≠ 0))

/-- x / y (R239, R242). -/
def Fmt.div (f : Fmt) (mode : Rm) (x y : Nat) : FRes :=
  let vx := f.val x
  let vy := f.val y
  let neg := vx.isNeg != vy.isNeg
  let r : FRes := match vx, vy with
    | .nan _, _ => ⟨f.defaultNan, 0⟩
    | _, .nan _ => ⟨f.defaultNan, 0⟩
    | .inf _, .inf _ => ⟨f.defaultNan, flNV⟩
    | .inf _, .fin _ _ _ => ⟨f.infinity neg, 0⟩
    | .fin _ _ _, .inf _ => ⟨f.zero neg, 0⟩
    | .fin _ m e, .fin _ m' e' =>
      if m' = 0 then (if m = 0 then ⟨f.defaultNan, flNV⟩ else ⟨f.infinity neg, flDZ⟩)
      else if m = 0 then ⟨f.zero neg, 0⟩
      else f.quot mode neg m e m' e'
  ⟨r.bits, r.fl ||| snanFlag [vx, vy]⟩

/-- The integer square root, bit by bit from bit `i` down. -/
def isqrtFrom (x : Nat) : Nat → Nat → Nat
  | 0, r => r
  | i + 1, r => if (r + 2 ^ i) * (r + 2 ^ i) ≤ x then isqrtFrom x i (r + 2 ^ i) else isqrtFrom x i r

/-- The integer square root. -/
def isqrt (x : Nat) : Nat := isqrtFrom x (Nat.log2 x / 2 + 1) 0

/-- The square root (R239, R242). -/
def Fmt.sqrt (f : Fmt) (mode : Rm) (x : Nat) : FRes :=
  let v := f.val x
  let r : FRes := match v with
    | .nan _ => ⟨f.defaultNan, 0⟩
    | .inf n => if n then ⟨f.defaultNan, flNV⟩ else ⟨f.infinity false, 0⟩
    | .fin n m e =>
      if m = 0 then ⟨f.zero n, 0⟩
      else if n then ⟨f.defaultNan, flNV⟩
      else
        let k := 2 * (f.frac + 4) + (e % 2).toNat
        let y := m * 2 ^ k
        let q := isqrt y
        f.round mode false false q ((e - k) / 2) (decide (q * q ≠ y))
  ⟨r.bits, r.fl ||| snanFlag [v]⟩

/-- The reciprocal (R246, R247). -/
def Fmt.rcp (f : Fmt) (mode : Rm) (x : Nat) : FRes :=
  let v := f.val x
  let r : FRes := match v with
    | .nan _ => ⟨f.defaultNan, 0⟩
    | .inf n => ⟨f.zero n, 0⟩
    | .fin n m e => if m = 0 then ⟨f.infinity n, flDZ⟩ else f.quot mode n 1 0 m e
  ⟨r.bits, r.fl ||| snanFlag [v]⟩

/-- The reciprocal square root (R246, R247). -/
def Fmt.rsq (f : Fmt) (mode : Rm) (x : Nat) : FRes :=
  let v := f.val x
  let r : FRes := match v with
    | .nan _ => ⟨f.defaultNan, 0⟩
    | .inf n => if n then ⟨f.defaultNan, flNV⟩ else ⟨f.zero false, 0⟩
    | .fin n m e =>
      if m = 0 then ⟨f.infinity n, flDZ⟩
      else if n then ⟨f.defaultNan, flNV⟩
      else
        let odd := (e % 2).toNat
        let mm := m * 2 ^ odd
        let k := f.frac + 4 + Nat.log2 mm
        let q := isqrt (2 ^ (2 * k) / mm)
        f.round mode false false q (-((e - odd) / 2) - k) (decide (q * q * mm ≠ 2 ^ (2 * k)))
  ⟨r.bits, r.fl ||| snanFlag [v]⟩

/-- Bits of the fixed-point work of VEXP2 and VLOG2. -/
def fixBits : Nat := 320

/-- ln 2 in units of 2^-320. -/
def ln2Fix : Nat :=
  1480553391661173448385607439722553250922680800745876974795605978609098082859138712941075737848984

/-- exp(t) - 1 for t in units of 2^-320, by the power series: `fuel` terms from term `i` on, the term before being `a`. -/
def expSeries (t : Nat) : Nat → Nat → Nat → Nat
  | 0, _, _ => 0
  | fuel + 1, i, a =>
    let b := a * t / 2 ^ fixBits / i
    b + expSeries t fuel (i + 1) b

/-- 2^y for 0 ≤ y < 1, both in units of 2^-320; the error is below 2^-300. -/
def exp2Fix (y : Nat) : Nat :=
  2 ^ fixBits + expSeries (y * ln2Fix / 2 ^ fixBits) 90 1 (2 ^ fixBits)

/-- atanh(t)/t series: the sum of p/(2i+1) with p the power t^(2i+1), in units of 2^-320. -/
def atanhSeries (t2 : Nat) : Nat → Nat → Nat → Nat
  | 0, _, _ => 0
  | fuel + 1, i, p => p / (2 * i + 1) + atanhSeries t2 fuel (i + 1) (p * t2 / 2 ^ fixBits)

/-- log2 of z, for 1 ≤ z < 2 given as m·2^-b, in units of 2^-320; the error is below 2^-300. -/
def log2Fix (m b : Nat) : Nat :=
  let t := (m - 2 ^ b) * 2 ^ fixBits / (m + 2 ^ b)
  2 * atanhSeries (t * t / 2 ^ fixBits) 110 0 t * 2 ^ fixBits / ln2Fix

/-- One of the two neighbours of an exact result (R246, f64): `up` takes the one of greater magnitude. -/
def neighbourMode (up neg : Bool) : Rm := if up then (if neg then .rdn else .rup) else .rtz

/-- 2^x (R246, R247): correctly rounded but in f64, where `up` is the fixed choice of a neighbour; that choice also decides overflow and
underflow (R239), whose mode the f64 form ignores. -/
def Fmt.exp2 (f : Fmt) (mode : Rm) (near : Option Bool) (x : Nat) : FRes :=
  let v := f.val x
  let md := match near with
    | some up => neighbourMode up false
    | none => mode
  let r : FRes := match v with
    | .nan _ => ⟨f.defaultNan, 0⟩
    | .inf n => if n then ⟨f.zero false, 0⟩ else ⟨f.infinity false, 0⟩
    | .fin n m e =>
      if m = 0 then f.round mode false false 1 0 false
      else if 16 < (Nat.log2 m : Int) + e then f.round md false false 1 (if n then -100000 else 100000) true
      else if 0 ≤ e ∨ m % 2 ^ (-e).toNat = 0 then
        let i : Int := if 0 ≤ e then (m : Int) * (2 ^ e.toNat : Nat) else ((m / 2 ^ (-e).toNat : Nat) : Int)
        f.round md false false 1 (if n then -i else i) false
      else if (Nat.log2 m : Int) + e < -200 then
        if n then f.round md false false (2 ^ 200 - 1) (-200) true else f.round md false false (2 ^ 200) (-200) true
      else
        let num : Int := if n then -(m : Int) else m
        let scale : Int := (2 ^ (-e).toNat : Nat)
        let i := num / scale
        let fr := ((num % scale) * ((2 ^ fixBits : Nat) : Int) / scale).toNat
        f.round md false false (exp2Fix fr / 2 ^ 60) (i - (fixBits - 60 : Nat)) true
  ⟨r.bits, r.fl ||| snanFlag [v]⟩

/-- log2 x (R246, R247): correctly rounded but in f64, where `up` is the fixed choice of a neighbour. -/
def Fmt.log2 (f : Fmt) (mode : Rm) (near : Option Bool) (x : Nat) : FRes :=
  let v := f.val x
  let r : FRes := match v with
    | .nan _ => ⟨f.defaultNan, 0⟩
    | .inf n => if n then ⟨f.defaultNan, flNV⟩ else ⟨f.infinity false, 0⟩
    | .fin n m e =>
      if m = 0 then ⟨f.infinity true, flDZ⟩
      else if n then ⟨f.defaultNan, flNV⟩
      else
        let b := Nat.log2 m
        let i : Int := (b : Int) + e
        if m = 2 ^ b then
          (if i = 0 then ⟨f.zero false, 0⟩ else f.round mode false (decide (i < 0)) i.natAbs 0 false)
        else
          let t := i * ((2 ^ fixBits : Nat) : Int) + log2Fix m b
          let ng := decide (t < 0)
          let md := match near with
            | some up => neighbourMode up ng
            | none => mode
          let q := t / ((2 ^ 60 : Nat) : Int)
          let mag := if ng then (-q - 1).toNat else q.toNat
          f.round md false ng mag (-(fixBits - 60 : Nat)) true
  ⟨r.bits, r.fl ||| snanFlag [v]⟩

/-- Conversion between floating-point formats (R239, R240). -/
def cvtFF (src dst : Fmt) (mode : Rm) (sat : Bool) (x : Nat) : FRes :=
  let v := src.val x
  let r := dst.ofVal mode sat v
  let bits := match v with
    | .fin n m _ => if m = 0 then dst.zero n else r.bits
    | _ => r.bits
  ⟨bits, r.fl ||| snanFlag [v]⟩

/-- The magnitude m·2^e rounded to an integer: the integer, and whether it differs. -/
def roundInt (mode : Rm) (neg : Bool) (m : Nat) (e : Int) : Nat × Bool := roundTo mode neg m e false 0

/-- Rounding to an integral value in the format (VRND). -/
def Fmt.rnd (f : Fmt) (mode : Rm) (x : Nat) : FRes :=
  let v := f.val x
  match v with
  | .nan s => ⟨f.defaultNan, flIf s flNV⟩
  | .inf n => ⟨f.infinity n, 0⟩
  | .fin n m e =>
    let q := roundInt mode n m e
    if q.1 = 0 then ⟨f.zero n, flIf q.2 flNX⟩ else ⟨(f.round .rtz false n q.1 0 false).bits, flIf q.2 flNX⟩

/-- Width in bits of an integer type (R232). -/
def ityWidth : ITy → Nat
  | .i8 => 8
  | .i16 => 16
  | .i32 => 32
  | .i64 => 64
  | .n8 => 8
  | .n16 => 16
  | .n32 => 32
  | .n64 => 64

/-- Whether an integer type is signed (R232). -/
def itySigned : ITy → Bool
  | .i8 => true
  | .i16 => true
  | .i32 => true
  | .i64 => true
  | _ => false

/-- The least value of an integer type. -/
def ityLeast (t : ITy) : Int := if (itySigned t) then -((2 ^ ((ityWidth t) - 1) : Nat) : Int) else 0

/-- The greatest value of an integer type. -/
def ityGreatest (t : ITy) : Int :=
  if (itySigned t) then ((2 ^ ((ityWidth t) - 1) : Nat) : Int) - 1 else ((2 ^ (ityWidth t) : Nat) : Int) - 1

/-- The value of an integer pattern. -/
def ityVal (t : ITy) (x : Nat) : Int := if (itySigned t) then sextInt x (ityWidth t) else ((x % 2 ^ (ityWidth t) : Nat) : Int)

/-- The pattern of an integer, modulo 2^w (R232). -/
def ityBits (t : ITy) (i : Int) : Nat := (i % ((2 ^ (ityWidth t) : Nat) : Int)).toNat

/-- The nearest value of the type (R241). -/
def ityClamp (t : ITy) (i : Int) : Int := if i < (ityLeast t) then (ityLeast t) else if (ityGreatest t) < i then (ityGreatest t) else i

/-- Conversion from floating point to an integer (R241). -/
def cvtFI (src : Fmt) (t : ITy) (mode : Rm) (x : Nat) : FRes :=
  match src.val x with
  | .nan _ => ⟨0, flNV⟩
  | .inf n => ⟨(ityBits t) (if n then (ityLeast t) else (ityGreatest t)), flNV⟩
  | .fin n m e =>
    let q := roundInt mode n m e
    let i : Int := if n then -(q.1 : Int) else q.1
    if (ityClamp t) i = i then ⟨(ityBits t) i, flIf q.2 flNX⟩ else ⟨(ityBits t) ((ityClamp t) i), flNV⟩

/-- Conversion from an integer to floating point (R241). -/
def cvtIF (t : ITy) (dst : Fmt) (mode : Rm) (sat : Bool) (x : Nat) : FRes :=
  let i := (ityVal t) x
  if i = 0 then ⟨dst.zero false, 0⟩ else dst.round mode sat (decide (i < 0)) i.natAbs 0 false

/-- The totalOrder key (R244). -/
def Fmt.key (f : Fmt) (x : Nat) : Nat :=
  let w := f.width
  let y := x % 2 ^ w
  if f.sign y then 2 ^ w - 1 - y else y + 2 ^ (w - 1)

/-- The order of two finite or infinite values: less, equal or greater. -/
def FVal.cmp (x y : FVal) : Ordering :=
  match x, y with
  | .inf a, .inf b => if a = b then .eq else if a then .lt else .gt
  | .inf a, _ => if a then .lt else .gt
  | _, .inf b => if b then .gt else .lt
  | .fin a m e, .fin b m' e' =>
    let d := (dyad a m e).add (dyad (!b) m' e')
    if d.n < 0 then .lt else if d.n = 0 then .eq else .gt
  | _, _ => .eq

/-- minimumNumber and maximumNumber outside DET mode (R245). -/
def Fmt.minmaxNum (f : Fmt) (isMax : Bool) (x y : Nat) : FRes :=
  let vx := f.val x
  let vy := f.val y
  let fl := snanFlag [vx, vy]
  if vx.isNan && vy.isNan then ⟨f.defaultNan, fl⟩
  else if vx.isNan then ⟨y % 2 ^ f.width, fl⟩
  else if vy.isNan then ⟨x % 2 ^ f.width, fl⟩
  else
    let xLess := match vx.cmp vy with
      | .lt => true
      | .gt => false
      | .eq => decide (f.key x ≤ f.key y)
    ⟨(if xLess != isMax then x else y) % 2 ^ f.width, fl⟩

/-- Minimum and maximum under totalOrder, in DET mode (R245): no flag. -/
def Fmt.minmaxTotal (f : Fmt) (isMax : Bool) (x y : Nat) : FRes :=
  let xLess := decide (f.key x ≤ f.key y)
  ⟨(if xLess != isMax then x else y) % 2 ^ f.width, 0⟩

/-- The min or max of R245 for the mode in force. -/
def Fmt.minmax (f : Fmt) (det isMax : Bool) (x y : Nat) : FRes :=
  if det then f.minmaxTotal isMax x y else f.minmaxNum isMax x y

/-- VFCMP (R245, R242): the relation's truth and NV. -/
def Fmt.fcmp (f : Fmt) (c : FCond) (x y : Nat) : Bool × FFlags :=
  let vx := f.val x
  let vy := f.val y
  let nan := vx.isNan || vy.isNan
  let o := vx.cmp vy
  let sn := snanFlag [vx, vy]
  let ordered := sn ||| flIf nan flNV
  match c with
  | .eq => (!nan && decide (o = .eq), sn)
  | .ne => (nan || decide (o ≠ .eq), sn)
  | .lt => (!nan && decide (o = .lt), ordered)
  | .le => (!nan && decide (o ≠ .gt), ordered)
  | .gt => (!nan && decide (o = .gt), ordered)
  | .ge => (!nan && decide (o ≠ .lt), ordered)
  | .un => (nan, sn)
  | .or => (!nan, sn)

end Sys2Proof.Machine
end

