-- ==== Sys2Proof/Machine/Perform.lean ====
section
/-! DEFINITION. What happens at an access's place of performance: atomic operations (R221, R366-R368), reduction slots (R103,
R104), watches and invalidations of the Archive (R150), full/empty words and single assignment (R187, R188), ordered atomics
(R224, R225) and arrival words (R374-R378). -/

namespace Sys2Proof.Machine

/-- The new value of an atomic operation on the low `w` bits (R366, R367); `det` selects totalOrder for the minima (R245). -/
def amoNew (op : AmoOp) (w32 det : Bool) (old y : Nat) : Nat :=
  let w := if w32 then 32 else 64
  let f := if w32 then f32 else f64
  let m := 2 ^ w
  match op with
  | .swap => y % m
  | .add => (old + y) % m
  | .and => Nat.land old (y % m)
  | .or => Nat.lor old (y % m)
  | .xor => Nat.xor old (y % m)
  | .min => if sextInt y w < sextInt old w then y % m else old
  | .max => if sextInt old w < sextInt y w then y % m else old
  | .minn => min old (y % m)
  | .maxn => max old (y % m)
  | .fadd => (f.add .rne old (y % m)).bits
  | .fmin => (f.minmax det false old (y % m)).bits
  | .fmax => (f.minmax det true old (y % m)).bits

/-- The atomic operation of an AMOORD (R290, R369). -/
def ordAmo : OrdOp → AmoOp
  | .swap => .swap
  | .add => .add
  | .and => .and
  | .or => .or
  | .xor => .xor
  | .min => .min
  | .max => .max
  | .fadd => .fadd

/-- The order in which sealed slots of a word fold (R104): tile, RID, field; an f64 field before the f32 field at its offset. -/
def slotBefore (a b : RedSlot) : Bool :=
  if a.tile ≠ b.tile then decide (a.tile < b.tile)
  else if a.rid ≠ b.rid then decide (a.rid < b.rid)
  else if a.addr ≠ b.addr then decide (a.addr < b.addr)
  else a.wide && !b.wide

/-- A slot put into its place. -/
def slotInsert (x : RedSlot) : List RedSlot → List RedSlot
  | [] => [x]
  | y :: ys => if slotBefore x y then x :: y :: ys else y :: slotInsert x ys

/-- One slot added to its field of a word (R104). -/
def slotAdd (v : Word) (r : RedSlot) : Word :=
  if r.wide then word (f64.add .rne v.toNat r.val.toNat).bits
  else
    let lo := if r.addr % 8 = 4 then 32 else 0
    setField v lo 32 (f32.add .rne (field v lo 32) (field r.val 0 32)).bits

/-- The sealed slots of a word at an MPT. -/
def sealedSlots (m : Mpt) (w : Nat) : List RedSlot := m.reds.filter (fun r => r.isSealed && decide (r.addr / 8 = w))

/-- The MPT without the sealed slots of a word. -/
def freeSealed (m : Mpt) (w : Nat) : Mpt := { m with reds := m.reds.filter (fun r => !(r.isSealed && decide (r.addr / 8 = w))) }

/-- The number of the 4096 bytes that a chunk begins (R141): argument ranges begin at multiples of 4096, and pages are larger. -/
def chunkOf (pa : Nat) : Nat := pa / 4096

/-- Whether a physical address lies in a chunk, given by its number and its length (R141). -/
def inChunk (c : Nat × Nat) (pa : Nat) : Bool := decide (c.1 = chunkOf pa) && decide (pa % 4096 < c.2)

/-- Whether an entry's FILTER matches the chunk of a physical address (R144, R150): every chunk of its key, and others by its open hash
functions (R151); one without chunks matches none. -/
def Entry.covers (e : Entry) (pa : Nat) : Bool :=
  e.chunks.any (fun c => inChunk c pa) || (!e.chunks.isEmpty && Config.bloomMatch (e.chunks.map (fun c => c.1)) (chunkOf pa))

/-- The entries of a bank that remain after invalidate(chunk) (R150). -/
def Mpt.invalidate (m : Mpt) (pa : Nat) : Mpt := { m with entries := m.entries.filter (fun e => !e.covers pa) }

/-- The chunks that the watch filters count (R150): those of every entry and of every active lookup. -/
def State.countedChunks (s : State) : List (Nat × Nat) :=
  s.mpts.flatMap (fun m => m.2.entries.flatMap (fun e => e.chunks)) ++ s.nodes.flatMap (fun n => match n.look with
    | some l => l.chunks
    | none => [])

/-- Whether the watch filter matches the chunk of a physical address (R150, R151): every counted chunk, and others by its open hash
functions. -/
def State.chunkHeld (s : State) (pa : Nat) : Bool :=
  s.countedChunks.any (fun c => inChunk c pa)
    || (!s.countedChunks.isEmpty && Config.watchMatch (s.countedChunks.map (fun c => c.1)) (chunkOf pa))

/-- The cached digests of the chunks that hold a physical address dropped (R142, R150). -/
def State.dropDigests (s : State) (pa : Nat) : State :=
  if s.mpts.any (fun m => m.2.digests.any (fun d => inChunk (d.1, d.2.1) pa)) then
    { s with mpts := s.mpts.map (fun m => (m.1, { m.2 with digests := m.2.digests.filter (fun d => !inChunk (d.1, d.2.1) pa) })) }
  else s

/-- Whether a writer is one of the node's own threads or engines (R145). -/
def ownWriter (s : State) (n : NodeRec) (who : Option Who) : Bool :=
  match who with
  | some w => decide ((s.tile w.tile).node = some n.addr)
  | none => false

/-- Whether a lookup watches a write to a physical address (R145). -/
def Lookup.watches (s : State) (n : NodeRec) (l : Lookup) (pa : Nat) (who : Option Who) : Bool :=
  l.chunks.any (fun c => inChunk c pa)
    || ((decide (l.st = .run) || decide (l.st = .insert)) && l.outs.any (fun r => decide (r.1 ≤ pa) && decide (pa < r.1 + r.2)) && !ownWriter s n who)

/-- The signal of a watched write to every lookup that watches it (R150). -/
def State.signalLookups (s : State) (pa : Nat) (who : Option Who) : State :=
  { s with nodes := s.nodes.map (fun n => match n.look with
      | some l => if l.watches s n pa who then { n with look := some { l with hit := true } } else n
      | none => n) }

/-- The signal of a watched write to every ADIG that hashes the chunk (R400). -/
def State.signalDigs (s : State) (pa : Nat) : State :=
  let hit (x : Thread) : Thread := match x.dig with
    | some d => if d.chunks.any (fun c => inChunk c pa) then { x with dig := some { d with hit := true } } else x
    | none => x
  { s with threads := s.threads.map (fun e => (e.1, e.2.map hit)) }

/-- A write performed at a home MPT as the Archive's watches see it (R150): digests are dropped, lookups are signalled, and invalidate
goes to every bank when the watch filter matches the chunk. Of a thread's write the acknowledgement waits for the banks; of another agent's write
the step itself covers the wait. -/
def State.watched (s : State) (pa : Nat) (who : Option Who) : State :=
  let s := s.dropDigests pa
  let s := if s.nodes.any (fun n => n.look.isSome) then s.signalLookups pa who else s
  let s := if s.threads.any (fun e => e.2.any (fun x => x.dig.isSome)) then s.signalDigs pa else s
  if s.chunkHeld pa then
    match who with
    | some w =>
      let id := s.nextId
      let s := { s with nextId := id + 1, unacked := s.unacked ++ [⟨id, some w, s.part.mpts⟩] }
      (List.range s.part.mpts).foldl
        (fun s b => s.send .req (.mpt (homeMpt s pa)) (.mpt b) (.invalidate pa id)) s
    | none => { s with mpts := s.mpts.map (fun m => (m.1, m.2.invalidate pa)) }
  else s

/-- Every sealed slot of the word at a physical address folded into it (R104), unless the word is poisoned: a write, which the
Archive's watches see (R150, R212). -/
def State.fold (s : State) (pa k : Nat) : State :=
  let m := homeMpt s pa
  match sealedSlots (s.mpt m) (pa / 8) with
  | [] => s
  | r :: rs =>
    if s.isPoisoned k 1 then s
    else
      let v := (rs.foldr slotInsert [r]).foldl slotAdd (word (s.getNat (k / 8 * 8) 8))
      ((s.updMpt m (fun x => freeSealed x (pa / 8))).putNat (k / 8 * 8) 8 v.toNat).watched pa none

/-- The sealed slots of one RID of a word folded into it at once (R82, R104): those of a poisoned word go without being added. -/
def State.foldOf (s : State) (rid pa k : Nat) : State :=
  let m := homeMpt s pa
  let mine (r : RedSlot) : Bool := r.isSealed && decide (r.addr / 8 = pa / 8) && decide (r.rid = rid)
  match (s.mpt m).reds.filter mine with
  | [] => s
  | r :: rs =>
    let t := s.updMpt m (fun x => { x with reds := x.reds.filter (fun r => !mine r) })
    if s.isPoisoned k 1 then t
    else (t.putNat (k / 8 * 8) 8 ((rs.foldr slotInsert [r]).foldl slotAdd (word (s.getNat (k / 8 * 8) 8))).toNat).watched pa none

/-- The word at a physical address folded, where it holds memory (R104). -/
def State.foldPa (s : State) (pa : Nat) : State :=
  match paKey s pa with
  | some k => s.fold pa k
  | none => s

/-- Whether an MPT discards a write (R82): it has drained the RID, and the tag's generation is not the live one. A later placement of the RID
makes its generation the live one (log entry 15). -/
def staleTag (m : Mpt) (w : Who) : Bool :=
  match sparseGet none m.live w.rid with
  | some g => decide (g ≠ w.gen)
  | none => false

/-- The bytes of a word chosen by a mask, from byte `i` on, taken from new bytes, the others from old ones. -/
def maskBytes (mask : BitVec 8) : List Byte → List Byte → Nat → List Byte
  | o :: os, n :: ns, i => (if mask.getLsbD i then n else o) :: maskBytes mask os ns (i + 1)
  | _, _, _ => []

/-- The word at a key with the bytes of a mask replaced (R361). -/
def maskedWord (s : State) (k : Nat) (mask : BitVec 8) (v : Word) : Nat :=
  leNat (maskBytes mask (s.getBytes k 8) (leBytes 8 v.toNat) 0)

/-- The masked bytes of an aligned word written: only a write of the whole word clears its poison (R35). -/
def State.putMasked (s : State) (k : Nat) (mask : BitVec 8) (v : Word) : State :=
  if mask = BitVec.allOnes 8 then s.putNat k 8 v.toNat
  else { s.putNat k 8 (maskedWord s k mask v) with poison := s.poison, latent := s.latent, hbmBad := s.hbmBad }

/-- The bytes of a word written at a home MPT, after its fold and with the Archive's watches (R104, R150). -/
def State.writePa (s : State) (pa k n v : Nat) (who : Option Who) : State :=
  let full := decide (n = 8)
  let s := s.fold pa k
  let s := if full then s.updMpt (homeMpt s pa) (fun m => if (sealedSlots m (pa / 8)).isEmpty then m else freeSealed m (pa / 8)) else s
  (s.putNat k n v).watched pa who

/-- A RED of a DET region's floating-point add (R103): its slot, a new one where the tile has no unsealed slot of the field;
none where all 8192 slots are taken. -/
def redSlot (m : Mpt) (w : Who) (pa : Nat) (w32 : Bool) (y : Word) : Option Mpt :=
  let f := if w32 then f32 else f64
  let mine (r : RedSlot) : Bool :=
    decide (r.tile = w.tile) && decide (r.rid = w.rid) && decide (r.addr = pa) && decide (r.wide = !w32) && !r.isSealed
  let addTo (r : RedSlot) : RedSlot := { r with val := word (f.add .rne r.val.toNat (y.toNat % 2 ^ f.width)).bits }
  if m.reds.any mine then some { m with reds := m.reds.map (fun r => if mine r then addTo r else r) }
  else if m.reds.length < 8192 then some { m with reds := m.reds ++ [addTo ⟨w.tile, w.rid, pa, !w32, 0, false⟩] }
  else none

/-- A marker's effect at an MPT (R104): the tile's slots under its RID are sealed. -/
def sealSlots (m : Mpt) (tile rid : Nat) : Mpt :=
  { m with reds := m.reds.map (fun r => if r.tile = tile ∧ r.rid = rid then { r with isSealed := true } else r) }

/-- The state, count, generation and target of an arrival word (R374). -/
structure ArrivalWord where
  st : Nat
  count : Nat
  gen : Nat
  target : Nat
  deriving DecidableEq, Repr

/-- An arrival word from its two words (R374): STATE 3 acts as OVERRUN. -/
def arrivalOf (w0 w1 : Word) : ArrivalWord :=
  ⟨if field w0 62 2 = 3 then 2 else field w0 62 2, field w0 0 48, field w1 48 16, field w1 0 48⟩

/-- The words of an arrival word; the reserved bits of the first keep what they held (R374). -/
def arrivalWords (a : ArrivalWord) (old0 : Word) : Word × Word :=
  (word (a.st * 2 ^ 62 + field old0 48 14 * 2 ^ 48 + a.count), word (a.gen % 65536 * 2 ^ 48 + a.target))

/-- The event "count c" (R375). -/
def arrivalCounted (a : ArrivalWord) (c : Nat) : ArrivalWord :=
  let n := min (2 ^ 48 - 1) (a.count + c)
  match a.st with
  | 0 => { a with count := n }
  | 1 =>
    if a.count + c < a.target then { a with count := n }
    else if a.count + c = a.target then { a with count := 0, gen := (a.gen + 1) % 65536, st := 0 }
    else { a with count := n, st := 2 }
  | _ => { a with count := n }

/-- The event AEXP t (R375): none where it is refused. -/
def arrivalExpected (a : ArrivalWord) (t : Nat) : Option ArrivalWord :=
  if a.st ≠ 0 then none
  else if a.count < t then some { a with target := t, st := 1 }
  else if a.count = t then some { a with target := t, count := 0, gen := (a.gen + 1) % 65536 }
  else some { a with target := t, st := 2 }

/-- Whether an address value is a pool handle (R378). -/
def isHandle (v : Word) : Bool := decide (field v 52 12 = 0x800)

/-- The pool word that a physical address names: MPT and key (R378, R201). -/
def poolAt (s : State) (pa : Nat) : Option (Nat × Nat) :=
  match paKind s pa with
  | .pool m o => if o % 16 = 0 then some (m, o / 16) else none
  | _ => none

/-- A pool word of an MPT. -/
def poolGet (m : Mpt) (i : Nat) : PoolWord := sparseGet ⟨false, 0, 0⟩ m.pool i

/-- The MPT with a pool word changed. -/
def poolSet (m : Mpt) (i : Nat) (p : PoolWord) : Mpt := { m with pool := sparseSet ⟨false, 0, 0⟩ m.pool i p }

/-- Whether a handle's word is allocated (R378). -/
def poolAllocated (s : State) (pa : Nat) : Bool :=
  match poolAt s pa with
  | some p => (poolGet (s.mpt p.1) p.2).alloc
  | none => false

/-- The poison of an arrival word found (R270): one machine check where it is the first to find it. -/
def detectArrival (pa : Nat) (s : State) : State :=
  match paKey s pa with
  | some k => s.detect k 16
  | none => s

/-- A use of a pool word counted up or down (R378); global words count no uses. -/
def poolUse (s : State) (pa : Nat) (up : Bool) : State :=
  match poolAt s pa with
  | some p => s.updMpt p.1 (fun m =>
      let w := poolGet m p.2
      poolSet m p.2 { w with uses := if up then w.uses + 1 else w.uses - 1 })
  | none => s

/-- The arrival word at a physical address, and whether either of its words is poisoned (R374, R375). -/
def arrivalAt (s : State) (pa : Nat) : ArrivalWord × Bool :=
  (arrivalOf (s.paWord pa) (s.paWord (pa + 8)), s.paPoisoned pa || s.paPoisoned (pa + 8))

/-- Whether a word's generation has reached g (R377). -/
def reached (gen g : Nat) : Bool := decide ((gen + 65536 - g) % 65536 < 32768)

/-- Every thread that awaits a generation still to come of an arrival word which enters OVERRUN is marked (R375, R377). -/
def overrunWaiters (s : State) (pa : Nat) (gen : Nat) : State :=
  { s with threads := s.threads.map (fun e => (e.1, e.2.map (fun x =>
      match x.pend with
      | some p =>
        (match p.again with
        | some (a, .load g) =>
          if x.wait = .await ∧ a = pa ∧ !reached gen g then { x with pend := some { p with bad := some (0, .overrun (word gen)) } } else x
        | _ => x)
      | none => x))) }

/-- The arrival word at a physical address replaced, as one event (R375): waiters trap where it enters OVERRUN. -/
def arrivalPut (s : State) (pa : Nat) (a : ArrivalWord) (who : Option Who) : State :=
  match paKey s pa with
  | some k =>
    let w := arrivalWords a (s.paWord pa)
    let s' := (s.writePa pa k 8 w.1.toNat who).writePa (pa + 8) (k + 8) 8 w.2.toNat who
    if a.st = 2 ∧ (arrivalAt s pa).1.st ≠ 2 then overrunWaiters s' pa a.gen else s'
  | none => s

/-- The two words of an arrival word after the folds that a read makes (R104). -/
def arrivalFold (s : State) (pa : Nat) : State :=
  match paKey s pa with
  | some k => (s.fold pa k).fold (pa + 8) (k + 8)
  | none => s

/-- An access to a register of a configuration window (R197, R211), as to a word of memory: what it reads and what it writes. -/
def configOp (s : State) (m off : Nat) (op : MemOp) : Res × State :=
  let o := off / 8 * 8
  let b := 8 * (off % 8)
  let r := configRead s m o
  let put (n v : Nat) (s : State) : State := configWrite s m o (setField r.1 b (8 * n) (v % 2 ^ (8 * n)))
  let width (w32 : Bool) : Nat := if w32 then 4 else 8
  let old (n : Nat) : Nat := bitsAt r.1.toNat b (8 * n)
  match op with
  | .load n => (.ok (word (old n)), r.2)
  | .store n v => (.ok 0, put n v.toNat s)
  | .storeM mask v => (.ok 0, configWrite s m o (word (leNat (maskBytes mask (leBytes 8 r.1.toNat) (leBytes 8 v.toNat) 0))))
  | .amo a w32 y det => (.ok (word (old (width w32))), put (width w32) (amoNew a w32 det (old (width w32)) y.toNat) r.2)
  | .red a w32 y det => (.ok 0, put (width w32) (amoNew a w32 det (old (width w32)) y.toNat) r.2)
  | .cas w32 x y =>
    (.ok (word (old (width w32))), if old (width w32) = x.toNat % 2 ^ (8 * width w32) then put (width w32) y.toNat r.2 else r.2)
  | .prefetch => (.ok 0, s)
  | .flush => (.ok 0, s)
  | _ => (.access, s)

/-- One access to at most one word at a physical address, at its home MPT (R211): loads, stores, atomics, REDs and AEXP. A
write that a drain has passed is discarded. -/
def State.performPa (s : State) (who : Who) (pa : Nat) (op : MemOp) : Res × State :=
  let m := homeMpt s pa
  match paKey s pa with
  | none =>
    match paKind s pa with
    | .config m off => configOp s m off op
    | _ => (.access, s)
  | some k =>
    if op.writes && staleTag (s.mpt m) who then (.ok 0, s)
    else
      let bad (s : State) : Bool := s.isPoisoned k 1
      let src := poisonSource s pa
      match op with
      | .load n =>
        let s := s.fold pa k
        if bad s then (.poison src, s.detect k 8) else (.ok (word (s.getNat k n)), s)
      | .store n v => (.ok 0, s.writePa pa k n (v.toNat % 2 ^ (8 * n)) (some who))
      | .storeM mask v =>
        if mask = BitVec.allOnes 8 then (.ok 0, s.writePa pa k 8 v.toNat (some who))
        else (.ok 0, ((s.fold pa k).putMasked k mask v).watched pa (some who))
      | .amo op w32 y det =>
        let n := if w32 then 4 else 8
        let s := s.fold pa k
        if bad s then (.poison src, s.detect k 8)
        else
          let old := s.getNat k n
          (.ok (word old), s.writePa pa k n (amoNew op w32 det old y.toNat) (some who))
      | .cas w32 x y =>
        let n := if w32 then 4 else 8
        let s := s.fold pa k
        if bad s then (.poison src, s.detect k 8)
        else
          let old := s.getNat k n
          if old = x.toNat % 2 ^ (8 * n) then (.ok (word old), s.writePa pa k n (y.toNat % 2 ^ (8 * n)) (some who))
          else (.ok (word old), s)
      | .red op w32 y det =>
        let n := if w32 then 4 else 8
        if det && decide (op = .fadd) then
          match redSlot (s.mpt m) who pa w32 y with
          | some m' => (.ok 0, s.setMpt m m')
          | none => (.access, s)
        else
          let s := s.fold pa k
          if bad s then (.ok 0, s.detect k 8)
          else (.ok 0, s.writePa pa k n (amoNew op w32 det (s.getNat k n) y.toNat) (some who))
      | .aexp t =>
        let s := arrivalFold s pa
        let a := arrivalAt s pa
        if (poolAt s pa).isSome && !poolAllocated s pa then (.access, s)
        else if a.2 then (.poison src, s.detect k 16)
        else match arrivalExpected a.1 t with
          | some a' => (.ok 0, arrivalPut s pa a' (some who))
          | none => (.access, s)
      | .prefetch => (.ok 0, s)
      | .flush => (.ok 0, s)
      | _ => (.access, s)

/-- Whether a RED in a DET region finds no free slot and waits for a fold (R104). -/
def redBlocked (s : State) (who : Who) (pa : Nat) (op : MemOp) : Bool :=
  match op with
  | .red o w32 y true =>
    decide (o = .fadd) && !staleTag (s.mpt (homeMpt s pa)) who && (redSlot (s.mpt (homeMpt s pa)) who pa w32 y).isNone
  | _ => false

/-- The words of tile SRAM that are full and may not be written again (R187). -/
def saFull (s : State) (t off : Nat) : Bool := bankSA (s.tile t) (off / 0x10000) && s.isFull t off

/-- A word of tile SRAM marked full by a store into an SA bank (R187). -/
def saFill (s : State) (t off : Nat) : State := if bankSA (s.tile t) (off / 0x10000) then s.setFull t off true else s

/-- A reply put into the pending instruction of a thread: its index and value. -/
def Pend.take (p : Pend) (idx : Nat) (r : Res) : Pend :=
  match r with
  | .ok v => { p with left := p.left - 1, got := p.got ++ [(idx, v)] }
  | r =>
    { p with left := p.left - 1,
             bad := match p.bad with
               | some b => if idx < b.1 then some (idx, r) else some b
               | none => some (idx, r) }

/-- A reply to a thread on its own tile (R188). -/
def State.replyHere (s : State) (w : Who) (tok idx : Nat) (r : Res) : State :=
  s.updThread w.tile w.slot (fun x => match x.pend with
    | some p => if x.uid = w.uid ∧ p.tok = tok then { x with pend := some (p.take idx r) } else x
    | none => x)

/-- A reply: at once to a thread of the bank's tile, else in class RSP (R196). -/
def State.reply (s : State) (src : Node) (w : Who) (tok idx : Nat) (r : Res) : State :=
  if src = .tile w.tile then s.replyHere w tok idx r
  else s.send .rsp src (.tile w.tile) (.reply w tok idx r)

/-- The answer of a place of performance to a write (R150): it leaves once the writes made since number `n` are acknowledged. -/
def State.replyAfter (s : State) (n : Nat) (src : Node) (w : Who) (tok idx : Nat) (r : Res) : State :=
  if src = .tile w.tile then s.replyHere w tok idx r
  else s.sendAfter n .rsp src (.tile w.tile) (.reply w tok idx r)

/-- A word emptied by an LDWE that reached it in a cycle (R188). -/
def State.emptyWord (s : State) (t off cycle : Nat) : State :=
  (s.setFull t off false).updTile t (fun x =>
    { x with emptied := (off / 8, cycle) :: x.emptied.filter (fun e => decide (e.2 = s.cycle)) })

/-- Whether an LDWE that reached a word in this cycle has emptied it: a store that reaches it would have come first (R188), and so it
reaches it in the next cycle. -/
def justEmptied (s : State) (t off : Nat) : Bool := (s.tile t).emptied.any (fun e => decide (e = (off / 8, s.cycle)))

/-- The requests of a full word served in order until one empties it (R188). -/
def serveList (t : Nat) : List FeWait → State → List FeWait → List FeWait × State
  | [], s, kept => (kept, s)
  | q :: qs, s, kept =>
    if s.isFull t q.off then
      let k := sramKey t q.off
      let r : Res := if s.isPoisoned k 8 then .poison 1 else .ok (word (s.getNat k 8))
      let s := if s.isPoisoned k 8 then s.detect k 8 else if q.empties then s.emptyWord t q.off q.cycle else s
      serveList t qs (s.reply (.tile t) q.who q.tok 0 r) kept
    else serveList t qs s (kept ++ [q])

/-- A word just filled: its waiting requests are served (R188). -/
def State.serveFull (s : State) (t off : Nat) : State :=
  let mine := (s.tile t).fewait.filter (fun q => decide (q.off / 8 = off / 8))
  if mine.isEmpty then s
  else
    let r := serveList t mine s []
    r.2.updTile t (fun x => { x with fewait := x.fewait.filter (fun q => decide (q.off / 8 ≠ off / 8)) ++ r.1 })

/-- Whether a waiting request comes before another of the same cycle (R188): local before remote, then slot, then tile. -/
def feBefore (t : Nat) (a b : FeWait) : Bool :=
  if a.cycle ≠ b.cycle then decide (a.cycle < b.cycle)
  else
    let ra := bit (decide (a.who.tile ≠ t))
    let rb := bit (decide (b.who.tile ≠ t))
    if ra ≠ rb then decide (ra < rb)
    else if a.who.slot ≠ b.who.slot then decide (a.who.slot < b.who.slot) else decide (a.who.tile < b.who.tile)

/-- A request put into the waiting list of its bank. -/
def feInsert (t : Nat) (x : FeWait) : List FeWait → List FeWait
  | [] => [x]
  | y :: ys => if feBefore t x y then x :: y :: ys else y :: feInsert t x ys

/-- A store to tile SRAM (R187): none where it would write a full SA word. -/
def sramStore (s : State) (t off n v : Nat) : Option State :=
  if saFull s t off then none
  else some ((saFill (s.putNat (sramKey t off) n v) t off).serveFull t off)

/-- What an access to tile SRAM answers: a result at once, or nothing because it waits (R188). -/
def State.performSram (s : State) (who : Who) (tok : Nat) (t off : Nat) (op : MemOp) : Option Res × State :=
  let k := sramKey t off
  let poisoned := s.isPoisoned k 1
  if !bankOpen (s.tile t) (off / 0x10000) then (some .access, s)
  else match op with
    | .load n => if poisoned then (some (.poison 1), s.detect k 8) else (some (.ok (word (s.getNat k n))), s)
    | .store n v =>
      match sramStore s t off n v.toNat with
      | some s' => (some (.ok 0), s')
      | none => (some .rewrite, s)
    | .storeM mask v =>
      if saFull s t off then (some .rewrite, s)
      else (some (.ok 0), (saFill (s.putMasked k mask v) t off).serveFull t off)
    | .amo op w32 y det =>
      let n := if w32 then 4 else 8
      if saFull s t off then (some .rewrite, s)
      else if poisoned then (some (.poison 1), s.detect k 8)
      else
        let old := s.getNat k n
        match sramStore s t off n (amoNew op w32 det old y.toNat) with
        | some s' => (some (.ok (word old)), s')
        | none => (some .rewrite, s)
    | .cas w32 x y =>
      let n := if w32 then 4 else 8
      if poisoned then (some (.poison 1), s.detect k 8)
      else
        let old := s.getNat k n
        if old = x.toNat % 2 ^ (8 * n) then
          match sramStore s t off n (y.toNat % 2 ^ (8 * n)) with
          | some s' => (some (.ok (word old)), s')
          | none => (some .rewrite, s)
        else (some (.ok (word old)), s)
    | .ldw =>
      if s.isFull t off then (if poisoned then (some (.poison 1), s.detect k 8) else (some (.ok (word (s.getNat k 8))), s))
      else (none, s.updTile t (fun x => { x with fewait := feInsert t ⟨who, tok, off, false, s.cycle⟩ x.fewait }))
    | .ldwe =>
      if bankSA (s.tile t) (off / 0x10000) then (some .access, s)
      else if s.isFull t off then
        if poisoned then (some (.poison 1), s.detect k 8) else (some (.ok (word (s.getNat k 8))), s.emptyWord t off s.cycle)
      else (none, s.updTile t (fun x => { x with fewait := feInsert t ⟨who, tok, off, true, s.cycle⟩ x.fewait }))
    | .stf v =>
      if saFull s t off then (some .rewrite, s)
      else (some (.ok 0), ((s.putNat k 8 v.toNat).setFull t off true).serveFull t off)
    | .feset b =>
      let s := s.setFull t off b
      (some (.ok 0), if b then s.serveFull t off else s)
    | .fetest => (some (.ok (boolWord (s.isFull t off))), s)
    | _ => (some .access, s)

/-- An engine's write of one word of tile SRAM (R187): a full SA word is not written, another is written and full. -/
def engineSram (s : State) (t off : Nat) (v : Word) (poisoned : Bool) : Bool × State :=
  if saFull s t off then (false, s)
  else
    let s := (s.putNat (sramKey t off) 8 v.toNat)
    let s := if poisoned then s.poisonWord (sramKey t off) else s
    (true, (s.setFull t off true).serveFull t off)

/-- NEXT of an ordered cell (R224); that of a register pair of a configuration window is the second register (R197). -/
def cellNext (s : State) (cell : Nat) : Word :=
  match paKind s (cell + 8) with
  | .config m off => (configRead s m off).1
  | _ => s.paWord (cell + 8)

/-- An ordered atomic on a pair of registers of a configuration window (R197, R224). -/
def ordConfig (s : State) (q : OrdReq) (m off : Nat) : State :=
  let a := configOp s m off (.amo (ordAmo q.op) false q.y q.det)
  let b := configOp a.2 m (off + 8) (.amo .add false 1 false)
  b.2.reply (.mpt m) q.who q.tok 0 a.1

/-- An ordered atomic performed in turn (R224): word 0 takes the operation, NEXT advances. -/
def ordPerform (s : State) (q : OrdReq) : State :=
  match paKey s q.cell with
  | none =>
    match paKind s q.cell with
    | .config m off => ordConfig s q m off
    | _ => s.reply (.mpt (homeMpt s q.cell)) q.who q.tok 0 .access
  | some k =>
    let n := s.nextId
    let s := arrivalFold s q.cell
    let src : Node := .mpt (homeMpt s q.cell)
    if s.isPoisoned k 16 then (s.detect k 16).reply src q.who q.tok 0 (.poison (poisonSource s q.cell))
    else
      let old := s.getNat k 8
      let nxt := (s.getNat (k + 8) 8 + 1) % 2 ^ 64
      let s := s.writePa q.cell k 8 (amoNew (ordAmo q.op) false q.det old q.y.toNat) (some q.who)
      let t := s.writePa (q.cell + 8) (k + 8) 8 nxt (some q.who)
      t.replyAfter n src q.who q.tok 0 (.ok (word old))

/-- The buffered requests of a cell that are in turn performed, at most `fuel` of them (R224); `rejudge` also answers those that have become
STALE. -/
def ordDrain (rejudge : Bool) (cell : Nat) : Nat → State → State
  | 0, s => s
  | fuel + 1, s =>
    let s := arrivalFold s cell
    let m := homeMpt s cell
    let nxt := cellNext s cell
    let gone (q : OrdReq) : Bool :=
      decide (q.cell = cell) && (decide (q.n = nxt) || (rejudge && decide (65535 < (q.n - nxt).toNat)))
    match (s.mpt m).ord.find? gone with
    | none => s
    | some q =>
      let s := s.updMpt m (fun x => { x with ord := x.ord.erase q })
      ordDrain rejudge cell fuel
        (if q.n = nxt then ordPerform s q else s.reply (.mpt m) q.who q.tok 0 (.stale nxt))

/-- An AMOORD at its home MPT (R224, R225): performed, buffered, refused where 63 requests wait, or STALE. NEXT is read after its
fold (R104). -/
def ordArrive (s : State) (q : OrdReq) : State :=
  let m := homeMpt s q.cell
  if staleTag (s.mpt m) q.who then s
  else
    let s := arrivalFold s q.cell
    let d := (q.n - cellNext s q.cell).toNat
    if d = 0 then ordDrain false q.cell 64 (ordPerform s q)
    else if d ≤ 65535 then
      if (s.mpt m).ord.length < 63 then s.updMpt m (fun x => { x with ord := x.ord ++ [q] })
      else s.send .rsp (.mpt m) (.tile q.who.tile) (.refusal q.who q.tok 0)
    else s.reply (.mpt m) q.who q.tok 0 (.stale (cellNext s q.cell))

/-- The buffered requests judged again after a write to the second word of a pair (R224). -/
def ordRejudge (s : State) (pa : Nat) : State :=
  if pa % 16 / 8 = 1 ∧ (s.mpt (homeMpt s pa)).ord.any (fun q => decide (q.cell = pa / 16 * 16)) then
    ordDrain true (pa / 16 * 16) 128 s
  else s

/-- The buffered requests judged again after an operation at an address (R224): an arrival word's second word is the one after. -/
def ordAfter (s : State) (pa : Nat) (op : MemOp) : State :=
  match op with
  | .aexp _ => ordRejudge s (pa + 8)
  | _ => if op.writes then ordRejudge s pa else s

end Sys2Proof.Machine
end

