-- ==== Sys2Proof/Machine/Translate.lean ====
section
/-! DEFINITION. Virtual addresses (R180-R183), purity checks (R148), page tables and the TLB (R202-R206), and the fetch of
instruction words (R279, R299). -/

namespace Sys2Proof.Machine

/-- Where the bad data of an ECC trap stands (R33): its error is reported once (R270). -/
inductive Mark where
  | none
  | word (key : Nat)
  | port (p : Plane) (d : Dir)
  | reg (key : Nat)
  | acc (m : Nat)
  deriving DecidableEq, Repr

/-- What a trap reports (R263). `next` says that TRAPPC is the instruction after (R263: SOFTWARE and BREAK), and `walk` that the translation of an
address met it (R204, R205), which gives it PAGE's place in the order of causes. -/
structure TrapInfo where
  cause : Cause
  val : Word
  val2 : Word
  next : Bool
  unstated : Bool
  mark : Mark
  walk : Bool
  deriving DecidableEq, Repr

/-- A trap at the instruction itself. -/
def trapOf (c : Cause) (v v2 : Word) : TrapInfo := ⟨c, v, v2, false, false, .none, false⟩

/-- An ACCESS trap of an instruction that names no address: R263 gives its TRAPVAL as an address, so that it is a free value
(log entry 24). -/
def accessNoAddr : TrapInfo := ⟨.access, 0, 0, false, true, .none, false⟩

/-- The ECC trap of a poisoned word of memory (R263). -/
def eccWord (va : Word) (src key : Nat) : TrapInfo := { trapOf .ecc va (word src) with mark := .word key }

/-- A trap that the translation of an address meets (R204, R205). -/
def onWalk (c : TrapInfo) : TrapInfo := { c with walk := true }

/-- What an access does, for the checks of R148 and R204. An AWAIT reads its word (R377), and is an arrival-word instruction. -/
inductive AccKind where
  | read | write | atomic | fetch | await
  deriving DecidableEq, Repr

/-- Whether the kind needs write permission. -/
def AccKind.isWrite : AccKind → Bool
  | .write => true
  | .atomic => true
  | _ => false

/-- Where a virtual address lies (R180, R182, R183): global memory, or an offset of a tile's slot, through the alias or not. -/
inductive Place where
  | glob
  | sram (tile off : Nat) (viaAlias : Bool)
  | nowhere
  deriving DecidableEq, Repr

/-- The place of a virtual address for a thread on a tile (R180-R183). -/
def placeOf (t : Nat) (va : Word) : Place :=
  let a := va.toNat
  if a < 0x7F0000000000 then .glob
  else if a < 0x7F00C0000000 then .sram ((a - 0x7F0000000000) / 0x100000) (a % 0x100000) false
  else if 0x7F1000000000 ≤ a ∧ a < 0x7F1000100000 then .sram t (a % 0x100000) true
  else if 0xFFFF800000000000 ≤ a then .glob
  else .nowhere

/-- Whether a program may reach an offset of a tile's slot (R182): the tile is the thread's own, or one of its region; the bank
is ADDR or SA and not the spill bank. -/
def sramOpen (s : State) (cur t off : Nat) : Bool :=
  decide (off < 0xC0000) && s.part.populated t && (decide (t = cur) || sameRegion s cur t) && bankOpen (s.tile t) (off / 0x10000)

/-- The ranges a PURE run may read and write (R148): none where the thread is not in a checked run. -/
structure Purity where
  args : List (Word × Nat)
  outs : List (Word × Nat)
  deriving DecidableEq, Repr

/-- KIND of a node's block (R54). -/
def NodeRec.kind (n : NodeRec) : Nat := field (nth 0 n.blk 0) 44 4

/-- The descriptors of a descriptor table (R141): `n` of them from descriptor `i` on. -/
def descriptors (d : List Word) (i : Nat) : Nat → List (Word × Nat)
  | 0 => []
  | n + 1 => (nth 0 d (2 + 2 * i), (nth 0 d (3 + 2 * i)).toNat) :: descriptors d (i + 1) n

/-- The argument ranges of a PURE node. -/
def NodeRec.args (n : NodeRec) : List (Word × Nat) := descriptors n.desc 0 (field (nth 0 n.desc 0) 0 8)

/-- The output ranges of a PURE node. -/
def NodeRec.outs (n : NodeRec) : List (Word × Nat) :=
  descriptors n.desc (field (nth 0 n.desc 0) 0 8) (field (nth 0 n.desc 0) 8 8)

/-- The node record at an address. -/
def State.node (s : State) (a : Nat) : Option NodeRec := s.nodes.find? (fun n => decide (n.addr = a))

/-- The purity checks in force for a thread (R148, R149): its node is PURE, and the run is not impure. -/
def purityOf (s : State) (x : Thread) : Option Purity :=
  match x.node with
  | some a =>
    match s.node a with
    | some n => if n.kind = 1 && !n.impure then some ⟨n.args, n.outs⟩ else none
    | none => none
  | none => none

/-- Whether `n` bytes at an address lie in one of the ranges. -/
def inRanges (rs : List (Word × Nat)) (va : Word) (n : Nat) : Bool :=
  rs.any (fun r => decide (r.1.toNat ≤ va.toNat) && decide (va.toNat + n ≤ r.1.toNat + r.2))

/-- The purity trap of an access to global memory (R148, R149). -/
def purityTrap (s : State) (x : Thread) (va : Word) (n : Nat) (k : AccKind) : Option TrapInfo :=
  match purityOf s x, k with
  | none, _ => none
  | some _, .fetch => none
  | some _, .atomic => some (trapOf .purity va 3)
  | some _, .await => some (trapOf .purity va 3)
  | some p, .read => if inRanges p.args va n then none else some (trapOf .purity va 1)
  | some p, .write => if inRanges p.outs va n then none else some (trapOf .purity va 2)

/-- The purity trap of an instruction or register (R148, R149). -/
def purityForbids (s : State) (x : Thread) : Option TrapInfo :=
  if (purityOf s x).isSome then some (trapOf .purity 0 4) else none

/-- What a walk finds (R202-R205): a leaf with its level, a fault with the level where it stopped, a poisoned entry, or an entry
beyond a module that is down (R20). -/
inductive Walk where
  | leaf (level : Nat) (e : Word)
  | bad (level : Nat)
  | poison (src key : Nat)
  | link (m : Nat)
  deriving DecidableEq, Repr

/-- Whether an entry is malformed at a level (R203): reserved bits, LEAF, alignment, W without R. -/
def entryBad (level : Nat) (e : Word) : Bool :=
  let pa := field e 8 44 * 256
  let isLeaf := flag e 1
  let align := if isLeaf then 2 ^ levelShift level else if level = 2 then 256 else 4096
  decide (field e 52 12 ≠ 0) || flag e 6 || (decide (level = 0) && isLeaf) || (decide (level = 3) && !isLeaf)
    || decide (pa % align ≠ 0) || (flag e 3 && !flag e 2)

/-- A walk from a level, at most `fuel` levels (R202): each entry is read at its home MPT, folded first (R104). A table that lies
where nothing is holds no valid entry (log entry 16). -/
def walkFrom (s : State) (src : Node) (table : Nat) (va : Word) : Nat → Nat → Walk × State
  | 0, level => (.bad level, s)
  | fuel + 1, level =>
    let pa := table + 8 * levelIndex level va
    match paKey s pa with
    | none => (.bad level, s)
    | some k =>
      match crossDown s src (.mpt (homeMpt s pa)) with
      | some m => (.link m, s)
      | none =>
        let s := s.fold pa k
        if s.isPoisoned k 8 then (.poison (poisonSource s pa) k, s)
        else
          let e := word (s.getNat k 8)
          if !flag e 0 || entryBad level e then (.bad level, s)
          else if flag e 1 then (.leaf level e, s)
          else walkFrom s src (field e 8 44 * 256) va fuel (level + 1)

/-- A page walk of an endpoint (R202). -/
def walk (s : State) (src : Node) (root : Nat) (va : Word) : Walk × State := walkFrom s src root va 4 0

/-- A TLB with an entry used last (R205): 64 entries, least recently used first to leave. -/
def tlbUse (x : Tile) (e : Nat × Nat × Nat × Word) : Tile := { x with tlb := (e :: x.tlb.erase e).take 64 }

/-- A translated access: the physical address, and NOL1 (R203). -/
structure Mapped where
  pa : Nat
  nol1 : Bool
  deriving DecidableEq, Repr

/-- TRAPVAL2 of PAGE and ACCESS (R204). -/
def pageVal2 (k : AccKind) (level element : Nat) : Word :=
  word (bit k.isWrite + (if k = .fetch then 2 else 0) + level % 4 * 4 + element * 256)

/-- Whether a leaf permits an access (R204). -/
def leafPermits (e : Word) (pl : Nat) (k : AccKind) : Bool :=
  (flag e 5 || decide (pl ≠ 0)) && match k with
    | .read => flag e 2
    | .await => flag e 2
    | .write => flag e 3
    | .atomic => flag e 2 && flag e 3
    | .fetch => flag e 4

/-- Whether a device access may reach a physical address at a privilege level (R197). -/
def paOpen (s : State) (pa pl : Nat) : Bool :=
  match paKind s pa with
  | .hbm => true
  | .direct _ _ => true
  | .save _ _ => decide (pl = 2)
  | .pool _ _ => decide (pl = 2)
  | .config _ _ => decide (pl = 2)
  | _ => false

/-- A leaf's answer to an access (R204, R197). -/
def leafAnswer (s : State) (pl : Nat) (k : AccKind) (level : Nat) (e va : Word) (element : Nat) : Except TrapInfo Mapped :=
  if !leafPermits e pl k then .error (onWalk (trapOf .access va (pageVal2 k level element)))
  else if !paOpen s (leafPa level e va) pl then .error (onWalk (trapOf .access va (pageVal2 k level element)))
  else .ok ⟨leafPa level e va, flag e 7⟩

/-- A global virtual address translated by a tile (R204, R205): through its TLB, or by a walk that fills it. -/
def translate (s : State) (t root pl : Nat) (va : Word) (k : AccKind) (element : Nat) : Except TrapInfo (Mapped × State) :=
  match tlbFind (s.tile t) root va with
  | some e =>
    match leafAnswer s pl k e.1 e.2.2.2 va element with
    | .ok m => .ok (m, s.updTile t (fun x => tlbUse x e))
    | .error c => .error c
  | none =>
    let w := walk s (.tile t) root va
    match w.1 with
    | .bad level => .error (onWalk (trapOf .page va (pageVal2 k level element)))
    | .poison src k => .error (onWalk (eccWord va src k))
    | .link m => .error (trapOf .link va (linkVal2 m))
    | .leaf level e =>
      match leafAnswer w.2 pl k level e va element with
      | .ok m => .ok (m, w.2.updTile t (fun x => tlbUse x (level, va.toNat % 2 ^ 48 / 2 ^ levelShift level, root, e)))
      | .error c => .error c

/-- The privilege level of a thread (R260). -/
def Thread.pl (x : Thread) : Nat := field x.status 0 2

/-- The line of 16 instruction words read into a tile's instruction cache (R299, R423): each word is remembered with the root
under which it was fetched. A poisoned word is not remembered. -/
def fillLine (s : State) (t root : Nat) (va : Nat) (pa k : Nat) : Nat → State
  | 0 => s
  | n + 1 =>
    let s := fillLine s t root va pa k n
    let s := s.fold (pa + 4 * n) (k + 4 * n)
    if s.isPoisoned (k + 4 * n) 4 then s
    else
      let w : Nat × BitVec 32 := (root + 1, BitVec.ofNat 32 (s.getNat (k + 4 * n) 4))
      s.updTile t (fun x => { x with icache := sparseSet (0, 0) x.icache (va / 4 + n) w })

/-- One instruction word fetched at a virtual address (R279, R183, R204, R299). A word in the instruction cache is the word
memory holds or, where it differs, either of the two. A word of a configuration window is read as its register is (R197). -/
def fetchWord (s : State) (t root pl : Nat) (va : Word) : Except TrapInfo (BitVec 32 × State) :=
  if va.toNat % 4 ≠ 0 then .error (trapOf .misalign va 0)
  else match placeOf t va with
    | .glob =>
      match translate s t root pl va .fetch 0 with
      | .error c => .error c
      | .ok (m, s) =>
        match paKey s m.pa with
        | none =>
          (match paKind s m.pa with
          | .config d off =>
            let r := configRead s d (off / 8 * 8)
            .ok (BitVec.ofNat 32 (r.1.toNat / 2 ^ (8 * (off % 8))), r.2)
          | _ => .error (onWalk (trapOf .access va (pageVal2 .fetch 0 0))))
        | some k =>
          let c := sparseGet (0, 0) (s.tile t).icache (va.toNat / 4)
          let f := s.fold m.pa k
          let now := BitVec.ofNat 32 (f.getNat k 4)
          let bad := eccWord va (poisonSource s m.pa) k
          let down := crossDown s (.tile t) (.mpt (homeMpt s m.pa))
          if c.1 = root + 1 then
            if c.2 = now && !f.isPoisoned k 4 then .ok (now, s)
            else
              let b := f.freeBool
              if b.1 || down.isSome then .ok (c.2, { s with free := s.free + 1 })
              else if f.isPoisoned k 4 then .error bad
              else .ok (now, b.2)
          else match down with
            | some x => .error (trapOf .link va (linkVal2 x))
            | none =>
              if f.isPoisoned k 4 then .error bad
              else
                let base := va.toNat / 64 * 64
                let s := fillLine f t root base (m.pa / 64 * 64) (k / 64 * 64) 16
                .ok (BitVec.ofNat 32 (s.getNat k 4), s)
    | _ => .error (trapOf .access va 0)

/-- An instruction fetched: its first word, its second word where the first is wide, and the state (R279). A fault on the second
word is taken at the instruction, with TRAPVAL the second word's address. -/
def fetchInstr (s : State) (t root pl : Nat) (va : Word) : Except TrapInfo ((BitVec 32 × BitVec 32) × State) :=
  match fetchWord s t root pl va with
  | .error c => .error c
  | .ok (w0, s) =>
    if isWide w0.toNat then
      match fetchWord s t root pl (va + 4) with
      | .error c => .error c
      | .ok (w1, s) => .ok ((w0, w1), s)
    else .ok ((w0, 0), s)

/-- The place of an aligned access of a thread, after the checks of R181 and R182; the trap names the lowest address. -/
def checkPlace (s : State) (cur : Nat) (va : Word) (element : Nat) : Except TrapInfo Place :=
  match placeOf cur va with
  | .nowhere => .error (trapOf .access va (word (element * 256)))
  | .glob => .ok .glob
  | .sram t off a =>
    if sramOpen s cur t off then .ok (.sram t off a) else .error (trapOf .access va (word (element * 256)))

end Sys2Proof.Machine
end

