-- ==== Sys2Proof/Machine/Nodes.lean ====
section
/-! DEFINITION. What the Scheduler Unit does with an admitted node outside placement: states and outcomes (R58, R62), signals
(R63), stop and drain (R81), kill (R80), and the fault policies (R77, R78). -/

namespace Sys2Proof.Machine

/-- The state codes (R62). -/
def stateCode : NState → Nat
  | .idle => 0
  | .waiting => 1
  | .ready => 2
  | .held => 3
  | .running => 4
  | .preempted => 5
  | .draining => 6
  | .done => 7
  | .skipped => 8
  | .failed => 9
  | .killed => 10

/-- The terminal states (R62). -/
def NState.terminal : NState → Bool
  | .done => true
  | .skipped => true
  | .failed => true
  | .killed => true
  | _ => false

/-- LSTATUS.CODE (R58). -/
def codeOk : Nat := 0

/-- CODE HIT. -/
def codeHit : Nat := 1

/-- CODE MALFORMED. -/
def codeMalformed : Nat := 2

/-- CODE FAULT. -/
def codeFault : Nat := 3

/-- CODE BLOCKED. -/
def codeBlocked : Nat := 4

/-- CODE PREDFAIL. -/
def codePredfail : Nat := 5

/-- CODE KILLED. -/
def codeKilled : Nat := 6

/-- CODE GANGFAIL. -/
def codeGangfail : Nat := 7

/-- CODE POISON. -/
def codePoison : Nat := 8

/-- CODE DRAINTIME. -/
def codeDraintime : Nat := 9

/-- The state with a node's record updated. -/
def State.updNode (s : State) (a : Nat) (f : NodeRec → NodeRec) : State :=
  { s with nodes := s.nodes.map (fun n => if n.addr = a then f n else n) }

/-- Bytes that an MPT moves on a node's behalf counted (R60). -/
def State.chargeNode (s : State) (a : Option Nat) (n : Nat) : State :=
  match a with
  | some x => s.updNode x (fun r => { r with bytes := r.bytes + n })
  | none => s

/-- The state with a region's record updated. -/
def State.updRegion (s : State) (blk : Nat) (f : RegionRec → RegionRec) : State :=
  { s with regions := s.regions.map (fun r => if r.blk = blk then f r else r) }

/-- The record of a region block's placement. -/
def State.region (s : State) (blk : Nat) : Option RegionRec := s.regions.find? (fun r => decide (r.blk = blk))

/-- A word that the Scheduler Unit writes by physical address (R53). -/
def State.suWrite (s : State) (pa : Nat) (v : Word) : State :=
  match paKey s pa with
  | some k => ordRejudge (s.writePa pa k 8 v.toNat none) pa
  | none => s

/-- A node's STATE changed, in its record and in its block (R53, R62). -/
def State.setNState (s : State) (a : Nat) (st : NState) : State :=
  let s := s.foldPa a
  (s.updNode a (fun n => { n with state := st })).suWrite a (setField (s.paWord a) 28 4 (stateCode st))

/-- LSTATUS of a node (R58). -/
def NodeRec.lstatus (n : NodeRec) : Word :=
  word (n.code * 2 ^ 48 + n.tileX * 2 ^ 40 + n.tileY * 2 ^ 32 + bit n.late * 2 ^ 31 + bit n.rerun * 2 ^ 30 + n.detail % 2 ^ 30)

/-- The successors that a node's SUCC fields name (R57). -/
def NodeRec.succs (n : NodeRec) : List Nat :=
  ((List.range 4).map (fun i => field (nth 0 n.blk (10 + i)) 8 44 * 256)).filter (fun a => decide (a ≠ 0))

/-- A signal of an admission's node to each successor in a list (R63). -/
def State.signal (s : State) (aid : Nat) (xs : List Nat) (g : Sig) : State :=
  { s with signals := s.signals ++ xs.map (fun a => ⟨aid, a, g⟩) }

/-- The tiles that a node leaves as it ends (R87). -/
def State.leaveTiles (s : State) (n : NodeRec) : State :=
  match s.region n.region with
  | some r => r.tiles.foldl (fun s t => if (s.tile t).node = some n.addr then s.updTile t (fun x => { x with node := none }) else s) s
  | none => s

/-- An amount added to a block's saturating counter at an offset (R55, R60): the Scheduler Unit keeps the count itself (R53). -/
def State.chargeBlock (s : State) (off n : Nat) (blk : Nat) : State :=
  let v := min (2 ^ 64 - 1) (sparseGet 0 s.used (blk + off) + n)
  ({ s with used := sparseSet 0 s.used (blk + off) v }).suWrite (blk + off) (word v)

/-- The nodes of a region that are admitted and not terminal. -/
def liveNodes (s : State) (blk : Nat) : List NodeRec := s.nodes.filter (fun n => decide (n.region = blk) && !n.state.terminal)

/-- A tile that its region leaves: only the debugger's settings stay (R70, R276). -/
def Tile.released (x : Tile) : Tile :=
  { Tile.free with halting := x.halting, halted := x.halted, brkhalt := x.brkhalt, dbgsel := x.dbgsel, dbgreg := x.dbgreg,
                   dbgdata := x.dbgdata, started := x.started, tlb := x.tlb, icache := x.icache, lines := [] }

/-- The home MPT of a layer in the list in force (R115). -/
def layerHome (s : State) (layer : Nat) : Option Nat :=
  let find (l : Option Shelf) : Option Layer := match l with
    | some x => x.layers.find? (fun y => decide (y.layer = layer))
    | none => none
  (s.ring.lanes.filterMap (fun e => find e.2.shelf)).head?.map (fun y => y.home)

/-- An arm or release notice sent to a layer's injector (R132); of a layer that no list in force has, it is kept for the injector of
a list to come. -/
def State.armNotice (s : State) (t layer : Nat) (release : Bool) : State :=
  s.send .side (.tile t) (.mpt ((layerHome s layer).getD (mptOfTile t))) (.arm layer release s.ring.step)

/-- A transition of a tap to IDLE (R129): q unbound, its bytes gone, and a release notice if it holds an arm count (R132). -/
def tapToIdle (s : State) (t : Nat) : State :=
  let x := s.tap t
  if x.state = .idle then s
  else
    let s := s.updNative t x.slot (fun n => { n with q := sparseSet Stream.unbound n.q x.q Stream.unbound })
    let s := s.placeTap t { Tap.idle with lane := x.lane }
    if x.counted then s.armNotice t x.layer true else s

/-- Every slot of a tile without a thread. -/
def State.clearSlots (s : State) (t : Nat) : State :=
  (List.range 6).foldl (fun s k => (((s.setThread t k none).setNative t k Native.fresh).setShadow t k []).setAhead t k none) s

/-- A tile leaves its region (R70, R83). -/
def State.releaseTile (s : State) (t : Nat) : State := ((tapToIdle s t).clearSlots t).updTile t Tile.released

/-- A region's rectangle released (R70, R83). Its PREEMPTED save, if any, is gone (R81). -/
def State.releaseRegion (s : State) (blk : Nat) : State :=
  match s.region blk with
  | some r =>
    let s := if r.on then r.tiles.foldl State.releaseTile s else s
    { s with regions := s.regions.filter (fun x => decide (x.blk ≠ blk)) }
  | none => s

/-- The rectangle released when the last of its nodes is terminal (R70). -/
def State.releaseIfIdle (s : State) (blk : Nat) : State :=
  match s.region blk with
  | some r => if (liveNodes s blk).isEmpty && !r.dead then s.releaseRegion blk else s
  | none => s

/-- A message of a gang launch sent to a member's or the home's node. -/
def gangSend (n : NodeRec) (to_ : Nat × Nat) (m : GangMsg) (s : State) : State :=
  s.send .req (.su n.die) .outside (.gangMsg to_.1 to_.2 m)

/-- A message of the home to every other member (R75). -/
def gangTellAll (n : NodeRec) (g : Gang) (m : GangMsg) (s : State) : State := (g.members.drop 1).foldl (fun s x => gangSend n x m s) s

/-- The kill that a gang's home sends to every member as soon as it fails or is killed (R76). -/
def gangKill (n : NodeRec) (s : State) : State :=
  match n.gang with
  | some g => if g.home then gangTellAll n g .kill s else s
  | none => s

/-- What a gang's node that fails or is killed sends as it ends (R76): a member its code to the home, the home a kill to every member
unless it has drained, which sent it before. -/
def gangEnd (n : NodeRec) (st : NState) (code : Nat) (s : State) : State :=
  match n.gang, decide (st = .failed) || decide (st = .killed) with
  | some g, true =>
    if g.home then (if n.state = .draining then s else gangTellAll n g .kill s)
    else gangSend n (g.members.headD (0, 0)) (.fail code) s
  | _, _ => s

/-- A node becomes terminal (R62, R396): LSTATUS and ENDTICK before STATE, the bytes charged (R60), a LAUNCH event under NOTIFY,
its signals, and the release of its rectangle. A node whose insertion still runs keeps its record. -/
def State.endNode (s : State) (a : Nat) (st : NState) (code : Nat) (signals : List (Nat × Sig)) : State :=
  match s.node a with
  | none => s
  | some n0 =>
    let n := { n0 with code := code }
    let s := s.updNode a (fun _ => n)
    let s := (s.suWrite (a + 48) n.lstatus).suWrite (a + 168) s.tick
    let s := n.path.foldl (fun s b => s.chargeBlock 40 n.bytes b) s
    let s := gangEnd n st code (s.setNState a st)
    let s := if flag (nth 0 n.blk 0) 37 then s.hostEvent 6 (leBytes 8 a) (leBytes 8 n.lstatus.toNat) else s
    let s := signals.foldl (fun s x => s.signal n.aid [x.1] x.2) s
    let s := s.leaveTiles n
    let s := { s with reserve := s.reserve.filter (fun r => decide (r.node ≠ a)) }
    let s := s.releaseIfIdle n.region
    let keep (x : NodeRec) : Bool := match x.look with
      | some l => decide (l.st = .insert)
      | none => false
    { s with nodes := s.nodes.filter (fun x => decide (x.addr ≠ a) || keep x) }

/-- A node ends with one signal to every successor (R62). -/
def State.endAll (s : State) (a : Nat) (st : NState) (code : Nat) (g : Sig) : State :=
  match s.node a with
  | some n => s.endNode a st code (n.succs.map (fun x => (x, g)))
  | none => s

/-- An Archive entry freed (R144). -/
def State.freeEntry (s : State) (bank set way : Nat) : State :=
  s.updMpt bank (fun m => { m with entries := m.entries.filter (fun e => !(decide (e.set = set) && decide (e.way = way))) })

/-- The entry of an insertion freed, where it is still its own (R153). -/
def State.freeOwn (s : State) (bank serial : Nat) : State :=
  s.updMpt bank (fun m => { m with entries := m.entries.filter (fun e => decide (e.serial ≠ serial)) })

/-- A node's lookup ended (R145): its watches disarmed and the entry being filled freed. -/
def State.endLookup (s : State) (a : Nat) : State :=
  match s.node a with
  | some n =>
    let s := match n.look with
      | some l => (match l.entry with
        | some e => s.freeOwn e.1 e.2.2.2
        | none => s)
      | none => s
    s.updNode a (fun n => { n with look := none })
  | none => s

/-- A record of a terminal node whose insertion has ended is gone. -/
def dropEnded (a : Nat) (s : State) : State :=
  { s with nodes := s.nodes.filter (fun n => decide (n.addr ≠ a) || !n.state.terminal || n.look.isSome) }

/-- Whether a node is DONE and its insertion still runs (R145). -/
def NodeRec.inserting (n : NodeRec) : Bool :=
  n.state.terminal && match n.look with
    | some l => decide (l.st = .insert)
    | none => false

/-- The insertions in progress of the nodes with a property cancelled (R81, R145). -/
def State.cancelInserts (s : State) (p : NodeRec → Bool) : State :=
  ((s.nodes.filter (fun n => n.inserting && p n)).map (fun n => n.addr)).foldl (fun s a => dropEnded a (s.endLookup a)) s

/-- Whether an agent's tag is that of a placement. -/
def ofRegion (r : RegionRec) (w : Who) : Bool := decide (w.rid = r.rid) && decide (w.gen = r.gen)

/-- Whether a packet is a copy or stream request of a placement (R81). -/
def enginePacket (r : RegionRec) (p : Packet) : Bool :=
  match p.body with
  | .copy c => ofRegion r c.who
  | .stream e => ofRegion r e.who
  | _ => false

/-- Whether a packet carries a thread of a placement, or lets one go (R81). -/
def threadPacket (r : RegionRec) (p : Packet) : Bool :=
  match p.body with
  | .moved _ rid gen => decide (rid = r.rid) && decide (gen = r.gen)
  | .migrate w => ofRegion r w
  | .grant w _ _ => ofRegion r w
  | _ => false

/-- The arrival words that a region's copies, storers and waiting threads use (R378). -/
def usedWords (s : State) (r : RegionRec) : List Nat :=
  (s.copies.filter (fun c => ofRegion r c.who)).flatMap (fun c => c.counts.map (fun e => e.1))
    ++ (s.edges.filter (fun e => ofRegion r e.who && e.bound)).map (fun e => e.aw.toNat)
    ++ r.tiles.flatMap (fun t => (List.range 6).filterMap (fun k => match s.thread t k with
      | some x => (match x.pend with
        | some p => (match p.again with
          | some (pa, .load _) => some pa
          | _ => none)
        | none => none)
      | none => none))

/-- The status KILLED of a copy or stream that its region's end aborts (R81, R384), written to the register that awaits it; of a thread that
ended before it is discarded (R393). -/
def statusKilled (w : Who) (tok : Nat) (poisoned : Bool) (bytes : Nat) (s : State) : State :=
  let v := word (6 * 2 ^ 56 + bit poisoned * 2 ^ 55 + min bytes (2 ^ 48 - 1))
  s.updThread w.tile w.slot (fun x => match x.awaited.find? (fun a => decide (x.uid = w.uid) && decide (a.tok = tok)) with
    | some a =>
      let x := { x with awaited := x.awaited.filter (fun b => decide (b.tok ≠ tok)) }
      (match a.dest with
      | .gen n => if n = 0 then x else { x with s := sparseSet 0 x.s n v }
      | _ => x)
    | none => x)

/-- The aborted copies and streams of a region report KILLED (R81). -/
def State.abortEngines (s : State) (r : RegionRec) : State :=
  let s := (s.copies.filter (fun c => ofRegion r c.who)).foldl (fun s c => statusKilled c.who c.tok c.poisoned c.bytes s) s
  let s := (s.edges.filter (fun e => ofRegion r e.who)).foldl (fun s e => statusKilled e.who e.tok e.poisoned e.total s) s
  (s.traffic.filter (enginePacket r)).foldl (fun s p => match p.body with
    | .copy c => statusKilled c.who c.tok false 0 s
    | .stream e => statusKilled e.who e.tok false 0 s
    | _ => s) s

/-- Every thread and switch of a region stopped, its copies, streams and taps ended (R81): the copies report KILLED before the stopped
threads' slots are emptied, and threads on their way to the region's tiles go no further. -/
def State.stopRegion (s : State) (r : RegionRec) : State :=
  let s := ((usedWords s r).foldl (fun s pa => poolUse s pa false) s).abortEngines r
  let s := r.tiles.foldl (fun s t =>
    ((tapToIdle s t).clearSlots t).updTile t (fun x =>
      { x with sw := { x.sw with halted := true }, tasks := [], ready := [], fewait := [], inbound := [], reserved := [],
               gangQ := [], node := x.node })) s
  { s with copies := s.copies.filter (fun c => !ofRegion r c.who),
           edges := s.edges.filter (fun e => !ofRegion r e.who),
           net := s.net.filter (fun p => !enginePacket r p && !threadPacket r p),
           arrived := s.arrived.filter (fun p => !enginePacket r p && !threadPacket r p) }

/-- The drain sent to every MPT of the part (R81). -/
def State.sendDrains (s : State) (die rid gen : Nat) : State :=
  (List.range s.part.mpts).foldl (fun s m => s.send .req (.su die) (.mpt m) (.drain rid gen)) s

/-- A node's region stopped and drained (R81): the node enters DRAINING with its CODE. Another node of the region that runs is
drained with it (R73, log entry 17). -/
def State.stopDrain (s : State) (a : Nat) (code : Nat) (final : NState) : State :=
  match s.node a with
  | none => s
  | some n =>
    match s.region n.region with
    | none => s
    | some r =>
      if n.state = .draining then s else
      let s := (if final = .ready then s else gangKill n s).cancelInserts (fun m => decide (m.region = n.region))
      let s := if r.on then s.stopRegion r else { s with regions := s.regions.map (fun x => if x.blk = r.blk then { x with saved := [] } else x) }
      let others := s.nodes.filter (fun m => decide (m.region = n.region) && decide (m.addr ≠ a)
        && (decide (m.state = .running) || decide (m.state = .preempted)))
      let s := others.foldl (fun s m =>
        let c := if n.succs.contains m.addr then codePredfail else code
        ((s.endLookup m.addr).updNode m.addr (fun x => { x with code := c })).setNState m.addr .draining) s
      let s := s.endLookup a
      let s := s.updNode a (fun x => { x with code := code, todo := [], stop := .drain (List.range s.part.mpts) s.cycle final })
      let s := s.setNState a .draining
      s.sendDrains (dieOf r.x0 r.y0) r.rid r.gen

/-- The threads of a tile with their slots. -/
def liveThreads (s : State) (t : Nat) : List (Nat × Thread) :=
  (List.range 6).filterMap (fun k => (s.thread t k).map (fun x => (k, x)))

/-! Insertions of the Archive at a DONE (R145, R152, R153). -/

/-- The bank and the set that a key selects (R144). -/
def bankOf (p : Part) (key : List Byte) : Nat := (nth 0 key 0).toNat % p.mpts

/-- The set within the bank (R144): key bits 16:8. -/
def setOf (key : List Byte) : Nat := (nth 0 key 1).toNat + (nth 0 key 2).toNat % 2 * 256

/-- The lookup of a node updated. -/
def State.updLook (s : State) (a : Nat) (f : Lookup → Lookup) : State := s.updNode a (fun n => { n with look := n.look.map f })

/-- The greatest AGE of a bank, and one more. -/
def nextAge (m : Mpt) : Nat := (m.entries.map (fun e => e.age)).foldl max 0 + 1

/-- The charge records that some entry names (R152). -/
def usedCharges (s : State) : List Charge :=
  s.charges.filter (fun c => s.mpts.any (fun m => m.2.entries.any (fun e => decide (e.charge = c.idx))))

/-- Whether two lists name the same blocks. -/
def sameBlocks (a b : List Nat) : Bool := a.all (fun x => b.contains x) && b.all (fun x => a.contains x)

/-- The index of a set's charge record, a new one where none holds it: none where 1024 are in use (R152). The empty set needs no record
and has index 1024. -/
def takeCharge (s : State) (blocks : List Nat) : Option (Nat × State) :=
  let cs := usedCharges s
  if blocks.isEmpty then some (1024, s)
  else match cs.find? (fun c => sameBlocks c.blocks blocks) with
    | some c => some (c.idx, s)
    | none =>
      match (List.range 1024).find? (fun i => !(cs.any (fun c => decide (c.idx = i)))) with
      | some i => some (i, { s with charges := cs ++ [⟨i, blocks⟩] })
      | none => none

/-- Whether an entry is charged to a block. -/
def chargedTo (s : State) (b : Nat) (e : Entry) : Bool := s.charges.any (fun c => decide (c.idx = e.charge) && c.blocks.contains b)

/-- The live count of a block (R152). -/
def liveCount (s : State) (b : Nat) : Nat := (s.mpts.map (fun m => (m.2.entries.filter (chargedTo s b)).length)).sum

/-- The least recently used entry of a list. -/
def oldest : List Entry → Option Entry
  | [] => none
  | e :: es =>
    match oldest es with
    | some x => if x.age < e.age then some x else some e
    | none => some e

/-- The least recently used VALID entry of a bank with a property freed: none where there is none (R153). -/
def evict (bank : Nat) (p : Entry → Bool) (s : State) : Option State :=
  (oldest ((s.mpt bank).entries.filter (fun e => decide (e.state = .valid) && p e))).map (fun e => s.freeEntry bank e.set e.way)

/-- Step 1 of R153 for one capped block; false where the insertion is dropped. -/
def underCap (bank b cap : Nat) : Nat → State → Bool × State
  | 0, s => (decide (liveCount s b < cap), s)
  | fuel + 1, s =>
    if liveCount s b < cap then (true, s)
    else match evict bank (chargedTo s b) s with
      | some s => underCap bank b cap fuel s
      | none => (false, s)

/-- Step 1 of R153. -/
def underCaps (bank : Nat) : List (Nat × Nat) → State → Bool × State
  | [], s => (true, s)
  | c :: cs, s =>
    let r := underCap bank c.1 c.2 ((s.mpt bank).entries.length) s
    if r.1 then underCaps bank cs r.2 else r

/-- The way of a set that no entry takes. -/
def freeWay (m : Mpt) (set : Nat) : Option Nat :=
  (List.range 8).find? (fun w => !(m.entries.any (fun e => decide (e.set = set) && decide (e.way = w))))

/-- Step 2 of R153. -/
def takeWay (bank set : Nat) (s : State) : Option Nat × State :=
  match freeWay (s.mpt bank) set with
  | some w => (some w, s)
  | none =>
    match evict bank (fun e => decide (e.set = set)) s with
    | some s => (freeWay (s.mpt bank) set, s)
    | none => (none, s)

/-- The first offset, in 64-byte units, at which `n` units of a bank's store are free, of 0 and the ends of the entries in their order: R153
does not say which free span an insertion takes, so this is the model's choice (log entry 115). -/
def freeSpan (s : State) (bank n : Nat) : Option Nat :=
  let m := s.mpt bank
  let size := carveBytes m.carve 8 / 64
  let starts := 0 :: m.entries.map (fun e => e.roff + e.rlen / 64)
  let ok (o : Nat) : Bool :=
    decide (o + n ≤ size) && m.entries.all (fun e => decide (o + n ≤ e.roff) || decide (e.roff + e.rlen / 64 ≤ o))
  starts.find? ok

/-- Step 3 of R153. -/
def takeSpan (bank tenant n : Nat) : Nat → State → Option Nat × State
  | 0, s => (freeSpan s bank n, s)
  | fuel + 1, s =>
    match freeSpan s bank n with
    | some o => (some o, s)
    | none =>
      match evict bank (fun e => decide (e.tenant = tenant)) s with
      | some s => takeSpan bank tenant n fuel s
      | none => (none, s)

/-- An insertion begun at a node's DONE (R145, R153): its entry FILLING; dropped where a step of R153 fails. -/
def beginInsert (s : State) (n : NodeRec) (l : Lookup) : State :=
  let bank := bankOf s.part l.key
  let set := setOf l.key
  let rlen := (n.outs.map (fun r => r.2)).sum
  let drop (s : State) : State := s.updNode n.addr (fun x => { x with look := none })
  match takeCharge s (n.arch.map (fun c => c.1)) with
  | none => drop s
  | some (charge, s1) =>
    let c := underCaps bank n.arch s1
    if !c.1 then drop c.2
    else
      let w := takeWay bank set c.2
      match w.1 with
      | none => drop w.2
      | some way =>
        let o := takeSpan bank n.tenant (rlen / 64) ((w.2.mpt bank).entries.length) w.2
        match o.1 with
        | none => drop o.2
        | some roff =>
          let id := o.2.nextId
          let e : Entry := ⟨set, way, .filling, n.tenant, l.key, l.chunks, roff, rlen, charge, nextAge (o.2.mpt bank), id⟩
          let s := { o.2 with nextId := id + 1 }.updMpt bank (fun m => { m with entries := m.entries ++ [e] })
          s.updLook n.addr (fun x => { x with st := .insert, entry := some (bank, set, way, id) })

/-- The Archive at the DONE of a PURE node that ran (R145). -/
def archiveDone (s : State) (a : Nat) : State :=
  match s.node a with
  | some n => (match n.look with
    | some l =>
      if l.st = .run && l.insert && !l.hit && !l.key.isEmpty then beginInsert s n l else s.updNode a (fun x => { x with look := none })
    | none => s)
  | none => s

/-! Retirement (R64). -/

/-- Whether a packet belongs to a write or an engine of a tile's placement (R64). -/
def Packet.worksFor (p : Packet) (t rid gen : Nat) : Bool :=
  let mine (w : Who) : Bool := decide (w.tile = t) && decide (w.rid = rid) && decide (w.gen = gen)
  match p.body with
  | .access w _ _ _ op => mine w && op.writes
  | .sealed w => mine w
  | .copy c => mine c.who
  | .stream e => mine e.who
  | .remoteCopy _ w _ _ _ _ _ _ => mine w
  | _ => false

/-- Whether a thread of a node is on its way to a guest slot of a tile. -/
def threadComing (s : State) (t : Nat) (node : Option Nat) : Bool :=
  s.traffic.any (fun p => match p.body with
    | .moved m _ _ => decide (p.dst = .tile t) && decide (m.thread.node = node)
    | .grant w owner _ => decide (owner = t) && (s.thread w.tile w.slot).any (fun x => decide (x.uid = w.uid) && decide (x.node = node))
    | _ => false)

/-- Whether the threads of a tile's node have ended, its switch has halted, and its writes and engines are done (R64, R87). -/
def tileDone (s : State) (t : Nat) : Bool :=
  let x := s.tile t
  let mine (w : Who) : Bool := decide (w.tile = t) && decide (w.rid = x.rid) && decide (w.gen = x.gen)
  (liveThreads s t).all (fun e => decide (e.2.node ≠ x.node)) && !threadComing s t x.node && x.tasks.isEmpty && x.sw.halted
    && !(s.traffic.any (fun p => p.worksFor t x.rid x.gen)) && !(s.copies.any (fun c => mine c.who && decide (c.node = x.node)))
    && !(s.edges.any (fun e => mine e.who && decide (e.node = x.node)))
    && !(s.unacked.any (fun u => match u.who with
      | some w => mine w
      | none => false))

/-- Whether every tile has retired a node (R62, R64). -/
def nodeRetired (s : State) (n : NodeRec) (r : RegionRec) : Bool :=
  n.todo.isEmpty && r.tiles.all (fun t => decide ((s.tile t).node ≠ some n.addr) || (s.tile t).retired)

/-- Whether every other member of a home's gang has reported done (R76). -/
def gangAllDone (g : Gang) : Bool := (List.range g.members.length).all (fun i => decide (i = 0) || g.done.contains i)

/-- A node whose every tile has retired (R62, R76): DONE; a gang's member tells its home, and a home waits for its members. -/
def nodeDone (s : State) (n : NodeRec) : State :=
  let fin (s : State) : State := (archiveDone s n.addr).endAll n.addr .done codeOk .done
  match n.gang with
  | some g => if g.home then (if gangAllDone g then fin s else s) else fin (gangSend n (g.members.headD (0, 0)) .done s)
  | none => fin s

/-- A tile retires its node (R60, R64): its cycles are charged to the node and its ancestors. -/
def retireTile (s : State) (t : Nat) (n : NodeRec) : State :=
  let c := s.cycle - (s.tile t).started
  let s := n.path.foldl (fun s b => s.chargeBlock 32 c b) s
  s.updTile t (fun x => { x with retired := true, started := s.cycle })

/-- Whether the tile retirement that completes a running node falls in this cycle (R64, R76, R80). -/
def retiresNow (s : State) (n : NodeRec) (r : RegionRec) : Bool :=
  r.on && !n.stop.saves && n.todo.isEmpty
    && r.tiles.all (fun t => decide ((s.tile t).node ≠ some n.addr) || (s.tile t).retired || tileDone s t)
    && match n.gang with
      | some g => !g.home || gangAllDone g
      | none => true

/-- The retirements that complete a running node (R62, R64). -/
def retireNode (s : State) (n : NodeRec) (r : RegionRec) : State :=
  nodeDone ((r.tiles.filter (fun t => decide ((s.tile t).node = some n.addr) && !(s.tile t).retired)).foldl (fun s t => retireTile s t n) s) n

/-- Whether a tile's node is being stopped and drained (R81): no thread runs on it. -/
def tileDraining (s : State) (t : Nat) : Bool :=
  match (s.tile t).node with
  | some a => (s.node a).any (fun n => decide (n.state = .draining))
  | none => false

/-- A running node killed (R62, R80): its completion in the same cycle comes first. -/
def State.killRunning (s : State) (n : NodeRec) : State :=
  match s.region n.region with
  | some r => if retiresNow s n r then retireNode s n r else s.stopDrain n.addr codeKilled .killed
  | none => s

/-! Kill and faults. -/

/-- Whether a node drains to run again (R77). -/
def Stop.reruns : Stop → Bool
  | .drain _ _ .ready => true
  | _ => false

/-- A node that is killed while it drains (R62, R80): it ends KILLED, naming no tile, and does not run again. -/
def NodeRec.killedDraining (n : NodeRec) : NodeRec :=
  { n with code := codeKilled, tileX := 0xFF, tileY := 0xFF, detail := 0, stop := match n.stop with
      | .drain certs since _ => .drain certs since .killed
      | x => x }

/-- A kill of one node (R62, R80). A kill after DELIVER has begun waits for it (R146); a gang's home that drained to run again tells its
members now (R76). -/
def State.killNode (s : State) (a : Nat) : State :=
  match s.node a with
  | none => s
  | some n =>
    match n.state with
    | .waiting => (s.endLookup a).endAll a .killed codeKilled .fail
    | .held => (s.endLookup a).endAll a .killed codeKilled .fail
    | .ready =>
      (match n.look with
      | some l =>
        if l.st = .deliver then s.updNode a (fun x => { x with code := codeKilled })
        else (s.endLookup a).endAll a .killed codeKilled .fail
      | none => s.endAll a .killed codeKilled .fail)
    | .running => s.killRunning n
    | .preempted => s.stopDrain a codeKilled .killed
    | .draining => (if n.stop.reruns then gangKill n s else s).updNode a NodeRec.killedDraining
    | _ => s

/-- The nodes that a kill of a block applies to (R80): admitted, not terminal, the block on their path. -/
def killTargets (s : State) (blk : Nat) : List Nat :=
  (s.nodes.filter (fun n => n.path.contains blk && !n.state.terminal)).map (fun n => n.addr)

/-- A kill of a block's subtree, as one event (R80): insertions of its DONE nodes end too (R145). -/
def State.kill (s : State) (blk : Nat) : State :=
  ((killTargets s blk).foldl State.killNode s).cancelInserts (fun n => n.path.contains blk)

/-- The job block of a node (R52). -/
def NodeRec.job (n : NodeRec) : Nat := nth 0 n.path 2

/-- Word 0 of a fault task (R78). -/
def faultWord (kind cause slot tile label count : Nat) : Word :=
  word (kind * 2 ^ 56 + cause * 2 ^ 48 + slot * 2 ^ 40 + tile * 2 ^ 28 + label * 2 ^ 20 + count % 2 ^ 20)

/-- The tile of a region's fault handler (R56, R78): none with FHV = 0 or outside the region. -/
def handlerTile (n : NodeRec) (r : RegionRec) : Option Nat :=
  let w := nth 0 n.rblk 9
  if flag w 24 ∧ field w 8 8 < r.w ∧ field w 16 8 < r.h then some (tileAt (r.x0 + field w 8 8) (r.y0 + field w 16 8)) else none

/-- The task of policy HANDLER (R78). Its WIN, which R99 counts before the task is accepted, is the NUMBER at its sending: the model's choice
(log entry 113). -/
def State.sendFault (s : State) (n : NodeRec) (r : RegionRec) (dst tile : Nat) (w0 w1 : Word) : State :=
  let k : Task :=
    { rid := r.rid, gen := r.gen, srcPkg := pkgId s, srcIdx := tile, stolen := false, aff := false, prio := 3, two := true,
      label := field (nth 0 n.rblk 9) 0 7, dpkg := pkgId s, dx := tileX dst, dy := tileY dst, win := r.number,
      key := 0xFFFFFFFE, cnt := r.faults, w0 := w0, w1 := w1, host := none, check := false, since := 0 }
  (s.updRegion r.blk (fun x => { x with faults := x.faults + 1 })).sendTask (.su (dieOf r.x0 r.y0)) k

/-- The fault of a node reported as NODE does (R77, R58): it drains and fails, naming the tile and DETAIL. -/
def State.failNode (s : State) (a tile detail : Nat) (code : Nat) (final : NState) : State :=
  (s.updNode a (fun n => { n with tileX := tileX tile, tileY := tileY tile, detail := detail })).stopDrain a code final

/-- A tap that a pre-emption held goes on (R137, R275): one that met a fault in HOLD is FAULTED, for it is saved no more. -/
def unholdTap (s : State) (t : Nat) : State :=
  let x := s.tap t
  if x.state = .hold then
    s.setTap t { x with state := if x.mid then .capture else if x.reason ≠ 0 then .faulted else .armed, mid := false }
  else s

/-- A pre-emption under way refused (R275): a trap that escalates comes first. -/
def State.refusePreempt (s : State) (n : NodeRec) (r : RegionRec) : State :=
  if n.stop = .deferred ∨ n.stop.saves then (r.tiles.foldl unholdTap s).updNode n.addr (fun x => { x with stop := .no }) else s

/-- A lookup that a fault in its node's run disarms (R145, R149): it watches nothing more and inserts nothing. -/
def Lookup.disarmed (l : Lookup) : Lookup := { l with insert := false, chunks := [], outs := [], hit := false }

/-- The node's effective fault policy applied (R77), to a running node: `w0` and `w1` are the words of a fault task. Whatever the policy, a PURE
run's lookup is disarmed (R145, R149). -/
def State.faultPolicy (s : State) (a tile slot cause : Nat) (w0 w1 : Word) : State :=
  match s.node a with
  | none => s
  | some n =>
    if n.state ≠ .running then s else
    let s := s.updNode a (fun x => { x with look := x.look.map Lookup.disarmed })
    let detail := slot * 256 + cause
    let node (s : State) : State := s.failNode a tile detail codeFault .failed
    match n.fd with
    | 1 =>
      let s := node s
      (((killTargets s n.job).filter (fun b => decide (b ≠ a))).foldl State.killNode s).cancelInserts (fun m => m.path.contains n.job)
    | 2 =>
      if n.rerun then node s
      else (s.updNode a (fun x => { x with rerun := true, impure := decide (x.kind = 1) })).failNode a tile detail codeFault .ready
    | 3 =>
      match s.region n.region with
      | some r =>
        (match handlerTile n r with
        | some d => (s.refusePreempt n r).sendFault n r d tile w0 w1
        | none => node s)
      | none => node s
    | _ => node s

/-- A thread with the wait of its instruction over. -/
def Thread.ready (x : Thread) : Thread := { x with wait := .none, phase := 0, pend := none, issued := none, dig := none }

/-- A thread's trap that is not handled within the thread (R77, R265): it stops, and the node's policy applies; a thread of a
service tile reports FIRMWARE to the other service tiles. -/
def State.escalate (s : State) (t k : Nat) (cause : Nat) (val : Word) : State :=
  match s.thread t k with
  | none => s
  | some x =>
    let s := (s.updThread t k (fun y => { y.ready with stopped := true, loads := [], since := s.cycle })).setShadow t k []
    match x.node with
    | some a => s.faultPolicy a t k cause (faultWord 1 cause k t 0 0) val
    | none =>
      s.machineCheck 12 t 0 ((List.range s.part.dies).filter (fun d => decide (serviceTile d ≠ t)))

/-- Whether a tile's switch executes an illegal word in the present cycle and has yet to do so (R79). -/
def blocksNow (s : State) (t : Nat) : Bool :=
  let w := (s.tile t).sw
  !w.halted && !w.blocked && decide (w.ranAt ≠ s.cycle + 1) && match decodeSwitch (sparseGet (0 : Word) w.mem w.pc).toNat with
    | .ok _ => false
    | .error _ => true

/-- A tile that reaches an illegal switch word (R79): it is BLOCKED, and its node drains and fails, naming the lowest blocked
tile and their count. Every thread of the node stops in that cycle, in which the tiles that reach such a word too count as well. -/
def State.blockTile (s : State) (t : Nat) : State :=
  let s := s.updTile t (fun x => { x with sw := { x.sw with blocked := true } })
  match regionOf s t, (s.tile t).node with
  | some r, some a =>
    let bad := r.tiles.filter (fun u => (s.tile u).sw.blocked || blocksNow s u)
    match s.node a with
    | some n =>
      if n.state = .running then s.failNode a (bad.foldl min t) bad.length codeBlocked .failed else s
    | none => s
  | _, _ => s

end Sys2Proof.Machine
end

