-- ==== Sys2Proof/Machine/Ops.lean ====
section
/-! DEFINITION. The shared operations of the core: what an instruction may do (go on, wait, trap), registers and ports (R164,
R281-R283), taking a trap and returning from one (R263-R267, R418, R419), and retirement under a repeat (R347). -/

namespace Sys2Proof.Machine

/-- What part of an instruction does: it goes on with a value, is not ready (R156), or traps (R263). -/
inductive Act (α : Type) where
  | go (a : α) (s : State)
  | wait (w : Wait)
  | trap (c : TrapInfo)
  deriving DecidableEq, Repr

/-- One part after another. -/
def Act.andThen {α β : Type} (x : Act α) (f : α → State → Act β) : Act β :=
  match x with
  | .go a s => f a s
  | .wait w => .wait w
  | .trap c => .trap c

/-- A part that needs a condition, or waits. -/
def needs {β : Type} (c : Bool) (w : Wait) (r : Act β) : Act β := if c then r else .wait w

/-- A part that traps under a condition. -/
def trapsIf {β : Type} (c : Bool) (t : TrapInfo) (r : Act β) : Act β := if c then .trap t else r

/-- The codes of the causes (R263). -/
def causeCode : Cause → Nat
  | .illegal => 0x01
  | .privilege => 0x02
  | .misalign => 0x03
  | .page => 0x04
  | .access => 0x05
  | .fpx => 0x06
  | .snan => 0x07
  | .overflow => 0x08
  | .zerodiv => 0x09
  | .rewrite => 0x0A
  | .purity => 0x0B
  | .overrun => 0x0C
  | .folio => 0x0D
  | .cycle => 0x0E
  | .scope => 0x0F
  | .ecc => 0x10
  | .link => 0x11
  | .brk => 0x12
  | .software => 0x13
  | .launch => 0x14
  | .blocked => 0x15

/-- The instruction's words as a trap reports them (R263): a second word in bits 63:32. -/
def insnWord (i : Instr) : Word :=
  match encode i with
  | [w] => word w
  | [w, w1] => word (w + w1 * 2 ^ 32)
  | _ => 0

/-! Buffers. -/

/-- A plane's CIN buffer (R164). -/
def Bufs.cin {α : Type} (b : Bufs α) : Dir → Buf α
  | .n => b.cinN
  | .e => b.cinE
  | .s => b.cinS
  | .w => b.cinW

/-- A plane's CIN buffer changed. -/
def Bufs.setCin {α : Type} (b : Bufs α) (x : Buf α) : Dir → Bufs α
  | .n => { b with cinN := x }
  | .e => { b with cinE := x }
  | .s => { b with cinS := x }
  | .w => { b with cinW := x }

/-- A plane's COUT buffer (R164). -/
def Bufs.cout {α : Type} (b : Bufs α) : Dir → Buf α
  | .n => b.coutN
  | .e => b.coutE
  | .s => b.coutS
  | .w => b.coutW

/-- A plane's COUT buffer changed. -/
def Bufs.setCout {α : Type} (b : Bufs α) (x : Buf α) : Dir → Bufs α
  | .n => { b with coutN := x }
  | .e => { b with coutE := x }
  | .s => { b with coutS := x }
  | .w => { b with coutW := x }

/-- A plane's switch input buffer (R165). -/
def Bufs.inp {α : Type} (b : Bufs α) : Dir → Buf α
  | .n => b.inN
  | .e => b.inE
  | .s => b.inS
  | .w => b.inW

/-- A plane's switch input buffer changed. -/
def Bufs.setInp {α : Type} (b : Bufs α) (x : Buf α) : Dir → Bufs α
  | .n => { b with inN := x }
  | .e => { b with inE := x }
  | .s => { b with inS := x }
  | .w => { b with inW := x }

/-- The flits that a sender counts in a buffer (R167): room freed in a cycle is seen one cycle later. -/
def Buf.used {α : Type} (b : Buf α) (cycle : Nat) : Nat := b.flits.length + (if b.freedAt = cycle then b.freed else 0)

/-- The head of a buffer, where it can be used in a cycle (R166). -/
def Buf.head {α : Type} (b : Buf α) (cycle : Nat) : Option (Flit α) :=
  match b.flits with
  | [] => none
  | f :: _ => if f.ready ≤ cycle then some f else none

/-- A buffer whose head has been taken in a cycle. -/
def Buf.pop {α : Type} (b : Buf α) (cycle : Nat) : Buf α :=
  { flits := b.flits.tail, freed := if b.freedAt = cycle then b.freed + 1 else 1, freedAt := cycle }

/-- A flit put behind those that are there no later than it. -/
def flitInsert {α : Type} (f : Flit α) : List (Flit α) → List (Flit α)
  | [] => [f]
  | g :: gs => if f.ready < g.ready then f :: g :: gs else g :: flitInsert f gs

/-- A buffer with a flit pushed (R164, R321): behind every flit that is there by then. -/
def Buf.push {α : Type} (b : Buf α) (ready : Nat) (v : α) (bad : Bool) : Buf α := { b with flits := flitInsert ⟨ready, v, bad⟩ b.flits }

/-- The flits that a bank of role FIFO adds to a buffer (R184, R189): `code` is the buffer's FIFO target. A bank taken for
spilled tasks extends none (R87). -/
def fifoExtra (x : Tile) (code : Nat) : Nat :=
  if (List.range 12).any (fun b => decide (roleOf x b = 1) && decide (fifoTarget x b = code) && decide (spillBank x ≠ some b)) then
    (if code < 8 then 8192 else 1024)
  else 0

/-- The capacity of a CIN buffer (R164, R189). -/
def cinCap (x : Tile) (p : Plane) (d : Dir) : Nat :=
  4 + fifoExtra x ((if p = .vector then 8 else 0) + 4 + dirIndex d)

/-- The capacity of a switch input buffer (R165, R167, R189): four flits more where the hop crosses a die edge. -/
def inpCap (s : State) (t : Nat) (p : Plane) (d : Dir) : Nat :=
  let edge := match neighbour s.part t d with
    | some u => if dieOfTile u ≠ dieOfTile t then 4 else 0
    | none => 0
  4 + edge + fifoExtra (s.tile t) ((if p = .vector then 8 else 0) + dirIndex d)

/-! Registers. -/

/-- The key of a register in Thread.badRegs: scalar, vector (32), predicate (64). -/
def badKey (file n : Nat) : Nat := 32 * file + n

/-- The ECC trap of a source register or flit (R33, R263). -/
def eccTrap (src : Nat) (m : Mark) : TrapInfo := { trapOf .ecc 0 (word src) with mark := m }

/-- A scalar register that a load still out will write (R213, R358). -/
def LoadOut.toS (l : LoadOut) (n : Nat) : Bool :=
  match l.pend.dest with
  | .load (.gen d) _ => decide (d = n)
  | _ => false

/-- A vector register that a load still out will write. -/
def LoadOut.toV (l : LoadOut) (n : Nat) : Bool :=
  match l.pend.dest with
  | .vec (.gen d) _ _ _ _ => decide (d = n)
  | _ => false

/-- Whether a scalar register waits for a load that is out. -/
def Thread.loadsS (x : Thread) (n : Nat) : Bool := x.loads.any (fun l => l.toS n)

/-- Whether a vector register waits for a load that is out. -/
def Thread.loadsV (x : Thread) (n : Nat) : Bool := x.loads.any (fun l => l.toV n)

/-- Whether a scalar register is the destination of an outstanding CPY, STRM status (R380). -/
def Thread.awaits (x : Thread) (n : Nat) : Bool := x.awaited.any (fun a => decide (a.dest = .gen n))

/-- A scalar register as it stands: s0 is zero (R282). -/
def Thread.sreg (x : Thread) (n : Nat) : Word := if n = 0 then 0 else sparseGet 0 x.s n

/-- A scalar register written: s0 discards it (R282). -/
def Thread.setS (x : Thread) (n : Nat) (v : Word) : Thread :=
  if n = 0 then x
  else { x with s := sparseSet 0 x.s n v, badRegs := keyErase x.badRegs (badKey 0 n), toldRegs := keyErase x.toldRegs (badKey 0 n) }

/-- A vector register as it stands. -/
def Thread.vreg (x : Thread) (n : Nat) : Vec := sparseGet 0 x.v n

/-- A vector register written. -/
def Thread.setV (x : Thread) (n : Nat) (v : Vec) : Thread :=
  { x with v := sparseSet 0 x.v n v, badRegs := keyErase x.badRegs (badKey 1 n),
           toldRegs := keyErase x.toldRegs (badKey 1 n) }

/-- A predicate register as it stands: k0 is all ones (R282). -/
def Thread.kreg (x : Thread) (n : Nat) : Word := if n = 0 then BitVec.allOnes 64 else sparseGet 0 x.k n

/-- A predicate register written: k0 discards it (R282). -/
def Thread.setK (x : Thread) (n : Nat) (v : Word) : Thread :=
  if n = 0 then x
  else { x with k := sparseSet 0 x.k n v, badRegs := keyErase x.badRegs (badKey 2 n), toldRegs := keyErase x.toldRegs (badKey 2 n) }

/-- Whether the value of a register, by its key, can be read in a cycle (R305, R321, R351). -/
def Thread.ripe (x : Thread) (key cycle : Nat) : Bool := decide (sparseGet 0 x.busy key ≤ cycle)

/-- A register, by its key, that can be read `lat` cycles after the present one; an instruction issues one cycle later anyway. -/
def Thread.setBusy (x : Thread) (key cycle lat : Nat) : Thread :=
  { x with busy := sparseSet 0 x.busy key (if lat ≤ 1 then 0 else cycle + lat) }

/-- Whether every earlier instruction of a thread has retired by a cycle (R305, R417). -/
def Thread.allRipe (x : Thread) (cycle : Nat) : Bool := x.busy.all (fun e => decide (e.2 ≤ cycle))

/-- The key of an accumulator that MLD has loaded, for all that use it (R351). -/
def accKey (m : Nat) : Nat := 96 + m

/-- The key of an accumulator that a DOT or DOTMX has written, for all but these (R351). -/
def dotKey (m : Nat) : Nat := 100 + m

/-- The key of an output port that an instruction has still to push (R321, R417). -/
def portKey (p : Plane) (d : Dir) : Nat := 104 + (if p = .vector then 4 else 0) + dirIndex d

/-- A scalar register written by an instruction of a latency. -/
def Thread.putS (x : Thread) (n : Nat) (v : Word) (cycle lat : Nat) : Thread :=
  if n = 0 then x else (x.setS n v).setBusy (badKey 0 n) cycle lat

/-- A vector register written by an instruction of a latency. -/
def Thread.putV (x : Thread) (n : Nat) (v : Vec) (cycle lat : Nat) : Thread := (x.setV n v).setBusy (badKey 1 n) cycle lat

/-- A predicate register written by an instruction of a latency. -/
def Thread.putK (x : Thread) (n : Nat) (v : Word) (cycle lat : Nat) : Thread :=
  if n = 0 then x else (x.setK n v).setBusy (badKey 2 n) cycle lat

/-- A read of a scalar field (R164, R281): a port pops the head of its CIN buffer. -/
def readS (r : SReg) (s : State) : Act Word :=
  match r with
  | .gen n =>
    if s.me.awaits n then .wait .status
    else if s.me.loadsS n then .wait .global
    else if !s.me.ripe (badKey 0 n) s.cycle then .wait .unit
    else if n ≠ 0 ∧ s.me.badRegs.contains (badKey 0 n) then .trap (eccTrap 10 (.reg (badKey 0 n))) else .go (s.me.sreg n) s
  | .port d =>
    let b := s.hereTile.sc.cin d
    match b.head s.cycle with
    | none => .wait (.portIn .scalar d)
    | some f =>
      if f.bad then .trap (eccTrap 4 (.port .scalar d))
      else .go f.val (s.updHere (fun x => { x with sc := x.sc.setCin (b.pop s.cycle) d }))

/-- A read of a vector field (R164, R281). -/
def readV (r : VReg) (s : State) : Act Vec :=
  match r with
  | .gen n =>
    if s.me.loadsV n then .wait .global
    else if !s.me.ripe (badKey 1 n) s.cycle then .wait .unit
    else if s.me.badRegs.contains (badKey 1 n) then .trap (eccTrap 10 (.reg (badKey 1 n))) else .go (s.me.vreg n) s
  | .port d =>
    let b := s.hereTile.ve.cin d
    match b.head s.cycle with
    | none => .wait (.portIn .vector d)
    | some f =>
      if f.bad then .trap (eccTrap 4 (.port .vector d))
      else .go f.val (s.updHere (fun x => { x with ve := x.ve.setCin (b.pop s.cycle) d }))

/-- A read of a predicate register. -/
def readK (k : Nat) (s : State) : Act Word :=
  if !s.me.ripe (badKey 2 k) s.cycle then .wait .unit
  else if k ≠ 0 ∧ s.me.badRegs.contains (badKey 2 k) then .trap (eccTrap 10 (.reg (badKey 2 k))) else .go (s.me.kreg k) s

/-- Whether a pending instruction has reserved a push on a port (R164, R358, R380). -/
def Dest.onS (d : Dir) : Dest → Bool
  | .load (.port p) _ => decide (d = p)
  | .old (.port p) _ => decide (d = p)
  | .oldUnless (.port p) _ _ => decide (d = p)
  | _ => false

/-- Whether a pending instruction has reserved a push on a vector port. -/
def Dest.onV (d : Dir) : Dest → Bool
  | .vec (.port p) _ _ _ _ => decide (d = p)
  | _ => false

/-- The pushes that a tile's threads have reserved on a scalar port (R164). -/
def reservedS (s : State) (t : Nat) (d : Dir) : Nat :=
  ((List.range 6).map (fun k => match s.thread t k with
    | some x =>
      (match x.pend with
        | some p => bit (p.dest.onS d)
        | none => 0) + (x.awaited.filter (fun a => decide (a.dest = .port d))).length
    | none => 0)).sum

/-- The pushes that a tile's threads have reserved on a vector port. -/
def reservedV (s : State) (t : Nat) (d : Dir) : Nat :=
  ((List.range 6).map (fun k => match s.thread t k with
    | some x => (match x.pend with
        | some p => bit (p.dest.onV d)
        | none => 0)
    | none => 0)).sum

/-- The first port that is not ready (R177): a source before a full destination. -/
def firstPort {β : Type} (k : Act β) (w : Wait) : Act β :=
  match k with
  | .wait (.portIn p d) => .wait (.portIn p d)
  | _ => .wait w

/-- What must hold before an instruction may write a scalar field (R164, R380): a port has room, a register awaits no status
and no load that is out. -/
def roomS {β : Type} (r : SReg) (s : State) (k : Act β) : Act β :=
  match r with
  | .gen n => if s.me.awaits n then .wait .status else if s.me.loadsS n then .wait .global else k
  | .port d =>
    if (s.hereTile.sc.cout d).used s.cycle + reservedS s s.here.tile d < 4 then k
    else firstPort k (.portOut .scalar d)

/-- What must hold before an instruction may write a vector field (R164). -/
def roomV {β : Type} (r : VReg) (s : State) (k : Act β) : Act β :=
  match r with
  | .gen n => if s.me.loadsV n then .wait .global else k
  | .port d =>
    if (s.hereTile.ve.cout d).used s.cycle + reservedV s s.here.tile d < 4 then k
    else firstPort k (.portOut .vector d)

/-- A thread whose instruction has yet to push a port (R305, R321): until then it has not retired (R417). -/
def Thread.pushing (x : Thread) (key cycle lat : Nat) : Thread := if lat ≤ 1 then x else x.setBusy key cycle lat

/-- A scalar field of the thread in a slot written (R164, R281, R305): a port is pushed, to be seen `lat` cycles from now. -/
def writeSAt (t k : Nat) (r : SReg) (v : Word) (lat : Nat) (s : State) : State :=
  match r with
  | .gen n => s.updThread t k (fun x => x.putS n v s.cycle lat)
  | .port d =>
    (s.updTile t (fun x => { x with sc := x.sc.setCout ((x.sc.cout d).push (s.cycle + lat) v false) d })).updThread t k
      (fun x => x.pushing (portKey .scalar d) s.cycle lat)

/-- A vector field of the thread in a slot written (R164, R281, R321). -/
def writeVAt (t k : Nat) (r : VReg) (v : Vec) (lat : Nat) (s : State) : State :=
  match r with
  | .gen n => s.updThread t k (fun x => x.putV n v s.cycle lat)
  | .port d =>
    (s.updTile t (fun x => { x with ve := x.ve.setCout ((x.ve.cout d).push (s.cycle + lat) v false) d })).updThread t k
      (fun x => x.pushing (portKey .vector d) s.cycle lat)

/-- A scalar field written by the present instruction. -/
def writeS (r : SReg) (v : Word) (lat : Nat) (s : State) : State := writeSAt s.here.tile s.here.slot r v lat s

/-- A vector field written by the present instruction. -/
def writeV (r : VReg) (v : Vec) (lat : Nat) (s : State) : State := writeVAt s.here.tile s.here.slot r v lat s

/-- A predicate register written by the present instruction. -/
def writeK (k : Nat) (v : Word) (lat : Nat) (s : State) : State := s.upd (fun x => x.putK k v s.cycle lat)

/-! Retirement. -/

/-- The repeat state after the instruction at its index has retired, and the next PC (R347): `pc` follows the instruction. -/
def Rep.advance (r : Rep) (pc : Word) : Rep × Word :=
  if !r.active then (r, pc)
  else if r.idx + 1 < r.len then ({ r with idx := r.idx + 1 }, pc)
  else if r.remain ≤ 1 then (Rep.none, pc)
  else ({ r with idx := 0, remain := r.remain - 1 }, r.start)

/-- The thread in a slot goes on after an instruction of `n` bytes that wrote `v` (R347). -/
def retireAt (t k n : Nat) (v : Word) (s : State) : State :=
  match s.thread t k with
  | none => s
  | some x =>
    let a := (s.native t k).rep.advance (x.pc + word n)
    let s := if (s.native t k).rep.active then s.updNative t k (fun m => { m with rep := a.1 }) else s
    { s.setThread t k (some { x.ready with pc := a.2 }) with retired := some ⟨x.pc, a.2, v, false⟩ }

/-- The present instruction, of one word, retires having written `v`. -/
def retireV (v : Word) (s : State) : State := retireAt s.here.tile s.here.slot 4 v s

/-- The present instruction, of one word, retires. -/
def retire (s : State) : State := retireV 0 s

/-- The present instruction transfers control (R315, R316): a repeat ends, and the thread goes on at the target, no earlier than two
cycles later (R305). -/
def jump (target v : Word) (s : State) : State :=
  let pc := s.me.pc
  let s := if s.myNative.rep.active then s.updMyNative (fun n => { n with rep := Rep.none }) else s
  { s.upd (fun x => { x.ready with pc := target, issueFrom := s.cycle + 2 }) with retired := some ⟨pc, target, v, true⟩ }

/-! Traps. -/

/-- REPSTATE as of the instruction at TRAPPC (R267). -/
def repWord (r : Rep) (trappc : Word) : Word :=
  if r.active then
    word (2 ^ 63 + (r.len - 1) * 2 ^ 52 + r.idx * 2 ^ 48 + (trappc - r.start).toNat / 4 * 2 ^ 40 + r.remain)
  else 0

/-- TRAPCAUSE (R262). -/
def causeWord (c : Cause) (next inrep : Bool) : Word := word (bit inrep * 2 ^ 15 + bit next * 2 ^ 8 + causeCode c)

/-- The trap registers as R263 gives them. -/
def Thread.trapped (x : Thread) (c : TrapInfo) (inrep : Bool) : Thread :=
  { x.ready with trappc := x.pc, trapcause := causeWord c.cause c.next inrep, trapval := c.val, trapval2 := c.val2 }

/-- STATUS on entry to a handler (R265): PPL takes PL, PL is at least S, INTRAP is set. -/
def statusEnter (v : Word) : Word := word (32 + field v 0 2 * 4 + max (field v 0 2) 1)

/-- The address of a trap handler (R261). -/
def handlerPc (trapvec : Word) : Word := sext (field trapvec 2 46 * 4) 48

/-- The members of the gang chain that the thread in a slot belongs to, with its leader (R169): their tiles, none outside a
chain; where the leader has left it, the members that an instruction under way still has to reach (R170). -/
def chainOf (s : State) (t k : Nat) : List Nat :=
  let role (u : Nat) : Nat := field (s.tile u).gang 0 2
  let slot (u : Nat) : Nat := field (s.tile u).gang 16 3
  let leads (u : Nat) : Bool :=
    decide (role u = 1) && decide (slot u = k) && decide (tileY u = tileY t) && decide (u ≤ t)
      && decide (t ≤ u + field (s.tile u).gang 8 4)
  if slot t ≠ k ∨ role t = 0 then []
  else if role t = 1 then t :: chainTiles t (field (s.tile t).gang 8 4)
  else
    match ((List.range 16).map (fun i => t - i)).find? leads with
    | some u => u :: chainTiles u (field (s.tile u).gang 8 4)
    | none => match (s.tile t).gangNow with
      | some g => t :: chainTiles t g.hops
      | none => []

/-- The chain dissolved by a trap of a member (R171): every member takes ROLE SOLO and BROKEN, and fetches on its own. -/
def breakChain (s : State) (t k : Nat) : State :=
  (chainOf s t k).foldl (fun s u => s.updTile u (fun x =>
    { x with gang := word (2 ^ 19 + field x.gang 2 17 * 4), gangQ := [], gangNow := none })) s

/-- The PURE run of a thread's node inserts no more (R149). -/
def State.forbidInsert (s : State) (x : Thread) : State :=
  match x.node with
  | some a => s.updNode a (fun n => { n with look := n.look.map (fun l => { l with insert := false }) })
  | none => s

/-- Whether an error at a place has been reported (R270). -/
def markTold (s : State) (t k : Nat) (m : Mark) : Bool :=
  match m with
  | .none => true
  | .word key => !s.latent.contains (key / 8)
  | .port p d => (s.tile t).toldPorts.contains ((if p = .vector then 4 else 0) + dirIndex d)
  | .reg r => match s.thread t k with
    | some x => x.toldRegs.contains r
    | none => true
  | .acc a => (s.native t k).toldAcc.contains a

/-- An error at a place reported (R269, R270): one machine check, when it is first found. -/
def reportMark (t k : Nat) (m : Mark) (s : State) : State :=
  if markTold s t k m then s
  else match m with
    | .none => s
    | .word key => s.detect key 8
    | .port p d =>
      (s.updTile t (fun x => { x with toldPorts := keyInsert x.toldPorts ((if p = .vector then 4 else 0) + dirIndex d) })).machineCheckAll 4 t 0
    | .reg r => (s.updThread t k (fun x => { x with toldRegs := keyInsert x.toldRegs r })).machineCheckAll 10 t 0
    | .acc a => (s.updNative t k (fun x => { x with toldAcc := keyInsert x.toldAcc a })).machineCheckAll 10 t 0

/-- A trap taken by the thread in a slot (R265, R266): TRAPPC is its PC as it stands; `inrep` says whether the trapping
instruction belongs to a repeat body. BREAK under BRKHALT halts the tile. A trap that the thread does not handle escalates; PURITY
disallows insertion even where the thread handles it (R149). -/
def takeTrapAt (t k : Nat) (c0 : TrapInfo) (inrep : Bool) (s0 : State) : State :=
  let v := s0.freeWord
  let c : TrapInfo := if c0.unstated then { c0 with val := v.1 } else c0
  let halts := decide (c.cause = .brk) && (s0.tile t).brkhalt
  let s := if c0.unstated then v.2 else s0
  let s := if halts then s else reportMark t k c0.mark (breakChain s t k)
  match s.thread t k with
  | none => s
  | some x =>
    if halts then debugHaltTile (s.setThread t k (some x.ready)) t
    else
      let rep := (s.native t k).rep
      let y := x.trapped c inrep
      let s := if c.cause = .purity then s.forbidInsert x else s
      if flag x.trapvec 0 ∧ ¬ flag x.status 5 then
        let s := if isGuest k then s
          else s.updNative t k (fun n => { n with repstate := repWord rep x.pc, rep := Rep.none })
        s.setThread t k (some { y with status := statusEnter x.status, pc := handlerPc x.trapvec })
      else (s.setThread t k (some y)).escalate t k (causeCode c.cause) c.val

/-- A trap of the present instruction: nothing of it has been performed. -/
def takeTrap (c : TrapInfo) (s : State) : State :=
  takeTrapAt s.here.tile s.here.slot c s.myNative.rep.active s

/-- SOFTWARE and BREAK (R263, R418): taken after the instruction has completed; `inrep` is as at the instruction. -/
def trapAfter (c : TrapInfo) (inrep : Bool) (s : State) : State :=
  takeTrapAt s.here.tile s.here.slot { c with next := true } inrep s

/-- STATUS after ERET (R265, R419): PL takes PPL, INTRAP is clear. -/
def statusReturn (v : Word) : Word := word (field v 2 2 * 4 + field v 2 2)

/-- The words of a repeat body fetched again from its start (R267): `n` instructions, `fuel` of them left. -/
def refill (t root pl : Nat) (start : Word) : Nat → Nat → State → Except TrapInfo (List RepWord × State)
  | 0, _, s => .ok ([], s)
  | n + 1, off, s =>
    match fetchInstr s t root pl (start + word (4 * off)) with
    | .error c => .error c
    | .ok (w, s) =>
      match refill t root pl start n (off + (if isWide w.1.toNat then 2 else 1)) s with
      | .error c => .error c
      | .ok (ws, s) => .ok (⟨off, w.1, w.2⟩ :: ws, s)

/-- The return from a trap (R265, R267, R419): PL, INTRAP, the repeat state of REPSTATE and the PC of TRAPPC, or ILLEGAL where
REPSTATE cannot be restored. -/
def returnFromTrap (s : State) : Act Unit :=
  let x := s.me
  let r := if isGuest s.here.slot then 0 else s.myNative.repstate
  let bad : TrapInfo := trapOf .illegal (insnWord .eret) 0
  let back (rep : Rep) (s : State) : Act Unit :=
    let s := if isGuest s.here.slot then s else s.updMyNative (fun n => { n with rep := rep })
    let s := s.upd (fun y => { y.ready with status := statusReturn x.status, pc := x.trappc })
    .go () { s with retired := some ⟨x.pc, x.trappc, 0, true⟩ }
  if !flag r 63 then back Rep.none s
  else
    let len := field r 52 4
    let pos := field r 48 4
    let boff := field r 40 6
    let remain := field r 0 32
    if len < pos ∨ remain = 0 ∨ 31 < boff then .trap bad
    else
      let start := x.trappc - word (4 * boff)
      match refill s.here.tile x.root (field x.status 2 2) start (len + 1) 0 s with
      | .error _ => .trap bad
      | .ok (ws, s) => back ⟨true, start, len + 1, ws, pos, remain⟩ s

/-! The end of a meaning. -/

/-- The present thread waits: its instruction is tried again at its next turn (R156). -/
def waitFor (w : Wait) (s : State) : State :=
  s.upd (fun x => { x with wait := w, since := if x.wait = w then x.since else s.cycle })

/-- What an instruction's parts come to. A wait and a trap leave no effect of the instruction. -/
def finish (s : State) (r : Act Unit) : Out :=
  match r with
  | .go _ s' => .next s'
  | .wait w => .next (waitFor w s)
  | .trap c => .next (takeTrap c s)

/-- Whether an ECC trap comes from a source register, flit or accumulator (R263). -/
def Mark.source : Mark → Bool
  | .port _ _ => true
  | .reg _ => true
  | .acc _ => true
  | _ => false

/-- The state as the present instruction would find it without parity errors in its sources. -/
def State.sound (s : State) : State :=
  let head {α : Type} (b : Buf α) : Buf α := { b with flits := b.flits.map (fun f => { f with bad := false }) }
  let s := s.updHere (fun x => { x with
    sc := { x.sc with cinN := head x.sc.cinN, cinE := head x.sc.cinE, cinS := head x.sc.cinS, cinW := head x.sc.cinW },
    ve := { x.ve with cinN := head x.ve.cinN, cinE := head x.ve.cinE, cinS := head x.ve.cinS, cinW := head x.ve.cinW } })
  (s.upd (fun x => { x with badRegs := [] })).updMyNative (fun n => { n with badAcc := [] })

/-- An instruction's parts, a source with a parity error judged in its place (R263, R304): the instruction is not ready until all that it
needs is there, and ILLEGAL and PRIVILEGE come first. -/
def sourcesFirst (s : State) (f : State → Act Unit) : Act Unit :=
  match f s with
  | .trap c =>
    if c.mark.source then
      match f s.sound with
      | .wait w => .wait w
      | .trap d => if d.cause = .illegal ∨ d.cause = .privilege then .trap d else .trap c
      | .go _ _ => .trap c
    else .trap c
  | r => r

/-- A meaning of the core: it needs a thread to act on. -/
def coreOp (s : State) (f : State → Act Unit) : Out :=
  match s.cur with
  | none => .fault .nothingHere
  | some _ => finish s (sourcesFirst s f)

/-- A part that only traps under privilege level D, or S and D (R260). -/
def privileged {β : Type} (least : Nat) (i : Instr) (val2 : Word) (s : State) (r : Act β) : Act β :=
  if s.me.pl < least then .trap (trapOf .privilege (insnWord i) val2) else r

end Sys2Proof.Machine
end

