-- ==== Sys2Proof/Machine/Operands.lean ====
section
/-! DEFINITION. The operand forms of the core (R280-R283): which fields an instruction reads and in which order, where its
result goes, and how a scope operand is judged (R365). -/

namespace Sys2Proof.Machine

/-- A result of an instruction's arithmetic: a value, or a trap. -/
abbrev Val (α : Type) := Except TrapInfo α

/-- A scalar result written to d, and the instruction of `n` bytes retired. -/
def done (d : SReg) (v : Word) (lat n : Nat) (s : State) : Act Unit :=
  .go () (retireAt s.here.tile s.here.slot n v (writeS d v lat s))

/-- A checked scalar result written to d. -/
def doneVal (d : SReg) (r : Val Word) (lat : Nat) (s : State) : Act Unit :=
  match r with
  | .error c => .trap c
  | .ok v => done d v lat 4 s

/-- Form d, a, b of the scalar registers (R286, R306): `lat` is the latency of R305. -/
def scalar3 (d a b : SReg) (lat : Nat) (f : Word → Word → Val Word) (s : State) : Out :=
  coreOp s (fun s =>
    roomS d s
    ((readS a s).andThen (fun x s =>
      (readS b s).andThen (fun y s => doneVal d (f x y) lat s))))

/-- Form d, a (R286, R309). -/
def scalar2 (d a : SReg) (f : Word → Word) (s : State) : Out :=
  coreOp s (fun s => roomS d s ((readS a s).andThen (fun x s => done d (f x) 1 4 s)))

/-- Form d alone (R309, R311): `n` is the instruction's length in bytes. -/
def scalar1 (d : SReg) (n : Nat) (f : State → Word) (s : State) : Out :=
  coreOp s (fun s => roomS d s (done d (f s) 1 n s))

/-- A field that is read and then written (R283, R310, R311): the read of d follows that of a. -/
def readWrite (d : SReg) (v : Word → Word) (n : Nat) (s : State) : Act Unit :=
  (readS d s).andThen (fun x s => done d (v x) 1 n s)

/-- The scope that an operand names, or SCOPE (R365). -/
def scopeOperand {β : Type} (v : Word) (s : State) (k : Scope → Act β) : Act β :=
  match scopeOf s s.here.tile v with
  | some c => k c
  | none => .trap (trapOf .scope v 0)

/-- Guest slots have no stream registers, accumulators or repeat state (R155): an instruction that names one raises ACCESS. -/
def nativeOnly {β : Type} (s : State) (r : Act β) : Act β :=
  if isGuest s.here.slot then .trap accessNoAddr else r

/-! Elements of vectors (R318, R319). -/

/-- Whether element `j` of `size` bytes is active under a predicate (R318). -/
def activeElem (k : Word) (size j : Nat) : Bool := decide (field k (size * j) size = 2 ^ size - 1)

/-- The active elements of a predicate, in order. -/
def activeElems (k : Word) (size : Nat) : List Nat := (List.range (64 / size)).filter (activeElem k size)

/-- A vector register's value as a destination keeps it: zero for a port (R164, R319). -/
def keepOf (d : VReg) (s : State) : Vec :=
  match d with
  | .gen n => s.me.vreg n
  | .port _ => 0

/-- Element `j` of `w` bits (R318). -/
def elemAt (v : Vec) (w j : Nat) : Nat := v.toNat / 2 ^ (w * j) % 2 ^ w

/-- Elements of `w` bits put together, the first lowest. -/
def packNat (w : Nat) : List Nat → Nat
  | [] => 0
  | x :: xs => x % 2 ^ w + 2 ^ w * packNat w xs

/-- A vector of elements of `w` bits (R318). -/
def packElems (w : Nat) (xs : List Nat) : Vec := BitVec.ofNat 512 (packNat w xs)

/-- The number of elements of `w` bits (R318). -/
def lanesOf (w : Nat) : Nat := 512 / w

/-- A destination under a mask (R319): active elements take their results, the others keep. -/
def maskedElems (w : Nat) (k : Word) (keep : Vec) (res : Nat → Nat) : Vec :=
  packElems w ((List.range (lanesOf w)).map (fun j => if activeElem k (w / 8) j then res j else elemAt keep w j))

/-- A predicate destination under a mask (R319): every bit of an active element's bytes is its result, others are zero. -/
def maskedPred (w : Nat) (k : Word) (res : Nat → Bool) : Word :=
  word (packNat (w / 8) ((List.range (lanesOf w)).map (fun j =>
    if activeElem k (w / 8) j && res j then 2 ^ (w / 8) - 1 else 0)))

/-- A vector result written to d, and the instruction retired. -/
def doneV (d : VReg) (v : Vec) (lat : Nat) (s : State) : Act Unit := .go () (retire (writeV d v lat s))

/-- A predicate result written, and the instruction retired. -/
def doneK (kd : Nat) (v : Word) (lat : Nat) (s : State) : Act Unit := .go () (retire (writeK kd v lat s))

/-- Form d, a, b, k of the vector registers (R283, R287): the operands read, then the result computed from the state. -/
def vector3 (d a b : VReg) (k lat : Nat) (f : State → Vec → Vec → Word → Vec) (s : State) : Out :=
  coreOp s (fun s =>
    roomV d s
    ((readV a s).andThen (fun x s =>
      (readV b s).andThen (fun y s =>
        (readK k s).andThen (fun m s => doneV d (f s x y m) lat s)))))

/-- Form d, a, k of the vector registers. -/
def vector2 (d a : VReg) (k lat : Nat) (f : State → Vec → Word → Vec) (s : State) : Out :=
  coreOp s (fun s =>
    roomV d s
    ((readV a s).andThen (fun x s => (readK k s).andThen (fun m s => doneV d (f s x m) lat s))))

/-- The predicate result of two vectors (R319): kd, a, b, k. -/
def vectorPred (kd : Nat) (a b : VReg) (k : Nat) (f : Vec → Vec → Word → Word) (s : State) : Out :=
  coreOp s (fun s =>
    (readV a s).andThen (fun x s =>
      (readV b s).andThen (fun y s =>
        (readK k s).andThen (fun m s => doneK kd (f x y m) 2 s))))

/-- What a gang's follower executes in this step (R170): the leader's instruction, none outside a follower's slot. -/
def gangStep (s : State) : Option GangOp :=
  let x := s.hereTile
  if field x.gang 0 2 = 2 ∧ field x.gang 16 3 = s.here.slot then x.gangNow else none

end Sys2Proof.Machine
end

