-- ==== Sys2Proof/Machine/MemOps.lean ====
section
/-! DEFINITION. The shared path of every memory access of a thread (R357, R358): checks in the order of R263, the place of
performance, remote references (R192-R196), CACHE lines (R190, R191), and the completion of an instruction whose replies are
all in. -/

namespace Sys2Proof.Machine

/-- One access checked and translated (R263): alignment, purity, R181 and R182, then R204. -/
def checkAccess (va : Word) (n : Nat) (k : AccKind) (element : Nat) (s : State) : Except TrapInfo (Target × State) :=
  if va.toNat % n ≠ 0 then .error (trapOf .misalign va 0)
  else
    let pure := match placeOf s.here.tile va with
      | .glob => purityTrap s s.me va n k
      | _ => none
    match pure with
    | some c => .error c
    | none =>
      match checkPlace s s.here.tile va element with
      | .error c => .error c
      | .ok (.sram t off _) => .ok (.sram t off, s)
      | .ok _ =>
        match translate s s.here.tile s.me.root s.me.pl va k element with
        | .error c => .error c
        | .ok (m, s) => .ok (.glob m.pa m.nol1, s)

/-- The place of a trap in the order of R263, from PURITY on: what a walk meets stands at PAGE's place (R205). -/
def TrapInfo.rank (c : TrapInfo) : Nat :=
  match c.cause with
  | .purity => 0
  | .access => if c.walk then 2 else 1
  | .page => 2
  | .rewrite => 3
  | .link => 5
  | .ecc => if c.walk then 2 else 6
  | _ => 4

/-- Whether a trap is taken before another one of the same instruction (R263): by its place, then by the lowest address (R187, R204). -/
def TrapInfo.before (d c : TrapInfo) : Bool :=
  decide (d.rank < c.rank) || (decide (d.rank = c.rank) && decide (d.val.toNat < c.val.toNat))

/-- The trap that several come to (R263). -/
def firstCause : List TrapInfo → Option TrapInfo
  | [] => none
  | c :: cs =>
    match firstCause cs with
    | none => some c
    | some d => if d.before c then some d else some c

/-- A checked access, in an instruction's chain of parts. -/
def access {β : Type} (va : Word) (n : Nat) (k : AccKind) (s : State) (f : Target → State → Act β) : Act β :=
  match checkAccess va n k 0 s with
  | .error c => .trap c
  | .ok (g, s) => f g s

/-- The flits that an instruction popped between two states of its tile, first taken first (R164). -/
def poppedS (s0 s : State) : List (Dir × Word) :=
  [Dir.n, Dir.e, Dir.s, Dir.w].flatMap (fun d =>
    let b0 := (s0.hereTile.sc.cin d).flits
    (b0.take (b0.length - (s.hereTile.sc.cin d).flits.length)).map (fun f => (d, f.val)))

/-- The vector flits that an instruction popped. -/
def poppedV (s0 s : State) : List (Dir × Vec) :=
  [Dir.n, Dir.e, Dir.s, Dir.w].flatMap (fun d =>
    let b0 := (s0.hereTile.ve.cin d).flits
    (b0.take (b0.length - (s.hereTile.ve.cin d).flits.length)).map (fun f => (d, f.val)))

/-- A flit put back at the head of its buffer. -/
def Buf.unpop {α : Type} (b : Buf α) (v : α) : Buf α := { b with flits := ⟨0, v, false⟩ :: b.flits, freed := b.freed - 1 }

/-- The flits of an instruction that traps stay at the heads of their buffers (R304, R358). -/
def giveBack (t : Nat) (p : Pend) (s : State) : State :=
  let s := p.pops.foldr (fun e s => s.updTile t (fun x => { x with sc := x.sc.setCin ((x.sc.cin e.1).unpop e.2) e.1 })) s
  p.popsV.foldr (fun e s => s.updTile t (fun x => { x with ve := x.ve.setCin ((x.ve.cin e.1).unpop e.2) e.1 })) s

/-! CACHE lines (R190, R191). -/

/-- Every line of a tile's CACHE banks invalidated (R191). -/
def dropLines (t : Nat) (s : State) : State := s.updTile t (fun x => { x with lines := [] })

/-- The line of a physical address invalidated (R190, R208). -/
def dropLine (t pa : Nat) (s : State) : State := s.updTile t (fun x => { x with lines := sparseSet none x.lines (pa / 64) none })

/-- A word of a valid line of 64 bytes (R190). -/
def lineGet (x : Tile) (pa : Nat) : Option Word := (sparseGet none x.lines (pa / 64)).map (fun l => nth 0 l (pa / 8 % 8))

/-- A word with the bytes of a mask replaced. -/
def mergeWord (mask : BitVec 8) (old new : Word) : Word :=
  word (leNat (maskBytes mask (leBytes 8 old.toNat) (leBytes 8 new.toNat) 0))

/-- A line with the bytes of one word replaced. -/
def linePut (l : List Word) (i : Nat) (mask : BitVec 8) (v : Word) : List Word :=
  l.zipIdx.map (fun e => if e.2 = i then mergeWord mask e.1 v else e.1)

/-- The mask of `n` bytes at an address within its word. -/
def byteMask (pa n : Nat) : BitVec 8 := BitVec.ofNat 8 ((2 ^ n - 1) * 2 ^ (pa % 8))

/-- A store that updates a valid line (R190). -/
def lineStore (t pa : Nat) (mask : BitVec 8) (v : Word) (s : State) : State :=
  match sparseGet none (s.tile t).lines (pa / 64) with
  | some l => s.updTile t (fun x => { x with lines := sparseSet none x.lines (pa / 64) (some (linePut l (pa / 8 % 8) mask v)) })
  | none => s

/-- Whether a write of the tile to a line is still on its way to its MPT. -/
def lineBusy (s : State) (t pa : Nat) : Bool :=
  s.traffic.any (fun p => match p.body with
    | .access w _ _ a op => decide (w.tile = t) && decide (a / 64 = pa / 64) && op.writes
    | _ => false)

/-- Whether a line of memory can be filled: every word is there, none is poisoned, and none has a sealed slot to fold (R35, R104). -/
def lineClean (s : State) (pa : Nat) : Bool :=
  (List.range 8).all (fun i =>
    let a := pa / 64 * 64 + 8 * i
    (paKey s a).isSome && !s.paPoisoned a && (sealedSlots (s.mpt (homeMpt s a)) (a / 8)).isEmpty)

/-- The word at a physical address as memory holds it, with the stores of a tile to it that are still on their way. -/
def wordAhead (s : State) (t pa : Nat) : Word :=
  s.traffic.foldl (fun v p => match p.body with
    | .access w _ _ a op =>
      if w.tile = t ∧ a / 8 = pa / 8 then
        (match op with
        | .store n x => mergeWord (byteMask a n) v (x <<< (8 * (a % 8)))
        | .storeM m x => mergeWord m v x
        | _ => v)
      else v
    | _ => v) (s.paWord (pa / 8 * 8))

/-- A valid line that holds a store still on its way takes one served word (R190, R212): such a line stays, but where that word can no
longer be read. -/
def lineRefresh (t pa : Nat) (l : List Word) (s : State) : State :=
  match paKey s pa with
  | some k =>
    if s.isPoisoned k 1 then dropLine t pa s
    else s.updTile t (fun x => { x with
      lines := sparseSet none x.lines (pa / 64) (some (linePut l (pa / 8 % 8) (BitVec.allOnes 8) (wordAhead s t pa))) })
  | none => s

/-- The line of a served load filled (R190): it takes what memory holds at that moment; where a word of it cannot be filled, a valid line
goes instead, so that no later load of the tile goes back in coherence order (R212, log entry 18). Where a store of the tile to it is
on its way, a line that is not valid is not filled. -/
def lineFill (t pa : Nat) (s : State) : State :=
  if !hasCache (s.tile t) then s
  else match sparseGet none (s.tile t).lines (pa / 64), lineBusy s t pa with
    | some l, true => lineRefresh t pa l s
    | none, true => s
    | _, false =>
      if lineClean s pa then
        s.updTile t (fun x => { x with
          lines := sparseSet none x.lines (pa / 64) (some ((List.range 8).map (fun i => s.paWord (pa / 64 * 64 + 8 * i)))) })
      else dropLine t pa s

/-- Whether a store that a CACHE line of a tile may have shown is still on its way (R190, R212): no thread that may have read it leaves
before. -/
def linesBusy (s : State) (t : Nat) : Bool :=
  hasCache (s.tile t) && s.traffic.any (fun p => match p.body with
    | .access w _ _ _ op => decide (w.tile = t) && op.writes
    | _ => false)

/-- The line of an address after a reply from its MPT. -/
def lineAfter (t : Nat) (f : Nat × Bool) (s : State) : State := if f.2 then lineFill t f.1 s else dropLine t f.1 s

/-! Completion. -/

/-- The trap that a bad reply raises (R263, R224, R375). -/
def resTrap (va : Word) (element : Nat) : Res → TrapInfo
  | .poison src => trapOf .ecc va (word src)
  | .rewrite => trapOf .rewrite (word (va.toNat / 8 * 8)) 0
  | .stale nxt => trapOf .access va nxt
  | .link v2 => trapOf .link va v2
  | .overrun gen => trapOf .overrun va gen
  | _ => trapOf .access va (word (element * 256))

/-- A loaded value extended to 64 bits (R359). -/
def extendLoad (w : LdW) (v : Word) : Word :=
  match w with
  | .i8 => sext v.toNat 8
  | .i16 => sext v.toNat 16
  | .i32 => sext v.toNat 32
  | .w64 => v
  | .n8 => word (field v 0 8)
  | .n16 => word (field v 0 16)
  | .n32 => word (field v 0 32)

/-- The value of the reply with an index. -/
def Pend.value (p : Pend) (i : Nat) : Word :=
  match p.got.find? (fun e => decide (e.1 = i)) with
  | some e => e.2
  | none => 0

/-- The low `size` bytes of a word put at byte `size·i` of a vector. -/
def vecPut (v : Vec) (i size : Nat) (x : Word) : Vec :=
  let sh := 8 * size * i
  (v &&& ~~~(((1#512 <<< (8 * size)) - 1) <<< sh)) ||| (((x.setWidth 512) &&& ((1#512 <<< (8 * size)) - 1)) <<< sh)

/-- The bits of the bytes that a predicate selects (R318). -/
def spreadFrom (k : Nat) : Nat → Nat
  | 0 => 0
  | n + 1 => spreadFrom k n + (if k / 2 ^ n % 2 = 1 then 255 * 2 ^ (8 * n) else 0)

/-- The bytes that a predicate selects, as a mask of 512 bits (R318). -/
def spreadMask (k : Word) : Vec := BitVec.ofNat 512 (spreadFrom k.toNat 64)

/-- The vector that the replies make (R361, R362): `keep` outside the mask. -/
def gatherVec (p : Pend) (keep : Vec) (size : Nat) (mask : Word) : Vec :=
  let m := spreadMask mask
  (p.got.foldl (fun v e => vecPut v e.1 size e.2) keep &&& m) ||| (keep &&& ~~~m)

/-- The image that 512 word replies make of an accumulator (R350). -/
def accFromWords (p : Pend) (m : Nat) (n : Native) : Native :=
  { n with m := p.got.foldl (fun a e =>
      sparseSet 0 (sparseSet 0 a (1024 * m + 2 * e.1) (BitVec.ofNat 32 e.2.toNat)) (1024 * m + 2 * e.1 + 1)
        (BitVec.ofNat 32 (e.2.toNat / 2 ^ 32))) n.m,
           badAcc := keyErase n.badAcc m, toldAcc := keyErase n.toldAcc m }

/-- The bytes of the activation table that word replies make (R353). -/
def actFromWords (p : Pend) (n : Native) : Native :=
  { n with act := p.got.foldl (fun a e => (List.range 8).foldl (fun a j =>
      sparseSet 0 a (8 * e.1 + j) (BitVec.ofNat 8 (e.2.toNat / 2 ^ (8 * j)))) a) n.act }

/-- The bytes of 8-byte replies in index order. -/
def Pend.bytes (p : Pend) (n : Nat) : List Byte := (List.range n).flatMap (fun i => leBytes 8 (p.value i).toNat)

/-- Every Archive entry with a key, of a tenant or of any (R401), freed. -/
def freeByKey (key : List Byte) (tenant : Option Nat) (s : State) : State :=
  { s with mpts := s.mpts.map (fun m => (m.1, { m.2 with entries := m.2.entries.filter (fun e =>
      !(decide (e.key = key) && match tenant with
        | some t => decide (e.tenant = t)
        | none => true)) })) }

/-- The tenant number of a thread's node (R56): none for firmware. -/
def tenantOf (s : State) (x : Thread) : Option Nat :=
  match x.node with
  | some a => (s.node a).map (fun n => n.tenant)
  | none => none

/-- The zero-extended old value of an atomic (R366). -/
def oldValue (w32 : Bool) (v : Word) : Word := if w32 then word (field v 0 32) else v

/-- Whether a completed instruction acquires beyond the tile: a CAS that only releases does where it fails (R368). -/
def Pend.acquires (p : Pend) : Bool :=
  p.acquire || match p.dest with
    | .oldUnless _ w32 x => decide (oldValue w32 (p.value 0) ≠ oldValue w32 x)
    | _ => false

/-- The effect of an instruction whose replies are all in and good (R358). -/
def deliver (t k : Nat) (x : Thread) (p : Pend) (s : State) : State :=
  let s := if p.acquires then dropLines t s else s
  let s := p.fills.foldl (fun s f => lineAfter t f s) s
  match p.dest with
  | .load d w => writeSAt t k d (extendLoad w (p.value 0)) 1 s
  | .old d w32 => writeSAt t k d (oldValue w32 (p.value 0)) 1 s
  | .oldUnless d w32 _ => writeSAt t k d (oldValue w32 (p.value 0)) 1 s
  | .nothing => s
  | .vec d keep size mask _ => writeVAt t k d (gatherVec p keep size mask) 1 s
  | .scatter => s
  | .acc m => (s.updNative t k (accFromWords p m)).updThread t k (fun x => x.setBusy (accKey m) s.cycle 4)
  | .act => s.updNative t k (actFromWords p)
  | .key =>
    let tenant := if x.pl = 2 then none else some ((tenantOf s x).getD 0)
    freeByKey (p.bytes 4) tenant s

/-- The trap that the values of good replies raise: a nonzero reserved word of an activation table (R353). -/
def deliverTrap (p : Pend) : Option TrapInfo :=
  match p.dest with
  | .act =>
    if p.value 1 = 0 then none
    else some (trapOf .access (match p.addrs.find? (fun e => decide (e.1 = 1)) with
      | some e => e.2
      | none => 0) 0)
  | _ => none

/-- A follower's instruction done (R169). -/
def gangDone (t k : Nat) (s : State) : State :=
  if field (s.tile t).gang 0 2 = 2 ∧ field (s.tile t).gang 16 3 = k then s.updTile t (fun x => { x with gangNow := none }) else s

/-- The pending instruction of the thread in a slot completed once no reply is missing: it retires, or traps with its flits given
back (R263). -/
def finishPend (t k : Nat) (s : State) : State :=
  match s.thread t k with
  | none => s
  | some x =>
    match x.pend with
    | none => s
    | some p =>
      match p.bad with
      | some b =>
        if p.left = 0 ∨ x.wait = .await then
          let va := match p.addrs.find? (fun e => decide (e.1 = b.1)) with
            | some e => e.2
            | none => 0
          let element := match p.dest with
            | .vec _ _ _ _ gather => if gather then b.1 else 0
            | .scatter => b.1
            | _ => 0
          takeTrapAt t k (resTrap va element b.2) (s.native t k).rep.active (giveBack t p s)
        else s
      | none =>
        if p.left = 0 then
          match deliverTrap p with
          | some c => takeTrapAt t k c (s.native t k).rep.active (giveBack t p s)
          | none => gangDone t k (retireAt t k 4 0 (deliver t k x p s))
        else s

/-- The pending instruction of a thread given up before its replies are in: the flits go back, and requests that wait at a bank
are withdrawn (R188, R272, R363). -/
def withdraw (t k : Nat) (s : State) : State :=
  match s.thread t k with
  | none => s
  | some x =>
    match x.pend with
    | none => s
    | some p =>
      let s := giveBack t p s
      let s := match p.again with
        | some (pa, .load _) => poolUse s pa false
        | _ => s
      let drop (y : Tile) : Tile :=
        { y with fewait := y.fewait.filter (fun q => !(decide (q.who.uid = x.uid) && decide (q.tok = p.tok))) }
      let s : State := { s with tiles := s.tiles.map (fun e => (e.1, drop e.2)) }
      s.setThread t k (some x.ready)

/-! Issue. -/

/-- Whether an operation needs a reply from an MPT: plain stores and REDs are posted (R211, R222). -/
def MemOp.posted : MemOp → Bool
  | .store _ _ => true
  | .storeM _ _ => true
  | .red _ _ _ _ => true
  | .prefetch => true
  | .flush => true
  | _ => false

/-- A store's effect on a valid CACHE line of the tile (R190). -/
def cacheStore (t pa : Nat) (nol1 : Bool) (op : MemOp) (s : State) : State :=
  if nol1 then dropLine t pa s
  else match op with
    | .store n v => lineStore t pa (byteMask pa n) (v <<< (8 * (pa % 8))) s
    | .storeM mask v => lineStore t pa mask v s
    | .load _ => s
    | .prefetch => s
    | _ => dropLine t pa s

/-- Whether a load of a thread from the line of a physical address is still out: a later load of the line does not pass it (R212). -/
def lineOut (s : State) (w : Who) (pa : Nat) : Bool :=
  match s.thread w.tile w.slot with
  | some x => x.loads.any (fun l => l.pend.fills.any (fun f => decide (f.1 / 64 = pa / 64)))
  | none => false

/-- One access of an issued instruction begun (R190, R196, R211): performed at once on the own tile or from a CACHE line, sent to
its tile or MPT otherwise. `miss` keeps a load from CACHE lines (R211). Of an instruction of several words (`many`) the stores to SA
banks are performed at issue wherever they lie, so that no word fills between the instruction's check and its stores (R187, log entry 43). -/
def beginItem (w : Who) (miss many : Bool) (p : Pend) (i : Item) (s : State) : Pend × State :=
  match i.target with
  | .sram t off =>
    if t = w.tile || (many && i.op.writes && bankSA (s.tile t) (off / 0x10000) && (crossDown s (.tile w.tile) (.tile t)).isNone) then
      match s.performSram w p.tok t off i.op with
      | (some r, s) => (p.take i.idx r, s)
      | (none, s) => (p, s)
    else (p, s.send .req (.tile w.tile) (.tile t) (.access w p.tok i.idx off i.op))
  | .glob pa nol1 =>
    let hit := match i.op with
      | .load n =>
        if nol1 || miss || lineOut s w pa then none
        else (lineGet (s.tile w.tile) pa).map (fun v => word (field v (8 * (pa % 8)) (8 * n)))
      | _ => none
    match hit with
    | some v => (p.take i.idx (.ok v), s)
    | none =>
      let s := cacheStore w.tile pa nol1 i.op s
      let s := s.send .req (.tile w.tile) (.mpt (homeMpt s pa)) (.access w p.tok i.idx pa i.op)
      if i.op.posted then ({ p with left := p.left - 1 }, s)
      else
        let fill := !nol1 && match i.op with
          | .load _ => true
          | _ => false
        ({ p with fills := (pa, fill) :: p.fills }, s)

/-- What a thread waits for after it issued an instruction's accesses. -/
def waitOf (items : List Item) (cur : Nat) : Wait :=
  match items.find? (fun i => match i.target with
      | .sram t _ => decide (t ≠ cur)
      | _ => false) with
  | some i => (match i.op with
    | .ldw => .remoteFull
    | .ldwe => .remoteFull
    | _ => .remote)
  | none =>
    if items.any (fun i => match i.target with
      | .sram _ _ => true
      | _ => false) then .full else .global

/-- What a thread waits for once its accesses to the own tile are performed: its memory ports, or other tiles. -/
def restWait (p : Pend) : Wait := if p.todo.isEmpty then (if p.fills.isEmpty then .remote else .global) else .none

/-- The accesses of the present instruction to its own tile that are still to perform go on, at most `n` of them (R210). -/
def goOnItems (n : Nat) (p : Pend) (s : State) : State :=
  let r := (p.todo.take n).foldl (fun r i => beginItem s.who true false r.1 i r.2) ({ p with todo := p.todo.drop n }, s)
  finishPend s.here.tile s.here.slot (r.2.upd (fun x => { x with pend := some r.1, wait := restWait r.1 }))

/-- The words of a span of `n` that the present turn performs (R210). -/
def State.piece (s : State) (n : Nat) : Nat := if s.words = 0 then n else s.words

/-- An instruction that may wait for replies: while replies are missing it waits, once they are in it completes. -/
def replyOp (s : State) (f : State → Act Unit) : Out :=
  coreOp s (fun s =>
    match s.me.pend with
    | some p =>
      if !p.todo.isEmpty then .go () (goOnItems (s.piece p.todo.length) p s)
      else if p.left = 0 ∨ (p.bad.isSome ∧ s.me.wait = .await) then .go () (finishPend s.here.tile s.here.slot s) else .wait s.me.wait
    | none => f s)

/-! Loads that a thread goes on from (R213, R264, R358). -/

/-- Whether a thread goes on from an instruction's accesses before their replies are in (R264, R358): loads of global memory into a
general register, outside a gang chain. -/
def goesOn (s0 : State) (items : List Item) (dest : Dest) (acquire : Bool) : Bool :=
  !acquire && (chainOf s0 s0.here.tile s0.here.slot).isEmpty
    && items.all (fun i => match i.target with
      | .glob _ _ => true
      | _ => false)
    && match dest with
      | .load (.gen d) _ => decide (d ≠ 0)
      | .vec (.gen _) _ _ _ _ => true
      | _ => false

/-- A thread with a load's value in its register. -/
def Thread.landed (x : Thread) (p : Pend) (cycle : Nat) : Thread :=
  let x := { x with loads := x.loads.filter (fun l => decide (l.pend.tok ≠ p.tok)) }
  match p.dest with
  | .load (.gen d) w => x.putS d (extendLoad w (p.value 0)) cycle 1
  | .vec (.gen d) keep size mask _ => x.putV d (gatherVec p keep size mask) cycle 1
  | _ => x

/-- An update of a slot's thread that no trap of a load takes back: the records of its loads take it too (R264). -/
def State.updKept (s : State) (t k : Nat) (f : Thread → Thread) : State :=
  let s := s.updThread t k f
  if (s.shadow t k).isEmpty then s else s.setShadow t k ((s.shadow t k).map (fun h => { h with thread := f h.thread }))

/-- A load whose replies are in and good: its register takes its value, in the thread and in the records of the loads after it. -/
def landLoad (t k : Nat) (l : LoadOut) (s : State) : State :=
  let s := l.pend.fills.foldl (fun s f => lineAfter t f s) s
  let s := s.updThread t k (fun x => x.landed l.pend s.cycle)
  s.setShadow t k (((s.shadow t k).filter (fun h => decide (h.tok ≠ l.pend.tok))).map (fun h => { h with thread := h.thread.landed l.pend s.cycle }))

/-- Whether a packet belongs to an access of a thread, by the access's number. -/
def Packet.ofAccess (p : Packet) (uid tok : Nat) : Bool :=
  match p.body with
  | .access w n _ _ _ => decide (w.uid = uid) && decide (n = tok)
  | .reply w n _ _ => decide (w.uid = uid) && decide (n = tok)
  | _ => false

/-- Whether a packet of a load brings no trap as things stand (R214): its word is memory without an error, or its answer is good, and no
module on its way is down. -/
def harmless (s : State) (p : Packet) : Bool :=
  (crossDown s p.src p.dst).isNone && match p.body with
    | .access _ _ _ pa (.load _) =>
      (crossDown s p.dst p.src).isNone && (match paKind s pa with
        | .hbm => true
        | .direct _ _ => true
        | _ => false) && match paKey s pa with
        | some k => !s.isPoisoned k 1
        | none => false
    | .reply _ _ _ (.ok _) => true
    | _ => false

/-- Whether no load of a thread from before an access can trap any more (R214): a store is performed no sooner. -/
def loadsHarmless (s : State) (w : Who) (tok : Nat) : Bool :=
  match s.thread w.tile w.slot with
  | some x => decide (x.uid ≠ w.uid) || (x.loads.filter (fun l => decide (l.pend.tok < tok))).all (fun l =>
      l.sure || (l.pend.bad.isNone && s.traffic.all (fun p => !p.ofAccess w.uid l.pend.tok || harmless s p)))
  | none => true

/-- The loads of a thread from before a store that is performed: they trap no more (R214, log entry 97). -/
def passLoads (w : Who) (tok : Nat) (s : State) : State :=
  match s.thread w.tile w.slot with
  | some x =>
    if x.uid = w.uid ∧ !x.loads.isEmpty then
      s.setThread w.tile w.slot (some { x with loads := x.loads.map (fun l => if l.pend.tok < tok then { l with sure := true } else l) })
    else s
  | none => s

/-- The stores of a thread from after an access taken back before they are performed (R264). -/
def dropStores (uid tok : Nat) (s : State) : State :=
  let late (p : Packet) : Bool := match p.body with
    | .access w n _ _ op => decide (w.uid = uid) && decide (tok < n) && op.writes
    | _ => false
  { s with net := s.net.filter (fun p => !late p), arrived := s.arrived.filter (fun p => !late p) }

/-- The oldest load of a slot traps once its replies are in (R263, R264): the thread stands as it did before the load, and what its later
instructions did is discarded. -/
def trapLoad (t k : Nat) (s : State) : State :=
  match s.thread t k with
  | none => s
  | some x =>
    match x.loads with
    | [] => s
    | l :: _ =>
      match l.pend.bad, (s.shadow t k).find? (fun h => decide (h.tok = l.pend.tok)) with
      | some b, some h =>
        if l.pend.left ≠ 0 then s
        else
          let va := match l.pend.addrs.find? (fun e => decide (e.1 = b.1)) with
            | some e => e.2
            | none => 0
          let element := match l.pend.dest with
            | .vec _ _ _ _ gather => if gather then b.1 else 0
            | _ => 0
          let s := dropStores x.uid l.pend.tok s
          let s := s.setThread t k (some { h.thread with ev := x.ev, left := x.left, lean := x.lean })
          let s := (if isGuest k then s else s.setNative t k h.native).setShadow t k []
          takeTrapAt t k (resTrap va element b.2) h.native.rep.active (giveBack t l.pend s)
      | _, _ => s

/-- The loads of a slot as far as their replies go: good ones land, and the oldest one may trap. -/
def settleLoads (t k : Nat) (s : State) : State :=
  match s.thread t k with
  | none => s
  | some x =>
    trapLoad t k (x.loads.foldl (fun s l => if l.pend.left = 0 ∧ l.pend.bad.isNone then landLoad t k l s else s) s)

/-- What an access of an instruction does to a thread whose loads are out, as to their order (R213, R214, R264): nothing (`free`), or it
is performed where it stands, so that no earlier load may trap afterwards (`firm`), or it changes an F/E bit and waits (`held`). A store to
global memory is performed later; one that a valid line of the tile would show at once is firm. -/
inductive Passing where
  | free | firm | held
  deriving DecidableEq, Repr

/-- How an access passes the loads that are out. -/
def passing (s : State) (i : Item) : Passing :=
  match i.target with
  | .sram t off => if !i.op.writes then .free else if bankSA (s.tile t) (off / 0x10000) then .held else .firm
  | .glob pa nol1 => if i.op.writes && !nol1 && (lineGet s.hereTile pa).isSome then .firm else .free

/-- Whether an instruction's accesses wait for the loads that are out (R214, R264). -/
def waitsLoads (s : State) (items : List Item) : Bool :=
  items.any (fun i => decide (passing s i = .held))
    || (items.any (fun i => decide (passing s i = .firm)) && !loadsHarmless s s.who s.nextId)

/-- The accesses to the own tile that a turn leaves for later turns (R210): none of a store to an SA bank, whose words are written together
(R187). -/
def laterItems (s : State) (items : List Item) : List Item :=
  if items.any (fun i => match i.target with
      | .sram t off => i.op.writes && bankSA (s.tile t) (off / 0x10000)
      | _ => false) then []
  else (items.drop (s.piece items.length)).filter (fun i => match i.target with
    | .sram t _ => decide (t = s.here.tile)
    | _ => false)

/-- An instruction's accesses issued (R358): `s0` is the state before its operands were read. It completes at once where no
reply is missing; a load of global memory retires and its register waits (R264); any other waits for its replies. -/
def issue (s0 : State) (items : List Item) (dest : Dest) (miss acquire : Bool) (s : State) : Act Unit :=
  let t := s.here.tile
  let k := s.here.slot
  let todo := laterItems s items
  let p : Pend :=
    { tok := s.nextId, dest := dest, left := items.length, got := [], addrs := items.map (fun i => (i.idx, i.va)), fills := [],
      again := none, refusals := 0, resendAt := none, pops := poppedS s0 s, popsV := poppedV s0 s, acquire := acquire,
      bad := none, todo := todo }
  let out := !s0.me.loads.isEmpty
  if out && waitsLoads s items then .wait .global
  else if items.any (fun i => match i.target with
      | .sram u off => i.op.writes && justEmptied s u off
      | _ => false) then .wait .unit
  else
    let s := if out && items.any (fun i => decide (passing s i = .firm)) then passLoads s.who s.nextId s else s
    let s := { s with nextId := s.nextId + 1 }
    let r := (items.filter (fun i => !todo.contains i)).foldl
      (fun r i => beginItem s.who miss (decide (1 < items.length)) r.1 i r.2) (p, s)
    if r.1.left ≠ 0 && goesOn s0 items dest acquire then
      let s := r.2.setShadow t k ((if out then r.2.shadow t k else []) ++ [⟨p.tok, s0.me, s0.myNative⟩])
      .go () (retireAt t k 4 0 (s.updThread t k (fun x => { x with loads := x.loads ++ [⟨s0.me.pc, r.1, false⟩] })))
    else
      let s := r.2.updThread t k (fun x => { x with pend := some r.1, wait := if todo.isEmpty then waitOf items t else .none, since := s.cycle })
      .go () (if r.1.left = 0 then finishPend t k s else s)

/-! Remote references (R192-R194). -/

/-- Whether a debug halt is active in a tile's region (R179, R192). -/
def haltActive (s : State) (t : Nat) : Bool :=
  match regionOf s t with
  | some r => r.tiles.any (fun u => (s.tile u).halted || (s.tile u).halting)
  | none => (s.tile t).halted || (s.tile t).halting

/-- Whether something keeps the thread in a slot from migrating (R192). -/
def staysHere (s : State) (t k : Nat) (x : Thread) : Bool :=
  flag x.livemask 63
    || (decide ((s.tap t).state ≠ .idle) && decide ((s.tap t).slot = k))
    || (s.native t k).q.any (fun e => decide (e.2.kind ≠ .none))
    || (s.native t k).rep.active
    || (decide (field (s.tile t).gang 0 2 ≠ 0) && decide (field (s.tile t).gang 16 3 = k))
    || haltActive s t

/-- A remote reference of the present thread to a tile (R192, R194): `k` performs it as a remote access; otherwise the thread
asks for a guest slot once its results and stores are in, and waits for the grant or the refusal. Nothing of the instruction is performed
meanwhile. -/
def remoteRef (s0 : State) (owner : Nat) (k : Act Unit) : Act Unit :=
  let x := s0.me
  if x.phase = 1 then .wait .migrate
  else if staysHere s0 s0.here.tile s0.here.slot x ∨ x.phase = 2 then k
  else if !x.awaited.isEmpty || !x.loads.isEmpty || !x.allRipe s0.cycle || !s0.settled s0.here.tile x.uid
      || linesBusy s0 s0.here.tile then .wait .drain
  else
    let s := s0.send .req (.tile s0.here.tile) (.tile owner) (.migrate s0.who)
    .go () (s.upd (fun y => { y with phase := 1, wait := .migrate, since := s.cycle }))

/-- One scalar access issued: a reference to another tile may migrate the thread instead (R192). -/
def issueOne (s0 : State) (va : Word) (g : Target) (op : MemOp) (dest : Dest) (miss acquire : Bool) (s : State) : Act Unit :=
  let go := issue s0 [⟨0, va, g, op⟩] dest miss acquire s
  match g with
  | .sram t _ => if t = s.here.tile then go else remoteRef s0 t go
  | .glob _ _ => go

/-! Ordering. -/

/-- The seal markers that a thread's fence, barrier, task, launch or end sends (R104): to every MPT that holds one of the tile's
slots under the thread's RID. -/
def sendSeals (t k : Nat) (s : State) : State :=
  match s.thread t k with
  | none => s
  | some x =>
    let rid := (s.tile t).rid
    let w : Who := ⟨t, k, x.uid, rid, (s.tile t).gen⟩
    let mine := (s.tile t).redMpts.filter (fun e => decide (e.2 = rid))
    let s := mine.foldl (fun s e => s.send .req (.tile t) (.mpt e.1) (.sealed w)) s
    s.updTile t (fun y => { y with redMpts := y.redMpts.filter (fun e => decide (e.2 ≠ rid)) })

/-- Whether the tile of the present thread still owes seal markers. -/
def owesSeals (s : State) : Bool := s.hereTile.redMpts.any (fun e => decide (e.2 = s.hereTile.rid))

/-- An instruction that first sends its seal markers and waits until every earlier store, atomic and RED of the thread is
performed or sealed (R371, R373, R391, R396, R421). -/
def afterStores (s0 : State) (k : Act Unit) : Act Unit :=
  if owesSeals s0 then .go () (waitFor .drain (sendSeals s0.here.tile s0.here.slot s0))
  else if s0.settled s0.here.tile s0.me.uid then k
  else .wait .drain

/-- A releasing access waits until every earlier store of the thread is performed (R360, R366). -/
def releases (rel : Bool) (s0 : State) (k : Act Unit) : Act Unit :=
  if rel && !s0.settled s0.here.tile s0.me.uid then .wait .drain else k

end Sys2Proof.Machine
end

