-- ==== Sys2Proof/Machine/Issue.lean ====
section
/-! DEFINITION. What stands around an instruction: the clocks (R109, R159), which thread may issue (R156, R169, R277), the fetch of
its instruction or its replay (R279, R347), the charge of its issue (R158), and what a gang's members receive (R169). -/

namespace Sys2Proof.Machine

/-- The correction of the tick over `n` nanoseconds (R46): its disciplined rate and the time to be met, 100 ppm at most. -/
def slewStep (p : Ptp) (n : Nat) : Int × Ptp :=
  let most : Int := ((p.toward + n) / 10000 : Nat)
  let drift := p.part + p.rate * n
  let due := p.slew + drift / 10 ^ 9
  let d : Int := if due < -most then -most else if most < due then most else due
  (d, { p with slew := due - d, toward := (p.toward + n) % 10000, part := drift % 10 ^ 9 })

/-- The clocks advanced by a turn: cycles, device ticks of `nanos` nanoseconds of the reference oscillator as they are slewed (R46),
and ring cycles, which are steps unless the ring is stalled (R109). -/
def advance (s : State) (u : Turn) : State :=
  let d := slewStep s.ptp u.nanos
  let s := ringAdvance u.cycles u.ringCycles s
  { s with cycle := s.cycle + u.cycles, tick := s.tick + wordOfInt (u.nanos + d.1), ptp := d.2 }

/-- What a turn comes to before its instruction: an instruction to perform, or nothing. -/
inductive Prep where
  | run (i : Instr) (s : State)
  | stay (s : State)
  deriving DecidableEq, Repr

/-- LEFT after an issue (R159), under the BUDGETCFG in effect: no charge under an unlimited FILL. -/
def chargeThread (cfg : Word) (k n : Nat) (x : Thread) : Thread :=
  if fillOf cfg k = 0xFFF then x else { x with left := x.left - n }

/-- Whether a tile's region is being stopped for a pre-emption (R272): from the cycle after it began, so that a trap of that cycle is taken
first (R275). -/
def regionStopping (s : State) (t : Nat) : Bool :=
  match regionOf s t with
  | some r => s.nodes.any (fun n => decide (n.region = r.blk) && match n.stop with
    | .saving c => decide (c < s.cycle)
    | _ => false)
  | none => false

/-- Whether the core of a tile may issue for a slot: once a cycle (R156), two cycles after a transfer (R305), not in a halt but for one
step (R277), and not while its region is stopped (R81, R272). An instruction whose replies are in completes in any case. -/
def mayIssue (s : State) (t k : Nat) (x : Thread) : Bool :=
  let y := s.tile t
  !x.stopped && !tileDraining s t && decide (x.issueFrom ≤ s.cycle) && decide (y.issuedAt ≠ some s.cycle)
    && ((if y.halted then decide (y.stepOnce = some k) else !y.halting) && !regionStopping s t || match x.pend with
      | some p => decide (p.left = 0) || !p.todo.isEmpty
      | none => false)

/-- The next instruction of a gang that has come to a member, at hand once it is due (R168, R169). -/
def gangPull (t : Nat) (s : State) : State :=
  match (s.tile t).gangQ, (s.tile t).gangNow with
  | g :: gs, none => if g.due ≤ s.cycle then s.updTile t (fun x => { x with gangNow := some g, gangQ := gs }) else s
  | _, _ => s

/-- The role of a slot in a gang chain (R168, R169). -/
def gangRole (s : State) (t k : Nat) : Nat :=
  if field (s.tile t).gang 16 3 = k then field (s.tile t).gang 0 2 else 0

/-- Whether a member has not yet issued an instruction that is due to it (R169, R170). -/
def memberLate (s : State) (u k : Nat) : Bool :=
  (s.tile u).gangQ.any (fun g => decide (g.due ≤ s.cycle))
    || (match (s.tile u).gangNow, s.thread u k with
      | some _, some x => x.pend.isNone
      | _, _ => false)

/-- Whether a leader's next instruction is held (R169, R170): a member is not yet in FOLLOW, or has not issued an instruction
that was due. -/
def leaderHeld (s : State) (t k : Nat) : Bool :=
  (chainTiles t (field (s.tile t).gang 8 4)).any (fun u => decide (gangRole s u k ≠ 2) || memberLate s u k)

/-- The decoded instruction of fetched words, or ILLEGAL with the words (R298). -/
def decodedOf (w : BitVec 32 × BitVec 32) : Instr :=
  match decodeCore w.1.toNat w.2.toNat with
  | .ok i => i
  | .error _ => .illegalInstruction (word (w.1.toNat + (if isWide w.1.toNat then w.2.toNat * 2 ^ 32 else 0)))

/-- The cause of a fetch fault as its event carries it. -/
def fetchFaultOf (c : TrapInfo) : FetchFault :=
  ⟨causeCode c.cause, c.val, c.val2, match c.mark with
    | .word k => some k
    | _ => none⟩

/-- A fetched instruction kept in a repeat's buffer on its first pass (R347). -/
def keepRepeat (t k : Nat) (pc : Word) (w : BitVec 32 × BitVec 32) (s : State) : State :=
  let r := (s.native t k).rep
  if r.active ∧ r.idx = r.buf.length then
    s.updNative t k (fun n => { n with rep := { r with buf := r.buf ++ [⟨(pc - r.start).toNat / 4, w.1, w.2⟩] } })
  else s

/-- The instruction that the thread in a slot performs next: the one that waits for replies as it was fetched (R299), one replayed, or
one fetched and decoded (R279, R347). -/
def nextInstr (t k : Nat) (x : Thread) (s : State) : Prep :=
  match x.issued.filter (fun _ => x.pend.isSome) with
  | some i => .run i s
  | none =>
    match replayed (s.native t k).rep with
    | some w => .run (decodedOf (w.w0, w.w1)) s
    | none =>
      match fetchInstr s t x.root x.pl x.pc with
      | .error c => .run (.instructionFetchFault (fetchFaultOf c)) s
      | .ok (w, s) => .run (decodedOf w) (keepRepeat t k x.pc w s)

/-- A core's turn up to its instruction: nothing where the slot may not issue; the leader's instruction in a gang's follower;
else the thread's own next one. -/
def prepareCore (s0 : State) (t k : Nat) : Prep :=
  let s := { s0 with here := ⟨t, k, 0⟩, retired := none }
  match s.thread t k with
  | none => .stay s
  | some x =>
    if !mayIssue s t k x then .stay s
    else if gangRole s t k = 2 then
      match (s.tile t).gangNow with
      | some g =>
        if x.pend.isNone ∧ (chainTiles t g.hops).any (fun u => memberLate s u k) then .stay (waitFor .gang s)
        else .run g.instr (s.setThread t k (some { x with pc := g.pc }))
      | none => .stay s
    else if gangRole s t k = 1 ∧ leaderHeld s t k ∧ x.pend.isNone then .stay (waitFor .gang s)
    else nextInstr t k x s

/-- What an instruction retired with, or was issued with where replies are still missing (R169). -/
def issuedWith (before after : State) : Option Retired :=
  match after.retired with
  | some r => if before.me.pend.isSome then none else some r
  | none =>
    match before.me.pend, after.me.pend with
    | none, some _ => some ⟨before.me.pc, before.me.pc + 4, 0, false⟩
    | _, _ => none

/-- Whether the present instruction came to a trap (R265): it neither retired nor waits. Taking it replaces the thread's next issue. -/
def trapTaken (before after : State) : Bool :=
  after.retired.isNone && before.me.pend.isNone && after.me.pend.isNone && decide (after.me.wait = .none)

/-- An instruction passed to the next tile of its chain (R169): it may be executed there in the next cycle. -/
def passDown (s : State) (t : Nat) (g : GangOp) : State := s.updTile (t + 1) (fun x => { x with gangQ := x.gangQ ++ [g] })

/-- The instruction of a leader on its way down its chain (R169, R170): the one that ends the lead goes, but none after a trap has
dissolved the chain. A member passes on what it executes. -/
def goingDown (i : Instr) (before after : State) (r : Retired) : Option GangOp :=
  let t := before.here.tile
  let k := before.here.slot
  let due := after.cycle + 1
  let stays (role : Nat) : Bool := decide (gangRole after t k = role)
  let ends : Bool := match i with
    | .mts r _ => decide (r = 0x040)
    | _ => false
  if gangRole before t k = 1 then
    if stays 1 || ends then some ⟨i, r.pc, r.next, r.value, r.jumped, due, field (before.tile t).gang 8 4 - 1⟩
    else none
  else if gangRole before t k = 2 then
    match (before.tile t).gangNow with
    | some g => if g.hops ≠ 0 ∧ (stays 2 || ends) then some { g with due := due, hops := g.hops - 1 } else none
    | none => none
  else none

/-- The lean threads of a tile that an issue to a funded one has passed over (R161): LEANCYC counts, and saturates. -/
def countLean (t : Nat) (lean : List Nat) (s : State) : State :=
  lean.foldl (fun s k => s.updThread t k (fun x => { x with lean := min 0xFFFF (x.lean + 1) })) s

/-- A follower without an instruction waits for its leader (R169, R178). -/
def followerIdle (t k : Nat) (s : State) : State :=
  if gangRole s t k = 2 ∧ (s.tile t).gangNow.isNone then
    s.updThread t k (fun x => if x.wait = .none ∧ x.pend.isNone then { x with wait := .gang, since := s.cycle } else x)
  else s

/-- After a core's instruction: its issue, or a trap in its place, takes the tile's cycle and spends a step; LEFT is charged, a
follower's instruction is done once it retires, and a chain's goes down it. An instruction that waits for replies is kept (R299). -/
def settleCore (i : Instr) (before after : State) : State :=
  let t := before.here.tile
  let k := before.here.slot
  let took (s : State) : State := s.updTile t (fun x => { x with issuedAt := some after.cycle, lastSlot := k, stepOnce := none })
  let done (s : State) : State :=
    if after.retired.isSome ∧ gangRole before t k = 2 then s.updTile t (fun x => { x with gangNow := none }) else s
  match issuedWith before after with
  | none => if trapTaken before after then took after else followerIdle t k (done after)
  | some r =>
    let s := (done (took after)).updThread t k (fun x =>
      { chargeThread (before.tile t).fills k (chargeOf i) x with issued := if x.pend.isSome then some i else none })
    let s := followerIdle t k s
    match goingDown i before after r with
    | some g => passDown s t g
    | none => s

/-- The switch word that a tile's switch is to execute (R296). -/
def switchWord (x : Tile) : Word := sparseGet 0 x.sw.mem x.sw.pc

/-- A switch's turn up to its word (R165, R277, R297): nothing after SHALT, in BLOCKED, in a halt but for SSTEP, while the region
is stopped, or twice in a cycle. -/
def prepareSwitch (s0 : State) (t : Nat) : Prep :=
  let s := { s0 with here := ⟨t, 0, 0⟩, retired := none }
  let x := s.tile t
  if x.sw.halted || x.sw.blocked || decide (x.sw.ranAt = s.cycle + 1) || (if x.halted then !x.sstep else x.halting)
      || regionStopping s t then .stay s
  else match decodeSwitch (switchWord x).toNat with
    | .ok i => .run i s
    | .error _ => .run (.switchIllegalWord (switchWord x)) s

/-- After a switch word: one attempt a cycle, and a single step is spent. -/
def settleSwitch (before after : State) : State :=
  after.updTile before.here.tile (fun x => { x with sstep := false, sw := { x.sw with ranAt := before.cycle + 1 } })

/-- An event's turn: the item it acts on. -/
def prepareEvent (s : State) (h : Here) : State := { s with here := h, retired := none }

end Sys2Proof.Machine
end

