-- ==== Sys2Proof/Machine/Flags.lean ====
section
/-! DEFINITION. Floating-point flags and their traps (R237, R242, R243), and the operand forms of the floating-point vector
instructions. -/

namespace Sys2Proof.Machine

/-- What one lane raised: its index, its flags, and whether it had a signalling operand (R243). -/
structure FpLane where
  idx : Nat
  fl : FFlags
  snan : Bool
  deriving DecidableEq, Repr

/-- SNANTRAP (R237). -/
def snanTrap (fpcsr : Word) : Bool := flag fpcsr 13

/-- The flags of a list of lanes together (R243). -/
def laneFlags (ls : List FpLane) : FFlags := ls.foldl (fun a l => a ||| l.fl) 0

/-- The elements of a list as bits (R243). -/
def elementBits (ls : List FpLane) : Word := ls.foldl (fun a l => a ||| word (2 ^ l.idx)) 0

/-- Whether a lane raised an enabled flag (R243). -/
def FpLane.enabled (fpcsr : Word) (l : FpLane) : Bool := decide (Nat.land l.fl.toNat (field fpcsr 8 5) ≠ 0)

/-- The outcome of R243: a trap SNAN or FPX whose TRAPVAL2 `report` gives from the lanes that caused it, or the new FPCSR. -/
def fpOutcome (report : List FpLane → Word) (fpcsr : Word) (ls : List FpLane) : Except TrapInfo Word :=
  let all := (laneFlags ls).toNat
  if snanTrap fpcsr && ls.any (fun l => l.snan) then
    .error (trapOf .snan (word all) (report (ls.filter (fun l => l.snan))))
  else if ls.any (FpLane.enabled fpcsr) then .error (trapOf .fpx (word all) (report (ls.filter (FpLane.enabled fpcsr))))
  else .ok (fpcsr ||| word (all * 8))

/-- A floating-point instruction's flags judged and stored, before its destination is written (R243). -/
def withFlags (report : List FpLane → Word) (ls : List FpLane) (s : State) (k : State → Act Unit) : Act Unit :=
  match fpOutcome report s.me.fpcsr ls with
  | .error c => .trap c
  | .ok v => k (s.upd (fun x => { x with fpcsr := v }))

/-- A pattern as a quiet NaN where it is a signalling one. -/
def Fmt.quieted (f : Fmt) (x : Nat) : Nat := if (f.val x).isSnan then Nat.lor x (2 ^ (f.frac - 1)) else x

/-- Operands as the flags see them: under SNANTRAP a signalling NaN itself raises no NV (R242). -/
def Fmt.operand (f : Fmt) (fpcsr : Word) (x : Nat) : Nat := if snanTrap fpcsr then f.quieted x else x

/-- A lane of a function of one operand. -/
def lane1 (f : Fmt) (fpcsr : Word) (op : Nat → FRes) (x j : Nat) : Nat × FpLane :=
  let r := op (f.operand fpcsr x)
  (r.bits, ⟨j, r.fl, (f.val x).isSnan⟩)

/-- A lane of a function of two operands. -/
def lane2 (f : Fmt) (fpcsr : Word) (op : Nat → Nat → FRes) (x y j : Nat) : Nat × FpLane :=
  let r := op (f.operand fpcsr x) (f.operand fpcsr y)
  (r.bits, ⟨j, r.fl, (f.val x).isSnan || (f.val y).isSnan⟩)

/-- A lane of a function of three operands. -/
def lane3 (f : Fmt) (fpcsr : Word) (op : Nat → Nat → Nat → FRes) (x y z j : Nat) : Nat × FpLane :=
  let r := op (f.operand fpcsr x) (f.operand fpcsr y) (f.operand fpcsr z)
  (r.bits, ⟨j, r.fl, (f.val x).isSnan || (f.val y).isSnan || (f.val z).isSnan⟩)

/-- The lanes of the active elements (R243). -/
def activeLanes (w : Nat) (m : Word) (lane : Nat → Nat × FpLane) : List FpLane :=
  (activeElems m (w / 8)).map (fun j => (lane j).2)

/-- A vector floating-point result judged and written under the mask (R243, R319); `busy` takes
the unit it needs. -/
def doneF (d : VReg) (w : Nat) (m : Word) (lat : Nat) (busy : State → State) (lane : Nat → Nat × FpLane) (s : State) : Act Unit :=
  withFlags elementBits (activeLanes w m lane) s (fun s =>
    doneV d (maskedElems w m (keepOf d s) (fun j => (lane j).1)) lat (busy s))

/-- Form d, a, k of the floating-point vector instructions: `op` may depend on the rounding mode. -/
def fpVector2 (t : FTy) (d a : VReg) (k lat : Nat) (busy : State → State) (op : Fmt → Rm → Nat → FRes) (s : State) : Out :=
  coreOp s (fun s =>
    let f := fmtOf t
    roomV d s
    ((readV a s).andThen (fun x s =>
      (readK k s).andThen (fun m s =>
        let c := s.me.fpcsr
        doneF d f.width m lat busy (fun j => lane1 f c (op f (rmOf c)) (elemAt x f.width j) j) s))))

/-- Form d, a, b, k of the floating-point vector instructions. -/
def fpVector3 (t : FTy) (d a b : VReg) (k lat : Nat) (busy : State → State) (op : Fmt → Rm → Nat → Nat → FRes) (s : State) : Out :=
  coreOp s (fun s =>
    let f := fmtOf t
    roomV d s
    ((readV a s).andThen (fun x s =>
      (readV b s).andThen (fun y s =>
        (readK k s).andThen (fun m s =>
          let c := s.me.fpcsr
          doneF d f.width m lat busy (fun j => lane2 f c (op f (rmOf c)) (elemAt x f.width j) (elemAt y f.width j) j) s)))))

/-- Form d, a, b, k in which d is also read (R333): its flit follows those of a and b. -/
def fpVector4 (t : FTy) (d a b : VReg) (k lat : Nat) (op : Fmt → Rm → Nat → Nat → Nat → FRes) (s : State) : Out :=
  coreOp s (fun s =>
    let f := fmtOf t
    roomV d s
    ((readV a s).andThen (fun x s =>
      (readV b s).andThen (fun y s =>
        (readV d s).andThen (fun z s =>
          (readK k s).andThen (fun m s =>
            let c := s.me.fpcsr
            doneF d f.width m lat id
              (fun j => lane3 f c (op f (rmOf c)) (elemAt x f.width j) (elemAt y f.width j) (elemAt z f.width j) j) s))))))

/-- Whether a tile's region runs in DET mode (R97). -/
def detHere (s : State) : Bool :=
  match regionOf s s.here.tile with
  | some r => r.det
  | none => false

/-- An instruction that needs the vector divide unit (R321). -/
def vdivUnit (s : State) (r : State → Out) : Out :=
  if s.hereTile.vdivUntil ≤ s.cycle then r s else coreOp s (fun _ => .wait .unit)

/-- The position of the greatest power of two below n, for the tree of R105. -/
def belowPow (n : Nat) : Nat := 2 ^ Nat.log2 (n - 1)

/-- The fixed shape of R105 over patterns, with the flags of every combination; `fuel` bounds its depth. -/
def treeFold (op : Nat → Nat → FRes) : Nat → List Nat → FRes
  | _, [] => ⟨0, 0⟩
  | _, [x] => ⟨x, 0⟩
  | 0, x :: _ => ⟨x, 0⟩
  | fuel + 1, xs =>
    let a := treeFold op fuel (xs.take (belowPow xs.length))
    let b := treeFold op fuel (xs.drop (belowPow xs.length))
    let r := op a.bits b.bits
    ⟨r.bits, a.fl ||| b.fl ||| r.fl⟩

/-- A collective reduction over the leaves of ranks 0 and up (R97, R105): each rank reduces its own leaves, ranks without leaves are dropped,
and the values of the rest are reduced in rank order. No instruction and no unit of the part performs one by itself: this is the value
that a program's reduction across the packages of a gang has. -/
def collective (f : Fmt) (ranks : List (List Nat)) : Nat :=
  let add := f.add .rne
  let values := (ranks.filter (fun xs => !xs.isEmpty)).map (fun xs => (treeFold add xs.length xs).bits)
  (treeFold add values.length values).bits

end Sys2Proof.Machine
end

