-- ==== Sys2Proof/Machine/MemInstr.lean ====
section
/-! DEFINITION. Loads and stores, vector accesses, gathers and scatters, full/empty instructions, prefetch and cache maintenance
(R357-R365). -/

namespace Sys2Proof.Machine

/-- Bytes of a load width (R289). -/
def ldBytes : LdW → Nat
  | .i8 => 1
  | .n8 => 1
  | .i16 => 2
  | .n16 => 2
  | .i32 => 4
  | .n32 => 4
  | .w64 => 8

/-- Bytes of a store width, or of a gather's element (R289). -/
def stBytes : StW → Nat
  | .b1 => 1
  | .b2 => 2
  | .b4 => 4
  | .b8 => 8

/-- EA of LD and ST (R357): a signed offset in units of the access size. -/
def scaledEa (base : Word) (size : Nat) (off : BitVec 12) : Word := base + wordOfInt (size * sextInt off.toNat 12)

/-- EA of the full/empty instructions (R357): a signed offset in words. -/
def wordEa (base : Word) (imm : BitVec 15) : Word := base + wordOfInt (8 * sextInt imm.toNat 15)

/-- EA of the cache maintenance instructions (R357). -/
def byteEa (base : Word) (imm : BitVec 15) : Word := base + sext imm.toNat 15

/-- A load at EA into d (R359): `miss` keeps it from CACHE lines (R211), `acquire` makes it an acquire. -/
def loadAt (s0 : State) (w : LdW) (d : SReg) (ea : Word) (miss acquire : Bool) (s : State) : Act Unit :=
  access ea (ldBytes w) .read s (fun g s => issueOne s0 ea g (.load (ldBytes w)) (.load d w) miss acquire s)

/-- A store of a value at EA (R359). -/
def storeAt (s0 : State) (w : StW) (ea v : Word) (s : State) : Act Unit :=
  access ea (stBytes w) .write s (fun g s => issueOne s0 ea g (.store (stBytes w) v) .nothing false false s)

/-- LD (R359). -/
def execLd (w : LdW) (d a : SReg) (off : BitVec 12) (s : State) : Out :=
  replyOp s (fun s0 => roomS d s0 ((readS a s0).andThen (fun x s => loadAt s0 w d (scaledEa x (ldBytes w) off) false false s)))

/-- ST (R359). -/
def execSt (w : StW) (a b : SReg) (off : BitVec 12) (s : State) : Out :=
  replyOp s (fun s0 =>
    (readS a s0).andThen (fun x s => (readS b s).andThen (fun v s => storeAt s0 w (scaledEa x (stBytes w) off) v s)))

/-- LD.acq (R360): an acquire at the scope in b. -/
def execLdAcq (w : LdW) (d a b : SReg) (s : State) : Out :=
  replyOp s (fun s0 =>
    roomS d s0
    ((readS a s0).andThen (fun x s =>
      (readS b s).andThen (fun sc s =>
        scopeOperand sc s (fun c => loadAt s0 w d x (c.wide s s.here.tile) true s)))))

/-- ST.rel (R360): a release at the scope in b, of the data in d. -/
def execStRel (w : StW) (d a b : SReg) (s : State) : Out :=
  replyOp s (fun s0 =>
    (readS a s0).andThen (fun x s =>
      (readS b s).andThen (fun sc s =>
        (readS d s).andThen (fun v s =>
          scopeOperand sc s (fun _ => releases true s0 (storeAt s0 w x v s))))))

/-- The lowest byte that a predicate selects of `n`, from byte `i` on. -/
def firstByte (k : Nat) : Nat → Nat → Option Nat
  | 0, _ => none
  | n + 1, i => if k / 2 ^ i % 2 = 1 then some i else firstByte k n (i + 1)

/-- The target of the word at a byte offset of a 64-byte block, from the target of the block's byte `b` (R361). -/
def wordTarget (g : Target) (b off : Nat) : Target :=
  match g with
  | .sram t o => .sram t (o - b + off)
  | .glob pa nol1 => .glob (pa - b + off) nol1

/-- The words of a 64-byte block of which a predicate selects a byte. -/
def touchedWords (k : Word) : List Nat := (List.range 8).filter (fun i => decide (field k (8 * i) 8 ≠ 0))

/-- The purity trap of a vector access in global memory, at its lowest active byte that offends (R148, R361). -/
def blockPurity (ea k : Word) (kind : AccKind) (s : State) : Option TrapInfo :=
  match placeOf s.here.tile ea with
  | .glob => ((List.range 64).filter (fun i => flag k i)).findSome? (fun i => purityTrap s s.me (ea + word i) 1 kind)
  | _ => none

/-- A vector access of 64 bytes (R361): checked at its lowest active byte. `k` continues with that byte and its target. -/
def blockAccess (ea k : Word) (kind : AccKind) (s : State) (idle : Act Unit) (f : Nat → Target → State → Act Unit) : Act Unit :=
  match firstByte k.toNat 64 0 with
  | none => idle
  | some b =>
    if ea.toNat % 64 ≠ 0 then .trap (trapOf .misalign ea 0)
    else match blockPurity ea k kind s with
      | some c => .trap c
      | none => access (ea + word b) 1 kind s (f b)

/-- LDV (R361). -/
def execLdv (d : VReg) (a b : SReg) (k : Nat) (s : State) : Out :=
  replyOp s (fun s0 =>
    roomV d s0
    ((readS a s0).andThen (fun x s =>
      (readS b s).andThen (fun y s =>
        (readK k s).andThen (fun m s =>
          blockAccess (x + y) m .read s (.go () (retire (writeV d (keepOf d s) 1 s)))
            (fun b g s =>
              issue s0 ((touchedWords m).map (fun i => ⟨i, x + y + word (8 * i), wordTarget g b (8 * i), .load 8⟩))
                (.vec d (keepOf d s) 8 m false) false false s))))))

/-- The full SA words among the words of a store (R187). -/
def firstFull (s : State) : List (Word × Target) → Option Word
  | [] => none
  | (va, .sram t off) :: xs => if saFull s t off then some va else firstFull s xs
  | _ :: xs => firstFull s xs

/-- STV (R361): every touched word is checked for REWRITE before any is written. -/
def execStv (d : VReg) (a b : SReg) (k : Nat) (s : State) : Out :=
  replyOp s (fun s0 =>
    (readS a s0).andThen (fun x s =>
      (readS b s).andThen (fun y s =>
        (readV d s).andThen (fun v s =>
          (readK k s).andThen (fun m s =>
            blockAccess (x + y) m .write s (.go () (retire s))
              (fun b g s =>
                let ws := touchedWords m
                match firstFull s (ws.map (fun i => (x + y + word (8 * i), wordTarget g b (8 * i)))) with
                | some va => .trap (trapOf .rewrite va 0)
                | none =>
                  issue s0 (ws.map (fun i => ⟨i, x + y + word (8 * i), wordTarget g b (8 * i),
                      .storeM (BitVec.ofNat 8 (field m (8 * i) 8)) (v.extractLsb' (64 * i) 64)⟩)) .scatter false false s))))))

/-- The address of element `j` of a gather or scatter (R362). -/
def elemEa (base : Word) (idx : Vec) (size j : Nat) : Word := base + word (size * (idx.extractLsb' (8 * size * j) (8 * size)).toNat)

/-- The elements of a gather or scatter checked in order (R362): the trap of the lowest that fails. A scatter also fails on a
full SA word. -/
def checkElems (base : Word) (idx : Vec) (size : Nat) (kind : AccKind) : List Nat → State → Except TrapInfo (List (Nat × Word × Target) × State)
  | [], s => .ok ([], s)
  | j :: js, s =>
    let va := elemEa base idx size j
    match checkAccess va size kind j s with
    | .error c => .error c
    | .ok (g, s) =>
      let full := match kind, g with
        | .write, .sram t off => saFull s t off
        | _, _ => false
      if full then .error (trapOf .rewrite (word (va.toNat / 8 * 8)) 0)
      else match checkElems base idx size kind js s with
        | .error c => .error c
        | .ok (r, s) => .ok ((j, va, g) :: r, s)

/-- The predicate bytes of the active elements. -/
def elemMask (k : Word) (size : Nat) : Word :=
  (activeElems k size).foldl (fun m j => m ||| word ((2 ^ size - 1) * 2 ^ (size * j))) 0

/-- LDG (R362). -/
def execLdg (w : StW) (d : VReg) (a : SReg) (b : VReg) (k : Nat) (s : State) : Out :=
  replyOp s (fun s0 =>
    roomV d s0
    ((readS a s0).andThen (fun x s =>
      (readV b s).andThen (fun y s =>
        (readK k s).andThen (fun m s =>
          let size := stBytes w
          match checkElems x y size .read (activeElems m size) s with
          | .error c => .trap c
          | .ok (es, s) =>
            issue s0 (es.map (fun e => ⟨e.1, e.2.1, e.2.2, .load size⟩)) (.vec d (keepOf d s) size (elemMask m size) true) false false s)))))

/-- A target's word and the byte offset in it. -/
def targetWord (g : Target) : Target × Nat :=
  match g with
  | .sram t off => (.sram t (off / 8 * 8), off % 8)
  | .glob pa nol1 => (.glob (pa / 8 * 8) nol1, pa % 8)

/-- Elements put together by word, in ascending order, so that the highest element of a byte stays (R362). -/
def scatterInsert (size : Nat) (e : Nat × Word × Target) (x : Nat) : List Item → List Item
  | [] =>
    let g := targetWord e.2.2
    [⟨e.1, e.2.1, g.1, .storeM (BitVec.ofNat 8 ((2 ^ size - 1) * 2 ^ g.2)) (word (x * 2 ^ (8 * g.2)))⟩]
  | i :: is =>
    let g := targetWord e.2.2
    if i.target = g.1 then
      match i.op with
      | .storeM m v =>
        ⟨i.idx, i.va, i.target, .storeM (m ||| BitVec.ofNat 8 ((2 ^ size - 1) * 2 ^ g.2)) (setField v (8 * g.2) (8 * size) x)⟩ :: is
      | _ => i :: scatterInsert size e x is
    else i :: scatterInsert size e x is

/-- STG (R362). -/
def execStg (w : StW) (d : VReg) (a : SReg) (b : VReg) (k : Nat) (s : State) : Out :=
  replyOp s (fun s0 =>
    (readS a s0).andThen (fun x s =>
      (readV b s).andThen (fun y s =>
        (readV d s).andThen (fun v s =>
          (readK k s).andThen (fun m s =>
            let size := stBytes w
            match checkElems x y size .write (activeElems m size) s with
            | .error c => .trap c
            | .ok (es, s) =>
              let items := es.foldl (fun is e =>
                scatterInsert size e (v.extractLsb' (8 * size * e.1) (8 * size)).toNat is) []
              issue s0 items .scatter false false s)))))

/-- The target of a full/empty instruction (R363): a word of an ADDR or SA bank, else ACCESS. PURITY comes before it (R148, R263): LDW, LDWE and
FETEST read, STF and FESET write (log entry 114). -/
def feAccess (ea : Word) (kind : AccKind) (s : State) (f : Target → Act Unit) : Act Unit :=
  if ea.toNat % 8 ≠ 0 then .trap (trapOf .misalign ea 0)
  else match checkPlace s s.here.tile ea 0 with
    | .error c => .trap c
    | .ok (.sram t off _) => f (.sram t off)
    | .ok _ => .trap ((purityTrap s s.me ea 8 kind).getD (trapOf .access ea 0))

/-- LDW (R363): waits for full; an acquire at the region's scope. -/
def execLdw (d a : SReg) (imm : BitVec 15) (s : State) : Out :=
  replyOp s (fun s0 =>
    roomS d s0
    ((readS a s0).andThen (fun x s =>
      feAccess (wordEa x imm) .read s (fun g => issueOne s0 (wordEa x imm) g .ldw (.load d .w64) false true s))))

/-- Whether a target lies in an SA bank. -/
def inSA (s : State) : Target → Bool
  | .sram t off => bankSA (s.tile t) (off / 0x10000)
  | _ => false

/-- LDWE (R363): waits for full and empties the word; ACCESS in an SA bank. -/
def execLdwe (d a : SReg) (imm : BitVec 15) (s : State) : Out :=
  replyOp s (fun s0 =>
    roomS d s0
    ((readS a s0).andThen (fun x s =>
      feAccess (wordEa x imm) .read s (fun g =>
        trapsIf (inSA s g) (trapOf .access (wordEa x imm) 0)
        (issueOne s0 (wordEa x imm) g .ldwe (.load d .w64) false true s)))))

/-- STF (R363): a release at the region's scope. -/
def execStf (a b : SReg) (imm : BitVec 15) (s : State) : Out :=
  replyOp s (fun s0 =>
    (readS a s0).andThen (fun x s =>
      (readS b s).andThen (fun v s =>
        feAccess (wordEa x imm) .write s (fun g => releases true s0 (issueOne s0 (wordEa x imm) g (.stf v) .nothing false false s)))))

/-- FESET (R363): bit 0 of b. -/
def execFeset (a b : SReg) (imm : BitVec 15) (s : State) : Out :=
  replyOp s (fun s0 =>
    (readS a s0).andThen (fun x s =>
      (readS b s).andThen (fun v s =>
        feAccess (wordEa x imm) .write s (fun g => issueOne s0 (wordEa x imm) g (.feset (flag v 0)) .nothing false false s))))

/-- FETEST (R363): never waits. -/
def execFetest (d a : SReg) (imm : BitVec 15) (s : State) : Out :=
  replyOp s (fun s0 =>
    roomS d s0
    ((readS a s0).andThen (fun x s =>
      feAccess (wordEa x imm) .read s (fun g => issueOne s0 (wordEa x imm) g .fetest (.load d .w64) false false s))))

/-- The address of the line that holds EA. -/
def lineEa (ea : Word) : Word := word (ea.toNat / 64 * 64)

/-- The line that a PFETCH names filled into the tile's CACHE banks, where it translates and its page is cached there (R208). -/
def prefetchLine (ea : Word) (s : State) : State :=
  match placeOf s.here.tile ea with
  | .glob =>
    (match translate s s.here.tile s.me.root s.me.pl ea .read 0 with
    | .ok (m, s) =>
      if m.nol1 || (crossDown s (.tile s.here.tile) (.mpt (homeMpt s m.pa))).isSome then s else lineFill s.here.tile m.pa s
    | .error _ => s)
  | _ => s

/-- PFETCH (R208, R364): the line filled into the CACHE banks; the fill of the slice changes no value. A PURE run's check is seen. -/
def execPfetch (a : SReg) (imm : BitVec 15) (s : State) : Out :=
  coreOp s (fun s =>
    (readS a s).andThen (fun x s =>
      let ea := lineEa (byteEa x imm)
      match placeOf s.here.tile ea, purityTrap s s.me ea 64 .read with
      | .glob, some c => .trap c
      | _, _ => .go () (retire (prefetchLine ea s))))

/-- The line that an address names invalidated in the tile's CACHE banks, where the address translates (R208, R364). -/
def dropNamedLine (ea : Word) (s : State) : State :=
  match placeOf s.here.tile ea with
  | .glob =>
    (match translate s s.here.tile s.me.root s.me.pl ea .read 0 with
    | .ok (m, s) => dropLine s.here.tile m.pa s
    | .error _ => s)
  | _ => s

/-- CFLUSH (R208, R364): the slice's write-back changes no value. -/
def execCflush (a : SReg) (imm : BitVec 15) (s : State) : Out :=
  coreOp s (fun s => (readS a s).andThen (fun x s => .go () (retire (dropNamedLine (lineEa (byteEa x imm)) s))))

/-- CINV (R208, R364). -/
def execCinv (a : SReg) (imm : BitVec 15) (s : State) : Out :=
  coreOp s (fun s => (readS a s).andThen (fun x s => .go () (retire (dropNamedLine (lineEa (byteEa x imm)) s))))

end Sys2Proof.Machine
end

