-- ==== Sys2Proof/Machine/Atomic.lean ====
section
/-! DEFINITION. Atomic operations, ordered atomics and reductions (R221-R225, R366-R370). -/

namespace Sys2Proof.Machine

/-- Whether an ordering acquires (R290). -/
def ordAcquires : MemOrd → Bool
  | .acq => true
  | .acqrel => true
  | _ => false

/-- Whether an ordering releases (R290). -/
def ordReleases : MemOrd → Bool
  | .rel => true
  | .acqrel => true
  | _ => false

/-- The scope of an atomic's ordering (R366, R368): `r` holds it where ORD is not 0. `k` learns whether the instruction
acquires. -/
def orderScope (ord : MemOrd) (r : SReg) (s : State) (k : Bool → State → Act Unit) : Act Unit :=
  if ord = .none then k false s
  else (readS r s).andThen (fun v s => scopeOperand v s (fun _ => k (ordAcquires ord) s))

/-- Bytes of an atomic access (R290). -/
def atomBytes (w32 : Bool) : Nat := if w32 then 4 else 8

/-- AMO (R366). -/
def execAmo (op : AmoOp) (ord : MemOrd) (w32 : Bool) (d a b : SReg) (s : State) : Out :=
  replyOp s (fun s0 =>
    roomS d s0
    ((readS a s0).andThen (fun va s =>
      (readS b s).andThen (fun y s =>
        orderScope ord d s (fun acq s =>
          access va (atomBytes w32) .atomic s (fun g s =>
            releases (ordReleases ord) s0
            (issueOne s0 va g (.amo op w32 y (detHere s)) (.old d w32) true acq s)))))))

/-- CAS (R368): d holds the expected value. -/
def execCas (ord : MemOrd) (w32 : Bool) (d a b f : SReg) (s : State) : Out :=
  replyOp s (fun s0 =>
    roomS d s0
    ((readS a s0).andThen (fun va s =>
      (readS b s).andThen (fun y s =>
        (readS d s).andThen (fun x s =>
          orderScope ord f s (fun acq s =>
            access va (atomBytes w32) .atomic s (fun g s =>
              releases (ordReleases ord) s0
              (issueOne s0 va g (.cas w32 x y) (if ord = .rel then .oldUnless d w32 x else .old d w32) true acq s))))))))

/-- A checked access that must lie in global memory (R369, R370, R374). -/
def globalAccess (va : Word) (n : Nat) (kind : AccKind) (s : State) (f : Nat → Bool → State → Act Unit) : Act Unit :=
  access va n kind s (fun g s =>
    match g with
    | .glob pa nol1 => f pa nol1 s
    | .sram _ _ => .trap (trapOf .access va 0))

/-- The request of an AMOORD kept for a refusal (R225). -/
def keepRequest (pa : Nat) (op : MemOp) (t k : Nat) (s : State) : State :=
  s.updThread t k (fun x => { x with wait := if x.pend.isSome then .amoord else x.wait,
                                     pend := x.pend.map (fun p => { p with again := some (pa, op) }) })

/-- AMOORD (R369): d holds the scope, f the sequence number; acquire and release at the scope. -/
def execAmoord (op : OrdOp) (d a b f : SReg) (s : State) : Out :=
  replyOp s (fun s0 =>
    roomS d s0
    ((readS a s0).andThen (fun va s =>
      (readS b s).andThen (fun y s =>
        (readS d s).andThen (fun sc s =>
          (readS f s).andThen (fun n s =>
            scopeOperand sc s (fun _ =>
              globalAccess va 16 .atomic s (fun pa l s =>
                releases true s0
                ((issue s0 [⟨0, va, .glob pa l, .amoord op n y (detHere s)⟩] (.old d false) true true s).andThen
                  (fun _ s => .go () (keepRequest pa (.amoord op n y (detHere s)) s.here.tile s.here.slot s)))))))))))

/-- The tile owes a seal marker to the MPT of a DET floating-point RED (R103, R104). -/
def oweSeal (m : Nat) (s : State) : State :=
  s.updHere (fun x => { x with redMpts := if x.redMpts.contains (m, x.rid) then x.redMpts else x.redMpts ++ [(m, x.rid)] })

/-- RED (R370): posted; the thread does not wait. -/
def execRed (op : AmoOp) (w32 : Bool) (a b : SReg) (s : State) : Out :=
  replyOp s (fun s0 =>
    (readS a s0).andThen (fun va s =>
      (readS b s).andThen (fun y s =>
        globalAccess va (atomBytes w32) .atomic s (fun pa l s =>
          let det := detHere s
          let s := if det && decide (op = .fadd) then oweSeal (homeMpt s pa) s else s
          issue s0 [⟨0, va, .glob pa l, .red op w32 y det⟩] .nothing true false s))))

end Sys2Proof.Machine
end

