-- ==== Sys2Proof/Machine/Sync.lean ====
section
/-! DEFINITION. Fences, barriers and arrival words as a thread uses them (R371-R378). -/

namespace Sys2Proof.Machine

/-- What a completed fence discards (R371): the lookahead of the slot's read streams, and the CACHE lines beyond the tile's
scope. -/
def fenced (wide : Bool) (s : State) : State :=
  let s := s.dropAhead s.here.tile s.here.slot
  if wide then dropLines s.here.tile s else s

/-- FENCE and FENCESC (R371). -/
def fenceOp (a : SReg) (s : State) : Out :=
  coreOp s (fun s0 =>
    (readS a s0).andThen (fun v s =>
      scopeOperand v s (fun c => afterStores s0 (.go () (retire (fenced (c.wide s s.here.tile) s))))))

/-- FENCE (R371). -/
def execFence (a : SReg) (s : State) : Out := fenceOp a s

/-- FENCESC (R371, R219): steps are one total order, in which the fence stands at its completion. -/
def execFencesc (a : SReg) (s : State) : Out := fenceOp a s

/-- The counter of a barrier of a region (R372). -/
def barAt (r : RegionRec) (id : Nat) : Bar := sparseGet ⟨0, 0, 0, 0⟩ r.bars id

/-- Whether a scope reaches another package of the domain (R372). -/
def reachesOut (s : State) (c : Scope) : Bool :=
  (decide (c.pkg = 0xFFFF) && s.links.domain.any (fun p => decide (p ≠ pkgId s)))
    || (decide (c.pkg ≠ 0xFFFF) && decide (c.pkg ≠ pkgId s))

/-- The gang launch of the present thread's node, where it is one (R75). -/
def gangHere (s : State) : Option Gang :=
  match s.me.node with
  | some a => (s.node a).bind (fun n => n.gang)
  | none => none

/-- The Scheduler Unit that holds a region's barrier counters (R372): that of the die of its origin. -/
def barUnit (r : RegionRec) : Node := .su (dieOf r.x0 r.y0)

/-- A gang message on its way to a package (R75, R372). -/
def tellGang (src : Node) (who : Nat × Nat) (m : GangMsg) (s : State) : State :=
  s.send .req src .outside (.gangMsg who.1 who.2 m)

/-- The arrivals of other packages in a phase that completes are answered (R372, R373). -/
def answerFar (r : RegionRec) (id : Nat) (s : State) : State :=
  (r.barFar.filter (fun f => decide (f.1 = id))).foldl (fun s f => tellGang (barUnit r) (f.2.1, f.2.2.1) (.barAnswer f.2.2.2 0) s)
    (s.updRegion r.blk (fun r => { r with barFar := r.barFar.filter (fun f => decide (f.1 ≠ id)) }))

/-- An arrival at a barrier (R373): counted, and the phase completed where it is the last. -/
def arrive (r : RegionRec) (id : Nat) (scope : Word) (need : Nat) (s : State) : State :=
  let b := barAt r id
  let n := b.count + 1
  let b' : Bar := if n = need then ⟨0, b.phase + 1, 0, 0⟩ else ⟨n, b.phase, scope, need⟩
  let s := s.updRegion r.blk (fun r => { r with bars := sparseSet ⟨0, 0, 0, 0⟩ r.bars id b' })
  if n = need ∧ !r.barFar.isEmpty then answerFar r id s else s

/-- Whether an arrival differs from the phase that a barrier is in (R373): it raises ACCESS and is not counted. -/
def barDiffers (b : Bar) (scope : Word) (need : Nat) : Bool :=
  decide (b.count ≠ 0) && (decide (b.scope ≠ scope) || decide (b.need ≠ need))

/-- An arrival of another package at the home of a gang (R372): counted at once, refused where it differs from its phase or the home's node
holds no region. -/
def arriveFar (pkg node : Nat) (home : NodeRec) (id : Nat) (scope : Word) (need token : Nat) (s : State) : State :=
  match s.region home.region with
  | none => tellGang (.su home.die) (pkg, node) (.barAnswer token (word (id * 2 ^ 16 + need))) s
  | some r =>
    if barDiffers (barAt r id) scope need then
      tellGang (barUnit r) (pkg, node) (.barAnswer token (word (id * 2 ^ 16 + need))) s
    else
      let r' := { r with barFar := r.barFar ++ [(id, pkg, node, token)] }
      arrive r' id scope need (s.updRegion r.blk (fun r => { r with barFar := r.barFar ++ [(id, pkg, node, token)] }))

/-- The package and node that count a thread's arrival where they are another package's (R372): the home of its gang. -/
def barHome (s : State) (c : Scope) : Option (Nat × Nat) :=
  if reachesOut s c then
    match gangHere s with
    | some g => if g.home then none else g.members.head?
    | none => none
  else none

/-- An arrival sent to the home of the thread's gang (R372): the thread waits for its answer under a token, and takes its operands only
with it. -/
def arriveAway (r : RegionRec) (home : Nat × Nat) (id : Nat) (scope : Word) (need : Nat) (s : State) : State :=
  let token := s.nextId
  let s := tellGang (barUnit r) home (.barArrive id scope need token) { s with nextId := token + 1 }
  waitFor .bar (s.upd (fun x => { x with barPhase := some (16 + id, token) }))

/-- The barrier left once its phase is complete (R373): an acquire. -/
def leaveBar (s : State) : State :=
  retire ((fenced true s).upd (fun x => { x with barPhase := none }))

/-- BAR before its arrival (R372, R373): beyond a module that is down the arrival is held (R20). -/
def enterBar (s0 : State) (scope pw : Word) (c : Scope) (s : State) : Act Unit :=
  let bad := trapOf .access pw 0
  if !c.contains s s.here.tile then .trap (trapOf .scope scope 0)
  else if field pw 20 44 ≠ 0 ∨ field pw 0 16 = 0 then .trap bad
  else match regionOf s s.here.tile with
    | none => .trap bad
    | some r =>
      let id := field pw 16 4
      let b := barAt r id
      let up := (crossDown s (.tile s.here.tile) (barUnit r)).isNone
      let back := (crossDown s (barUnit r) (.tile s.here.tile)).isNone
      if reachesOut s c && (gangHere s).isNone then .trap bad
      else match barHome s c with
        | some h => afterStores s0 (needs up .bar (.go () (arriveAway r h id scope (field pw 0 16) s0)))
        | none =>
          if barDiffers b scope (field pw 0 16) then .trap bad
          else afterStores s0 (needs up .bar
            (let s := arrive r id scope (field pw 0 16) s
             if b.count + 1 = field pw 0 16 ∧ back then .go () (leaveBar s)
             else .go () (waitFor .bar (s.upd (fun x => { x with barPhase := some (id, b.phase) })))))

/-- A wait for an arrival counted by another package over (R372): the thread leaves with its operands taken, or takes ACCESS. -/
def awayAnswered (r : RegionRec) (a b : SReg) (token : Nat) (refused : Word) (s0 : State) : Act Unit :=
  let s := (s0.updRegion r.blk (fun r => { r with barDone := r.barDone.filter (fun e => decide (e.1 ≠ token)) })).upd
    (fun x => { x with barPhase := none })
  if refused = 0 then (readS a s).andThen (fun _ s => (readS b s).andThen (fun _ s => .go () (leaveBar s)))
  else .go () (takeTrap (trapOf .access refused 0) s)

/-- BAR (R372, R373): a thread that has arrived waits for its phase and does not arrive again. The end of the phase is held by a module
that is down (R20). -/
def execBar (a b : SReg) (s : State) : Out :=
  coreOp s (fun s0 =>
    match s0.me.barPhase with
    | some w =>
      (match regionOf s0 s0.here.tile with
      | some r =>
        let back := (crossDown s0 (barUnit r) (.tile s0.here.tile)).isNone
        if 16 ≤ w.1 then
          match r.barDone.find? (fun e => decide (e.1 = w.2)), back with
          | some e, true => awayAnswered r a b w.2 e.2 s0
          | _, _ => .wait .bar
        else if (barAt r w.1).phase ≠ w.2 ∧ back then .go () (leaveBar s0) else .wait .bar
      | none => .wait .bar)
    | none =>
      (readS a s0).andThen (fun v s =>
        (readS b s).andThen (fun w s => scopeOperand v s (fun c => enterBar s0 v w c s))))

/-- The physical address of an arrival word (R374, R378): of a pool handle itself, or a global address checked and translated. -/
def arrivalTarget (va : Word) (kind : AccKind) (s : State) (k : Nat → Bool → State → Act Unit) : Act Unit :=
  if isHandle va then
    if va.toNat % 16 ≠ 0 then .trap (trapOf .misalign va 0)
    else if poolAllocated s (field va 0 52) then k (field va 0 52) false s
    else .trap (trapOf .access va 0)
  else globalAccess va 16 kind s k

/-- AEXP (R376): the thread waits for the reply. -/
def execAexp (a b : SReg) (s : State) : Out :=
  replyOp s (fun s0 =>
    (readS a s0).andThen (fun va s =>
      (readS b s).andThen (fun y s =>
        arrivalTarget va .atomic s (fun pa l s => issue s0 [⟨0, va, .glob pa l, .aexp (field y 0 48)⟩] .nothing true false s))))

/-- An AWAIT's wait over (R377, R378): its use of a pool word ends, and it completes or traps. -/
def awaitDone (t k pa : Nat) (p : Pend) (s : State) : State :=
  finishPend t k ((poolUse s pa false).updThread t k (fun x => { x with pend := some { p with left := 0 } }))

/-- Whether a waiting AWAIT is over (R377): marked by an OVERRUN, poisoned, or satisfied; what it then ends with. -/
def awaitVerdict (s : State) (p : Pend) : Option (Nat × Pend) :=
  match p.again with
  | some (pa, .load g) =>
    let a := arrivalAt s pa
    if p.bad.isSome then some (pa, p)
    else if a.2 then some (pa, { p with bad := some (0, .poison (poisonSource s pa)) })
    else if reached a.1.gen g then some (pa, p)
    else none
  | _ => none

/-- The state in which a waiting AWAIT reads its word (R104), a poison of it found (R270). -/
def awaitFold (s : State) (p : Pend) : State :=
  match p.again with
  | some (pa, _) =>
    let s := arrivalFold s pa
    if (arrivalAt s pa).2 then detectArrival pa s else s
  | none => s

/-- The end of an AWAIT's wait, where it is over (R377): beyond a module that is down the word's state does not cross, and the thread takes
LINK (R20). -/
def awaitEnd (t k : Nat) (p : Pend) (s0 : State) : Option State :=
  let s := awaitFold s0 p
  match awaitVerdict s p with
  | none => none
  | some v =>
    match crossDown s (.mpt (homeMpt s v.1)) (.tile t) with
    | some m => some (awaitDone t k v.1 { p with bad := some (0, .link (linkVal2 m)) } s0)
    | none => some (awaitDone t k v.1 v.2 s)

/-- The wait of an AWAIT begun (R377): it counts as a use of a pool word. -/
def beginAwait (s0 : State) (va : Word) (pa g : Nat) (s : State) : State :=
  let p : Pend :=
    { tok := s.nextId, dest := .nothing, left := 1, got := [], addrs := [(0, va)], fills := [], again := some (pa, .load g),
      refusals := 0, resendAt := none, pops := poppedS s0 s, popsV := [], acquire := true, bad := none, todo := [] }
  let s := { s with nextId := s.nextId + 1 }
  poolUse (s.upd (fun x => { x with pend := some p, wait := .await, since := s.cycle })) pa true

/-- The storage key of the first poisoned word of an arrival word. -/
def arrivalKey (s : State) (pa : Nat) : Nat := (paKey s (if s.paPoisoned pa then pa else pa + 8)).getD 0

/-- AWAIT (R377): d holds the scope. The acquire is of the counted bytes (R228), also of those that a copy of this tile counted. -/
def execAwait (d a b : SReg) (s : State) : Out :=
  coreOp s (fun s0 =>
    match s0.me.pend with
    | some p =>
      (match awaitEnd s0.here.tile s0.here.slot p s0 with
      | some s => .go () s
      | none => .wait .await)
    | none =>
      (readS a s0).andThen (fun va s =>
        (readS b s).andThen (fun y s =>
          (readS d s).andThen (fun sc s =>
            scopeOperand sc s (fun _ =>
              arrivalTarget va .await s (fun pa _ s =>
                needs (!lineBusy s s.here.tile pa && !lineBusy s s.here.tile (pa + 8)) .drain
                (let s := arrivalFold s pa
                 let w := arrivalAt s pa
                 let g := field y 0 16
                 match crossDown s (.tile s.here.tile) (.mpt (homeMpt s pa)) with
                 | some m => .trap (trapOf .link va (linkVal2 m))
                 | none =>
                 if w.2 then .trap (eccWord va (poisonSource s pa) (arrivalKey s pa))
                 else if reached w.1.gen g then .go () (retire (dropLines s.here.tile s))
                 else if w.1.st = 2 then .trap (trapOf .overrun va (word w.1.gen))
                 else .go () (beginAwait s0 va pa g s))))))))

/-- The first number of a pool from `i` on that no used word has; the list rises. -/
def firstFree : List Nat → Nat → Nat
  | [], i => i
  | k :: ks, i => if k = i then firstFree ks (i + 1) else i

/-- A free word of an MPT's pool (R378). -/
def freePoolWord (s : State) (m : Nat) : Option Nat :=
  let x := s.mpt m
  let used := (x.pool.filter (fun e => e.2.alloc || decide (e.2.uses ≠ 0))).map Prod.fst
  let i := firstFree used 0
  if i < carveBytes x.carve 16 / 16 then some i else none

/-- The physical address of a pool word (R197, R201). -/
def poolPa (s : State) (m i : Nat) : Nat :=
  0x800100000000 + m * 0x1000000 + carveBytes (s.mpt m).carve 12 + 16 * i

/-- A pool word taken (R378): zeroed and allocated to the tile's RID. -/
def takePoolWord (m i : Nat) (s : State) : State :=
  let s := s.putBytes (areaKey .pool m (16 * i)) (List.replicate 16 0)
  s.updMpt m (fun x => poolSet x i ⟨true, 0, s.hereTile.rid⟩)

/-- AALLOC (R378). -/
def execAalloc (d : SReg) (k : Nat) (s : State) : Out :=
  coreOp s (fun s =>
    roomS d s
    (let m := mptOfTile s.here.tile
     match freePoolWord s m with
     | some i => done d (word (2 ^ 63 + poolPa s m i)) 1 4 (writeK k (BitVec.allOnes 64) 1 (takePoolWord m i s))
     | none => done d 0 1 4 (writeK k 0 1 s)))

/-- What AFREE of an operand that names no allocated pool word raises: MISALIGN first (R263, R357), PURITY for an address in global memory
(R148), else ACCESS. -/
def afreeTrap (s : State) (va : Word) : TrapInfo :=
  if va.toNat % 16 ≠ 0 then trapOf .misalign va 0
  else match placeOf s.here.tile va, purityTrap s s.me va 16 .atomic with
  | .glob, some c => c
  | _, _ => trapOf .access va 0

/-- AFREE (R378): ACCESS for a global address or a word that is not allocated. -/
def execAfree (a : SReg) (s : State) : Out :=
  coreOp s (fun s0 =>
    (readS a s0).andThen (fun va s =>
      if isHandle va && poolAllocated s (field va 0 52) && decide (va.toNat % 16 = 0) then
        match poolAt s (field va 0 52) with
        | some p => .go () (retire (s.updMpt p.1 (fun m =>
            let w := poolGet m p.2
            poolSet m p.2 { w with alloc := false, rid := 0 })))
        | none => .trap (trapOf .access va 0)
      else .trap (afreeTrap s0 va)))

end Sys2Proof.Machine
end

