-- ==== Sys2Proof/Machine/Mpt.lean ====
section
/-! DEFINITION. What arrives at a memory-port tile and what comes back: accesses, REDs, seal markers, ordered atomics, their replies
and refusals, invalidations, counts, and the remote accesses of tiles (R104, R150, R196, R211, R222-R225, R358, R375, R377). -/

namespace Sys2Proof.Machine

/-- The arrived packet that an event acts on, where no older one of its class, source and destination waits before it (R172). -/
def State.herePacket (s : State) : Option Packet :=
  (s.packet s.here.item).filter (fun p => !behind p s.arrived)

/-- An event that acts on an arrived packet: with none it changes nothing. `f` is given the state without the packet. -/
def onPacket (s : State) (f : Packet → State → Option State) : Out :=
  match s.herePacket with
  | none => .next s
  | some p =>
    match f p (s.dropPacket p.id) with
    | some s' => .next s'
    | none => .next s

/-- Whether a tile still holds the placement that an agent's tag names. -/
def samePlacement (s : State) (t : Nat) (w : Who) : Bool :=
  decide ((s.tile t).rid = w.rid) && decide ((s.tile t).gen = w.gen)

/-- The node that an agent works for. -/
def nodeOfWho (s : State) (w : Who) : Option Nat := if samePlacement s w.tile w then (s.tile w.tile).node else none

/-- The bytes that an access moves at its MPT (R60, log entry 22). -/
def MemOp.moved : MemOp → Nat
  | .load n => n
  | .store n _ => n
  | .storeM mask _ => ((List.range 8).filter (fun i => mask.getLsbD i)).length
  | .amo _ w32 _ _ => if w32 then 4 else 8
  | .cas w32 _ _ => if w32 then 4 else 8
  | .red _ w32 _ _ => if w32 then 4 else 8
  | .amoord _ _ _ _ => 8
  | .aexp _ => 8
  | _ => 0

/-- The bytes of an access charged to its node (R60). -/
def State.chargeAccess (s : State) (w : Who) (op : MemOp) : State := s.chargeNode (nodeOfWho s w) op.moved

/-- The pending instruction of a thread, where it is the one a reply names. -/
def pendOf (s : State) (w : Who) (tok : Nat) : Option Pend :=
  match s.thread w.tile w.slot with
  | some x => if x.uid = w.uid then x.pend.filter (fun p => decide (p.tok = tok)) else none
  | none => none

/-- A reply taken by a load that its thread went on from (R264). -/
def replyLoad (w : Who) (tok idx : Nat) (r : Res) (s : State) : State :=
  match s.thread w.tile w.slot with
  | some x =>
    if x.uid = w.uid ∧ x.loads.any (fun l => decide (l.pend.tok = tok)) then
      settleLoads w.tile w.slot (s.setThread w.tile w.slot (some { x with
        loads := x.loads.map (fun l => if l.pend.tok = tok then { l with pend := l.pend.take idx r } else l) }))
    else s
  | none => s

/-- A reply taken by its thread, whose instruction completes or traps with the last (R358, R196, R264); run-ahead ends (R162). -/
def takeReply (w : Who) (tok idx : Nat) (r : Res) (s : State) : State :=
  let s := s.setAhead w.tile w.slot none
  match pendOf s w tok with
  | some _ => finishPend w.tile w.slot (s.replyHere w tok idx r)
  | none => replyLoad w tok idx r s

/-- Whether a packet belongs to a load that a later store of its thread has passed, which traps no more (R214). -/
def Packet.sure (p : Packet) (s : State) : Bool :=
  let mine (w : Who) (tok : Nat) : Bool := match s.thread w.tile w.slot with
    | some x => decide (x.uid = w.uid) && x.loads.any (fun l => decide (l.pend.tok = tok) && l.sure)
    | none => false
  match p.body with
  | .access w tok _ _ _ => mine w tok
  | .reply w tok _ _ => mine w tok
  | _ => false

/-- Whether a packet is a write of a thread to the word that a packet of its own reads. -/
def Packet.writesFor (p q : Packet) : Bool :=
  match p.body, q.body with
  | .access w _ _ a op, .access v _ _ b _ => decide (p.id < q.id) && decide (w.uid = v.uid) && decide (a / 8 = b / 8) && op.writes
  | _, _ => false

/-- A packet performed, or an answer taken, in this step. -/
def serveNow (p : Packet) (s : State) : State :=
  let s : State := { s with net := s.net.filter (fun q => decide (q.id ≠ p.id)), arrived := s.arrived.filter (fun q => decide (q.id ≠ p.id)) }
  match p.body with
  | .access w tok idx a op =>
    let r := (s.chargeAccess w op).performPa w a op
    if op.posted then r.2 else takeReply w tok idx r.1 r.2
  | .reply w tok idx r => takeReply w tok idx r s
  | _ => s

/-- What comes before a change that would make a load trap which a later store of its thread has passed (R214, R270): the load is performed
and answered first, after the writes of its thread to the word (R212; log entry 97). -/
def serveSure (f : Packet → Bool) (s : State) : State :=
  let loads := s.traffic.filter (fun p => p.sure s && f p)
  (s.traffic.filter (fun p => loads.contains p || loads.any (fun q => p.writesFor q))).foldl (fun s p => serveNow p s) s

/-- Whether a packet is an access to the word of a storage key. -/
def Packet.atKey (p : Packet) (s : State) (k : Nat) : Bool :=
  match p.body with
  | .access _ _ _ a _ => (paKey s a).any (fun x => decide (x / 8 = k / 8))
  | _ => false

/-- The word of a storage key about to be poisoned: loads that trap no more are performed before (R270). -/
def State.beforePoison (k : Nat) (s : State) : State := serveSure (fun p => p.atKey s k) s

/-- Whether an older store of the same tile to the word waits at the MPT (R214). -/
def behindHeld (s : State) (w : Who) (id a : Nat) : Bool :=
  s.arrived.any (fun q => decide (q.cls = .side) && decide (q.id < id) && match q.body with
    | .access v _ _ b op => decide (v.tile = w.tile) && decide (a / 8 = b / 8) && op.writes
    | _ => false)

/-- An access performed at its home MPT, and answered where an answer is due. A write to a configuration window may take memory away. -/
def mptAccess (m : Nat) (w : Who) (tok idx a : Nat) (op : MemOp) (s : State) : State :=
  let s := if op.writes then passLoads w tok s else s
  let s := if op.writes && isConfig s a then serveSure (fun _ => true) s else s
  let r := (s.chargeAccess w op).performPa w a op
  let t := ordAfter r.2 a op
  if op.posted then t else t.replyAfter s.nextId (.mpt m) w tok idx r.1

/-- MPT_ACCESS (R211): performed at the home MPT; the reply, where one is due, goes back in class RSP. Ordered atomics of the cell are
judged again after a write (R224). A write whose thread has an earlier load that may still trap waits at the MPT, and lets what comes after
it pass (R214). -/
def execMptAccess (s : State) : Out :=
  onPacket s (fun p s =>
    match p.body, p.dst with
    | .access w tok idx a op, .mpt m =>
      (match op with
      | .red .. => none
      | .amoord .. => none
      | _ =>
        if behindHeld s w p.id a then none
        else if op.writes && !loadsHarmless s w tok then
          (if p.cls = .side then none else some { s with arrived := s.arrived ++ [{ p with cls := .side }] })
        else some (mptAccess m w tok idx a op s))
    | _, _ => none)

/-- MPT_RED (R222, R103): one that finds no free slot stays where it is until a fold frees one (R104). -/
def execMptRed (s : State) : Out :=
  onPacket s (fun p s =>
    match p.body, p.dst with
    | .access w _ _ a (.red op w32 y det), .mpt _ =>
      if redBlocked s w a (.red op w32 y det) then none
      else some (ordRejudge ((s.chargeAccess w (.red op w32 y det)).performPa w a (.red op w32 y det)).2 a)
    | _, _ => none)

/-- The CACHE lines of a tile over the slots that its marker seals at an MPT invalidated (R190, R223): a line filled since the RED lacks
it. -/
def dropSealed (m tile rid : Nat) (s : State) : State :=
  ((s.mpt m).reds.filter (fun r => decide (r.tile = tile) && decide (r.rid = rid))).foldl (fun s r => dropLine tile r.addr s) s

/-- SEAL_MARKER (R104). -/
def execSealMarker (s : State) : Out :=
  onPacket s (fun p s =>
    match p.body, p.dst with
    | .sealed w, .mpt m => some ((dropSealed m w.tile w.rid s).updMpt m (fun x => sealSlots x w.tile w.rid))
    | _, _ => none)

/-- MPT_AMOORD (R224, R225), also on registers of a configuration window. A cell where nothing is answers ACCESS (R197). -/
def execMptAmoord (s : State) : Out :=
  onPacket s (fun p s =>
    match p.body, p.dst with
    | .access w tok _ a (.amoord op n y det), .mpt m =>
      if (paKey s a).isNone && !isConfig s a then some (s.reply (.mpt m) w tok 0 .access)
      else some (ordArrive (s.chargeAccess w (.amoord op n y det)) ⟨w, tok, a, op, n, y, det⟩)
    | _, _ => none)

/-- The wait before a refused AMOORD is sent again (R225): `k` refusals so far. -/
def resendDelay (k : Nat) : Nat := 64 * 2 ^ min k 6

/-- A refusal taken by its thread (R225). -/
def takeRefusal (w : Who) (tok : Nat) (s : State) : State :=
  match pendOf s w tok with
  | some p =>
    s.updThread w.tile w.slot (fun x =>
      { x with pend := some { p with refusals := p.refusals + 1, resendAt := some (s.cycle + resendDelay (p.refusals + 1)) } })
  | none => s

/-- LOAD_REPLY (R358): a reply from an MPT; a refused AMOORD is to be sent again (R225). -/
def execLoadReply (s : State) : Out :=
  onPacket s (fun p s =>
    match p.body, p.src with
    | .reply w tok idx r, .mpt _ => some (takeReply w tok idx r s)
    | .refusal w tok _, .mpt _ => some (takeRefusal w tok s)
    | _, _ => none)

/-- AMOORD_RESEND (R225). -/
def execAmoordResend (s : State) : Out :=
  match s.cur with
  | none => .next s
  | some x =>
    match x.pend with
    | none => .next s
    | some p =>
      match p.again, p.resendAt with
      | some (pa, .amoord op n y det), some c =>
        if s.cycle < c then .next s
        else
          let s := s.upd (fun x => { x with pend := some { p with resendAt := none } })
          .next (s.send .req (.tile s.here.tile) (.mpt (homeMpt s pa)) (.access s.who p.tok 0 pa (.amoord op n y det)))
      | _, _ => .next s

/-- REMOTE_ACCESS_REQUEST (R196): performed at the owning bank, or waiting there for a full word (R188). One of another placement is
discarded. -/
def execRemoteAccessRequest (s : State) : Out :=
  onPacket s (fun p s =>
    match p.body, p.dst with
    | .access w tok idx a op, .tile t =>
      if !samePlacement s t w then some s
      else if op.writes && justEmptied s t a then none
      else
        match s.performSram w tok t a op with
        | (some r, s) => some (s.reply (.tile t) w tok idx r)
        | (none, s) => some s
    | _, _ => none)

/-- REMOTE_ACCESS_REPLY (R196). -/
def execRemoteAccessReply (s : State) : Out :=
  onPacket s (fun p s =>
    match p.body, p.src with
    | .reply w tok idx r, .tile _ => some (takeReply w tok idx r s)
    | _, _ => none)

/-- A count of 8 bytes at an arrival word (R375): the new state, or none where the word is poisoned and nothing is counted. -/
def countWord (s : State) (aw : Nat) : Option State :=
  let s := arrivalFold s aw
  let a := arrivalAt s aw
  if a.2 then none else some (ordRejudge (arrivalPut s aw (arrivalCounted a.1 8) none) (aw + 8))

/-- POISONED set in the status of the copy or stream of a number (R375, R384). -/
def markPoisoned (id : Nat) (s : State) : State :=
  { s with copies := s.copies.map (fun c => if c.id = id then { c with poisoned := true } else c),
           edges := s.edges.map (fun e => if e.id = id then { e with poisoned := true } else e) }

/-- Whether a copy or stream of a number is under way: a killed one counts nothing more (R81, R230). -/
def engineLives (s : State) (id : Nat) : Bool :=
  s.copies.any (fun c => decide (c.id = id)) || s.edges.any (fun e => decide (e.id = id))

/-- ARRIVAL_COUNT (R375, R383): one written word counts 8 bytes; the packet stays while it has more to count. -/
def execArrivalCount (s : State) : Out :=
  onPacket s (fun p s =>
    match p.body with
    | .count id aw n =>
      if !engineLives s id then some s
      else
      let s' := match countWord s aw with
        | some s' => s'
        | none => markPoisoned id (detectArrival aw s)
      some (if 8 < n then { s' with arrived := { p with body := .count id aw (n - 8) } :: s'.arrived } else s')
    | _ => none)

/-- AWAIT_COMPLETE (R377). -/
def execAwaitComplete (s : State) : Out :=
  match s.cur with
  | none => .next s
  | some x =>
    match x.wait, x.pend with
    | .await, some p =>
      (match awaitEnd s.here.tile s.here.slot p s with
      | some t => .next t
      | none => .next (awaitFold s p))
    | _, _ => .next s

/-- A bank's acknowledgement of an invalidation counted (R150). -/
def acknowledge (id : Nat) (s : State) : State :=
  { s with unacked := (s.unacked.map (fun u => if u.id = id then { u with left := u.left - 1 } else u)).filter
             (fun u => decide (u.left ≠ 0)) }

/-- ARCHIVE_INVALIDATE (R150): the bank frees every entry over the chunk and acknowledges. -/
def execArchiveInvalidate (s : State) : Out :=
  onPacket s (fun p s =>
    match p.body, p.dst with
    | .invalidate c id, .mpt b => some (acknowledge id (s.updMpt b (fun m => m.invalidate c)))
    | _, _ => none)

/-- RAEN (R160), as the BUDGETCFG in effect has it (R159). -/
def runAheadOn (s : State) (t : Nat) : Bool := flag (s.tile t).fills 63

/-- The registers that an instruction's replies will write (R162), by their keys. -/
def Dest.keys : Dest → List Nat
  | .load (.gen d) _ => [badKey 0 d]
  | .vec (.gen d) _ _ _ _ => [badKey 1 d]
  | _ => []

/-- A copy with registers marked invalid (R162): no cycle of the copy reads them. -/
def Thread.invalid (x : Thread) (keys : List Nat) : Thread :=
  { x with busy := keys.foldl (fun b n => if n = 0 then b else sparseSet 0 b n (2 ^ 200)) x.busy }

/-- Whether a pending instruction loads global memory into a register. -/
def Dest.loads : Dest → Bool
  | .load _ _ => true
  | .vec _ _ _ _ _ => true
  | _ => false

/-- The checkpoint copy of a slot that waits for global loads (R162): behind the load that holds it, the registers of what is missing
invalid. -/
def checkpoint (x : Thread) (n : Native) : Ahead :=
  let y := { x.ready with loads := [], busy := [] }
  let y := y.invalid (x.loads.flatMap (fun l => l.pend.dest.keys))
  match x.pend with
  | some p =>
    let a := n.rep.advance (x.pc + 4)
    ⟨{ y.invalid p.dest.keys with pc := a.2 }, { n with rep := a.1 }⟩
  | none => ⟨y, n⟩

/-- RUN_AHEAD_BEGIN (R162): the miss notice has come, and a checkpoint copy goes on. Only global loads make a thread wait so. -/
def execRunAheadBegin (s : State) : Out :=
  match s.cur with
  | none => .next s
  | some x =>
    let t := s.here.tile
    let k := s.here.slot
    let held : Bool := match x.pend with
      | some p => p.dest.loads
      | none => !x.loads.isEmpty
    if x.wait = .global ∧ held ∧ (s.aheadOf t k).isNone ∧ runAheadOn s t ∧ chainOf s t k = [] ∧ !haltActive s t then
      .next (s.setAhead t k (some (checkpoint x (s.native t k))))
    else .next s

/-- RUN_AHEAD_PREFETCH (R163): a fill of the slice, which no value shows. -/
def execRunAheadPrefetch (s : State) : Out :=
  onPacket s (fun p s =>
    match p.body with
    | .access _ _ _ _ .prefetch => some s
    | _ => none)

end Sys2Proof.Machine
end

