-- ==== Sys2Proof/Machine/Migrate.lean ====
section
/-! DEFINITION. Migration (R192-R195) and the end of a thread (R91, R421). -/

namespace Sys2Proof.Machine

/-- A free guest slot of a tile (R194): without a thread and not reserved. -/
def freeGuest (s : State) (t : Nat) : Option Nat :=
  [4, 5].find? (fun k => (s.thread t k).isNone && !(s.tile t).reserved.contains k)

/-- A guest slot reserved for a thread, and the grant (R194). The thread to come occupies the tile for its node (R64). -/
def grantSlot (s : State) (t k : Nat) (w : Who) : State :=
  let node := (s.thread w.tile w.slot).bind (fun x => x.node)
  (s.updTile t (fun x => { x with reserved := keyInsert x.reserved k, retired := x.retired && !(x.node.isSome && decide (x.node = node)) })).send
    .rsp (.tile t) (.tile w.tile) (.grant w t k)

/-- The oldest queued request granted where a guest slot is free (R194). -/
def grantQueued (s : State) (t : Nat) : State :=
  match (s.tile t).inbound, freeGuest s t with
  | q :: qs, some k => grantSlot (s.updTile t (fun x => { x with inbound := qs })) t k q.1
  | _, _ => s

/-- A region's quiescence counted from now on at the earliest (R178). -/
def unquiet (t : Nat) (s : State) : State :=
  match regionOf s t with
  | some r => s.updRegion r.blk (fun x => { x with quietFrom := some s.cycle })
  | none => s

/-- A free native slot of a tile (R91). -/
def freeNative (s : State) (t : Nat) : Option Nat := [0, 1, 2, 3].find? (fun k => (s.thread t k).isNone)

/-- A thread gone from its slot: its tap returns to IDLE (R129), and the slot is free for another. -/
def endThread (t k : Nat) (s : State) : State :=
  let s := if (s.tap t).state ≠ .idle ∧ (s.tap t).slot = k then tapToIdle s t else s
  let s := if (freeNative s t).isNone then s.updTile t (fun x => { x with idleFrom := s.cycle }) else s
  let s := ((s.setThread t k none).setNative t k Native.fresh).setShadow t k []
  let s := unquiet t (s.setAhead t k none)
  if isGuest k then grantQueued s t else s

/-- MIGRATE_REQUEST (R194): granted, queued among 8, or refused. -/
def execMigrateRequest (s : State) : Out :=
  onPacket s (fun p s =>
    match p.body, p.dst with
    | .migrate w, .tile t =>
      if !samePlacement s t w then some s
      else
        match freeGuest s t with
        | some k => some (grantSlot s t k w)
        | none =>
          if (s.tile t).inbound.length < 8 then
            some (s.updTile t (fun x => { x with inbound := x.inbound ++ [(w, s.cycle)] }))
          else some (s.send .rsp (.tile t) (.tile w.tile) (.refuse w))
    | _, _ => none)

/-- MIGRATE_QUEUE_TIMEOUT (R194): after 4096 cycles. -/
def execMigrateQueueTimeout (s : State) : Out :=
  let t := s.here.tile
  match (s.tile t).inbound with
  | q :: qs =>
    if q.2 + 4096 ≤ s.cycle then
      .next ((s.updTile t (fun x => { x with inbound := qs })).send .rsp (.tile t) (.tile q.1.tile) (.refuse q.1))
    else .next s
  | [] => .next s

/-- The registers that LIVEMASK names (R193, R195). -/
def liveRegs (x : Thread) : Thread :=
  { x with s := x.s.filter (fun e => flag x.livemask e.1), v := x.v.filter (fun e => flag x.livemask (28 + e.1)),
           k := x.k.filter (fun e => flag x.livemask (55 + e.1)),
           badRegs := x.badRegs.filter (fun b => flag x.livemask (if b < 32 then b else if b < 64 then b - 4 else b - 9)) }

/-- The state that a thread carries (R195). -/
def carried (x : Thread) : Thread :=
  { liveRegs x with wait := .none, phase := 0, pend := none, awaited := [], ev := false, yielded := 0, barPhase := none }

/-- Whether a thread waits for the answer to its migration request. -/
def migrating (x : Thread) (w : Who) : Bool := decide (x.uid = w.uid) && decide (x.wait = .migrate) && decide (x.phase = 1)

/-- A reserved guest slot that no thread will take: free again, for the oldest queued request (R194). -/
def unreserve (owner k : Nat) (w : Who) (s : State) : State :=
  if samePlacement s owner w then grantQueued (s.updTile owner (fun x => { x with reserved := keyErase x.reserved k })) owner else s

/-- MIGRATE_GRANT (R194): the state is sent in class TSK, and the slot is free. A grant waits while a debug halt is active in the region
(R277); one whose thread has stopped waiting for it frees the slot. -/
def execMigrateGrant (s : State) : Out :=
  onPacket s (fun p s =>
    match p.body with
    | .grant w owner k =>
      match (s.thread w.tile w.slot).filter (fun x => migrating x w) with
      | some x =>
        if haltActive s w.tile then
          (if p.cls = .side then none else some { s with arrived := s.arrived ++ [{ p with cls := .side }] })
        else
          let s := sendSeals w.tile w.slot s
          some (endThread w.tile w.slot (s.send .tsk (.tile w.tile) (.tile owner) (.moved ⟨carried x, k⟩ w.rid w.gen)))
      | none => some (unreserve owner k w s)
    | _ => none)

/-- MIGRATE_REFUSE (R194): the reference will be a remote access. -/
def execMigrateRefuse (s : State) : Out :=
  onPacket s (fun p s =>
    match p.body with
    | .refuse w =>
      some (s.updThread w.tile w.slot (fun x => if migrating x w then { x with phase := 2, wait := .none } else x))
    | _ => none)

/-- MIGRATE_STATE_ARRIVE (R195): the thread resumes in the reserved guest slot, with an acquire on its new tile (R191, R231); one of
another placement, or of a region that drains, is discarded (R81, R87). -/
def execMigrateStateArrive (s : State) : Out :=
  onPacket s (fun p s =>
    match p.body, p.dst with
    | .moved m rid gen, .tile t =>
      if (s.tile t).rid = rid ∧ (s.tile t).gen = gen ∧ !tileDraining s t then
        let s := s.updTile t (fun x => { x with reserved := keyErase x.reserved m.slot })
        some (((dropLines t s).setNative t m.slot Native.fresh).setThread t m.slot
          (some { m.thread with left := fillOf (s.tile t).fills m.slot, lean := 0 }))
      else some s
    | _, _ => none)

end Sys2Proof.Machine
end

