-- ==== Sys2Proof/Machine/Network.lean ====
section
/-! DEFINITION. The dynamic and bulk networks (R33, R172-R175), UCIe modules (R20-R22), and deadlock detection on the static planes
(R176, R177). -/

namespace Sys2Proof.Machine

/-- The module that is down on a packet's path (R20). -/
def downModule (s : State) (p : Packet) : Option Nat :=
  if p.cls = .side then none else crossDown s p.src p.dst

/-- The key of a router's power state (R175): its net, and a tile's index or 3072 plus an MPT's. -/
def routerKey (bulk : Bool) (n : Nat) : Nat := bit bulk * 4096 + n

/-- The router of an endpoint (R175). -/
def routerOf : Node → Option Nat
  | .tile t => some t
  | .mpt m => some (3072 + m)
  | .su d => some (serviceTile d)
  | .outside => none

/-- The thread whose pending instruction a packet belongs to. -/
def pendingOf (b : Body) : Option (Who × Nat × Nat) :=
  match b with
  | .access w tok idx _ op => if op.posted then none else some (w, tok, idx)
  | .reply w tok idx _ => some (w, tok, idx)
  | _ => none

/-- Whether a tile's task buffer and spill are full (R87). -/
def taskRoom (x : Tile) : Nat :=
  64 + (match spillBank x with
    | some _ => 1024
    | none => 0)

/-- Whether an endpoint refuses a packet: only tasks are ever refused (R87, R172). Machine checks have 16 places of their own
(R269), and a host's message is answered BUSY (R42). -/
def refused (s : State) (p : Packet) : Bool :=
  match p.body, p.dst with
  | .task k, .tile t => !k.check && k.host.isNone && decide (taskRoom (s.tile t) ≤ ((s.tile t).tasks.filter (fun x => !x.check)).length)
  | _, _ => false

/-- A packet in flight. -/
def State.inFlight (s : State) (id : Nat) : Option Packet := s.net.find? (fun p => decide (p.id = id))

/-- A packet taken out of flight. -/
def State.unsend (s : State) (id : Nat) : State := { s with net := s.net.filter (fun p => decide (p.id ≠ id)) }

/-- The numbers from the lesser to the greater of two. -/
def between (a b : Nat) : List Nat := (List.range (max a b - min a b + 1)).map (fun i => min a b + i)

/-- The routers at which a packet's header is presented (R172, R175): those of its ends, and of the tiles on its way, first along X, then
along Y. -/
def pathRouters (a b : Node) : List Nat :=
  [a, b].filterMap routerOf ++ match nodeCoord a, nodeCoord b with
    | some p, some q => (between p.1 q.1).map (fun x => tileAt x p.2) ++ (between p.2 q.2).map (fun y => tileAt q.1 y)
    | _, _ => []

/-- The routers of a packet's way awake, with their idle count restarted (R175). -/
def wakePath (s : State) (p : Packet) : State :=
  let ks := (pathRouters p.src p.dst).map (routerKey (decide (p.cls = .bulk)))
  { s with links := { s.links with asleep := s.links.asleep.filter (fun k => !ks.contains k),
                                   routerIdle := ks.foldl (fun m k => sparseSet 0 m k s.cycle) s.links.routerIdle } }

/-- PACKET_DELIVER (R172): in order per class, source and destination, an answer once its writes are acknowledged (R150); a crossing that is down holds the packet, and a thread whose
data it is takes LINK (R20). -/
def execPacketDeliver (s : State) : Out :=
  match s.inFlight s.here.item with
  | none => .next s
  | some p =>
    if s.cycle < p.notBefore ∨ behind p s.net ∨ s.unacked.any (fun u => p.after.contains u.id) then .next s
    else match downModule s p with
      | some m =>
        (match pendingOf p.body with
        | some w => .next (takeReply w.1 w.2.1 w.2.2 (.link (linkVal2 m)) s)
        | none => .next s)
      | none =>
        if refused s p then .next s
        else
          let s := wakePath (s.unsend p.id) p
          .next { s with arrived := s.arrived ++ [p] }

/-- What a lost packet leaves (R33): LINK at the thread that waits for it, a refusal of a migration. A MSG whose task is lost is never
answered, and its session goes on (log entry 91). -/
def lostPacket (p : Packet) (s : State) : State :=
  match p.body, pendingOf p.body with
  | .migrate w, _ => s.updThread w.tile w.slot (fun x => if migrating x w then { x with phase := 2, wait := .none } else x)
  | .task t, _ => t.host.elim s (fun m => forgetMsg m s)
  | _, some w => takeReply w.1 w.2.1 w.2.2 (.link 0) s
  | _, none => s

/-- The router index of an endpoint in a machine check (R269). -/
def routerIndex (n : Node) : Nat := (routerOf n).getD 0

/-- DYNAMIC_CRC_RETRY (R33): after 8 retries LINK at the destination, and a machine check; a load that a store of its thread has passed is not
lost so (log entry 97). Its unit is the router of the packet's destination and
its word 1 is 0, the model's choice (log entry 86). -/
def execDynamicCrcRetry (s : State) : Out :=
  match s.inFlight s.here.item with
  | none => .next s
  | some p =>
    if p.cls = .bulk ∨ p.cls = .side ∨ (p.sure s ∧ 8 ≤ p.retries) then .next s
    else if p.retries < 8 then
      .next { s with net := s.net.map (fun x => if x.id = p.id then { x with retries := x.retries + 1 } else x) }
    else .next ((lostPacket p (s.unsend p.id)).machineCheckAll 5 (routerIndex p.dst) 0)

/-- ROUTER_POWER_DOWN (R175): after 4096 cycles without a header; latency only. A pass-through router (R17) stays powered; those of
spared columns have no index (R16). -/
def execRouterPowerDown (net : RouterNet) (router : Nat) (s : State) : Out :=
  let k := routerKey (decide (net = .bulk)) router
  if sparseGet 0 s.links.routerIdle k + 4096 ≤ s.cycle ∧ !(decide (router < 3072) && s.part.passes router) then
    .next { s with links := { s.links with asleep := keyInsert s.links.asleep k } }
  else .next s

/-- ROUTER_WAKE (R175): the header that wakes it restarts its idle count, so it wins over a power-down of its cycle. -/
def execRouterWake (net : RouterNet) (router : Nat) (s : State) : Out :=
  let k := routerKey (decide (net = .bulk)) router
  .next { s with links := { s.links with asleep := keyErase s.links.asleep k, routerIdle := sparseSet 0 s.links.routerIdle k s.cycle } }

/-! UCIe modules (R20, R21). -/

/-- The dies on the two sides of a module (R22). -/
def moduleDies (m : Nat) : List Nat :=
  if m < 24 then [0, 1] else if m < 48 then [2, 3] else if m < 80 then [0, 2] else if m < 112 then [1, 3]
  else if m < 128 then [0, 1] else if m < 144 then [1, 3] else if m < 160 then [3, 2] else [2, 0]

/-- The ring lane and the crossing that a ring module carries (R21, R22). -/
def moduleLane (m : Nat) : Option (Nat × Nat) := if 112 ≤ m ∧ m < 176 then some ((m - 112) % 16 / 2, (m - 112) / 16) else none

/-- A beat whose lane goes down at a crossing (R21): where it has yet to cross, or is crossing, it arrives at no stop beyond. -/
def cutBeat (p : Part) (now c : Nat) (b : Beat) : Beat :=
  let before := b.step + ringDist p b.stop (800 * c + 799)
  if now < before + 24 ∧ b.lostAt.isNone then { b with lostAt := some (before + 1) } else b

/-- A lane taken down with a module of a crossing (R21): no beat of it crosses, and its injectors stop. -/
def laneDown (s : State) (lane c : Nat) : State :=
  let l := sparseGet Lane.silent s.ring.lanes lane
  { s with ring := { s.ring with
      lanes := sparseSet Lane.silent s.ring.lanes lane { l with down := true, downAt := s.ring.step, queue := [], handAt := none },
      beats := s.ring.beats.map (fun b => if b.lane = lane then cutBeat s.part s.ring.step c b else b) } }

/-- A UCIe module declared down (R20, R21, R43). Word 1 of the machine check is 0, the model's choice: R269 names none for a module (log
entry 86). -/
def moduleGoesDown (s : State) (m : Nat) : State :=
  let s := serveSure (fun p => (pathModules p.src p.dst).contains m || (pathModules p.dst p.src).contains m) s
  let s := { s with links := { s.links with moduleDown := keyInsert s.links.moduleDown m } }
  let s := s.machineCheck 7 m 0 (moduleDies m)
  let s := s.hostEvent 4 (leBytes 8 0) (leBytes 8 m)
  match moduleLane m with
  | some x => laneDown s x.1 x.2
  | none => s

end Sys2Proof.Machine
end

