-- ==== Sys2Proof/Machine/Switch.lean ====
section
/-! DEFINITION. The switch processor (R165-R167, R296, R405-R409): the moves of ROUTE and ROUTEC, what a blocked word waits on
(R176, R177), and the eight switch words. -/

namespace Sys2Proof.Machine

/-- The four directions in the order of their codes (R177). -/
def allDirs : List Dir := [.n, .e, .s, .w]

/-- The select of a direction output of a plane (R297). -/
def dirSel (x : Sels) (p : Plane) (d : Dir) : Sel :=
  match p, d with
  | .scalar, .n => x.sn
  | .scalar, .e => x.se
  | .scalar, .s => x.ss
  | .scalar, .w => x.sw
  | .vector, .n => x.vn
  | .vector, .e => x.ve
  | .vector, .s => x.vs
  | .vector, .w => x.vw

/-- The select of the core output of a plane (R297). -/
def coreSel (x : Sels) (p : Plane) : Sel :=
  match p with
  | .scalar => x.score
  | .vector => x.vcore

/-- The neighbour on a plane link of a tile: the tile at that side, where it belongs to the same region, or, outside every region, the
tile or the pass-through router there (R17). Any other side is an edge port, which only a stream generator serves (R385). -/
def linkTile (s : State) (t : Nat) (d : Dir) : Option Nat :=
  match neighbour s.part t d with
  | some u =>
    if sameRegion s t u || (!(s.tile t).placed && !(s.tile u).placed) then some u else none
  | none => none

/-- The network module of a link is down (R20). -/
def linkDown (s : State) (t u : Nat) : Bool :=
  match edgeModule t u with
  | some m => s.links.moduleDown.contains m
  | none => false

/-- The bytes of a flit of a stream (R385). -/
def EdgeStream.flitBytes (e : EdgeStream) : Nat := if e.vector then 64 else 8

/-- Whether a bound stream serves an edge port of a plane. -/
def EdgeStream.serves (e : EdgeStream) (t : Nat) (p : Plane) (d : Dir) : Bool :=
  e.bound && !e.paused && decide (e.tile = t) && decide (e.side = d) && decide (e.vector = decide (p = .vector))

/-- Whether a storer takes another flit: its generator holds fewer than 4, and its pattern has room for it (R386). -/
def EdgeStream.takes (e : EdgeStream) : Bool :=
  decide (e.flits.length < 4) && decide (e.pat.pos + e.flitBytes * e.flits.length < e.pat.total)

/-- The storer bound at an edge port (R385). -/
def storerAt (s : State) (t : Nat) (p : Plane) (d : Dir) : Option EdgeStream := s.edges.find? (fun e => e.store && e.serves t p d)

/-- Whether a direction output has room (R166, R167): at the neighbour's input buffer or at the storer of an edge port. -/
def outRoom {α : Type} (get : Tile → Bufs α) (s : State) (t : Nat) (p : Plane) (d : Dir) : Bool :=
  match linkTile s t d with
  | some u =>
    !linkDown s t u && decide (((get (s.tile u)).inp (dirOpp d)).used s.cycle < inpCap s u p (dirOpp d))
  | none =>
    match storerAt s t p d with
    | some e => e.takes
    | none => false

/-- The flit that a direction output's select names (R166). -/
def dirFlit {α : Type} (b : Bufs α) (cycle : Nat) (d : Dir) (x : Sel) : Option (Flit α) :=
  match x with
  | .none => none
  | .inp i => (b.inp i).head cycle
  | .cout => (b.cout d).head cycle

/-- A wait of a switch (R176, R177): the plane, the direction of the neighbour waited on or 4 for the own core, and the neighbour,
none at an edge port. -/
structure SwWait where
  plane : Plane
  code : Nat
  tile : Option Nat
  deriving DecidableEq, Repr

/-- The waits of one direction output: its source, then its destination. -/
def dirWaits {α : Type} (get : Tile → Bufs α) (s : State) (t : Nat) (p : Plane) (x : Sels) (d : Dir) : List SwWait :=
  let sel := dirSel x p d
  if sel = .none then []
  else
    let src := if (dirFlit (get (s.tile t)) s.cycle d sel).isSome then []
      else match sel with
        | .inp i => [⟨p, dirIndex i, linkTile s t i⟩]
        | _ => [⟨p, 4, none⟩]
    src ++ (if outRoom get s t p d then [] else [⟨p, dirIndex d, linkTile s t d⟩])

/-- The waits of the core output. -/
def coreWaits {α : Type} (get : Tile → Bufs α) (s : State) (t : Nat) (p : Plane) (x : Sels) : List SwWait :=
  match coreSel x p with
  | .inp i =>
    let b := get (s.tile t)
    (if ((b.inp i).head s.cycle).isSome then [] else [⟨p, dirIndex i, linkTile s t i⟩])
      ++ (if (b.cin i).used s.cycle < cinCap (s.tile t) p i then [] else [⟨p, 4, none⟩])
  | _ => []

/-- The waits of one plane in the order of the selects. -/
def planeWaits {α : Type} (get : Tile → Bufs α) (s : State) (t : Nat) (p : Plane) (x : Sels) : List SwWait :=
  allDirs.flatMap (dirWaits get s t p x) ++ coreWaits get s t p x

/-- What the moves of a word still miss (R166, R176), from SN upwards; none when they can be performed. -/
def routeWaits (s : State) (t : Nat) (x : Sels) : List SwWait :=
  planeWaits (fun y => y.sc) s t .scalar x ++ planeWaits (fun y => y.ve) s t .vector x

/-- Whether a plane's selects take the head of an input. -/
def usesInp (x : Sels) (p : Plane) (i : Dir) : Bool :=
  allDirs.any (fun d => decide (dirSel x p d = .inp i)) || decide (coreSel x p = .inp i)

/-- The buffers of a plane after its sources are popped, each once (R166). -/
def popSources {α : Type} (x : Sels) (p : Plane) (cycle : Nat) (b : Bufs α) : Bufs α :=
  let b := allDirs.foldl (fun b i => if usesInp x p i then b.setInp ((b.inp i).pop cycle) i else b) b
  allDirs.foldl (fun b d => if dirSel x p d = .cout then b.setCout ((b.cout d).pop cycle) d else b) b

/-- A flit put at a direction output (R166): usable one cycle later, four across a die edge. A storer that takes a bad one finds its error
(R33, R270). -/
def pushOut {α : Type} (get : Tile → Bufs α) (set : Tile → Bufs α → Tile) (wide : α → Vec) (t : Nat) (p : Plane) (d : Dir)
    (f : Flit α) (s : State) : State :=
  match linkTile s t d with
  | some u =>
    let lat := if (edgeModule t u).isSome then 4 else 1
    s.updTile u (fun y => set y ((get y).setInp (((get y).inp (dirOpp d)).push (s.cycle + lat) f.val f.bad) (dirOpp d)))
  | none =>
    match storerAt s t p d with
    | some e =>
      let s : State := { s with
        edges := s.edges.map (fun z => if z.id = e.id then { z with flits := z.flits ++ [(wide f.val, f.bad)] } else z) }
      if f.bad then s.machineCheckAll 4 t 0 else s
    | none => s

/-- The moves of one plane (R166): every source is read before any is popped. -/
def movePlane {α : Type} (get : Tile → Bufs α) (set : Tile → Bufs α → Tile) (wide : α → Vec) (t : Nat) (p : Plane) (x : Sels)
    (s : State) : State :=
  let b := get (s.tile t)
  let s1 := s.updTile t (fun y => set y (popSources x p s.cycle b))
  let s2 := allDirs.foldl (fun s' d =>
    match dirFlit b s.cycle d (dirSel x p d) with
    | some f => pushOut get set wide t p d f s'
    | none => s') s1
  match coreSel x p with
  | .inp i =>
    match (b.inp i).head s.cycle with
    | some f =>
      (s2.updTile t (fun y => set y ((get y).setCin (((get y).cin i).push (s.cycle + 1) f.val f.bad) i))).postEvent t
    | none => s2
  | _ => s2

/-- All the moves of a word (R166). -/
def moveAll (t : Nat) (x : Sels) (s : State) : State :=
  movePlane (fun y => y.ve) (fun y b => { y with ve := b }) id t .vector x
    (movePlane (fun y => y.sc) (fun y b => { y with sc := b }) (fun v => v.setWidth 512) t .scalar x s)

/-- The selects that pass the flits of one plane straight on in one direction (R17). -/
def passSels (p : Plane) (d : Dir) : Sels :=
  let on (q : Plane) (o : Dir) : Sel := if p = q ∧ d = o then .inp (dirOpp d) else .none
  { sn := on .scalar .n, se := on .scalar .e, ss := on .scalar .s, sw := on .scalar .w, score := .none,
    vn := on .vector .n, ve := on .vector .e, vs := on .vector .s, vw := on .vector .w, vcore := .none }

/-- A pass-through router (R17): in every direction of each plane a flit goes straight on where it can. -/
def passThrough (t : Nat) (s : State) : State :=
  (allDirs.flatMap (fun d => [passSels .scalar d, passSels .vector d])).foldl
    (fun s x => if (routeWaits s t x).isEmpty then moveAll t x s else s) s

/-- Whether the static planes of a tile are powered down (R175): its switch has executed SHALT and every buffer of the planes is empty. It
changes latency only, so that no step reads it. -/
def planesAsleep (s : State) (t : Nat) : Bool :=
  let x := s.tile t
  x.sw.halted && allDirs.all (fun d =>
    (x.sc.inp d).flits.isEmpty && (x.sc.cin d).flits.isEmpty && (x.sc.cout d).flits.isEmpty
      && (x.ve.inp d).flits.isEmpty && (x.ve.cin d).flits.isEmpty && (x.ve.cout d).flits.isEmpty)

/-- The PC of the next word (R296, R405). -/
def swNext (pc : Nat) : Nat := (pc + 1) % 2048

/-- The switch of the present tile updated. -/
def State.updSwitch (s : State) (f : Switch → Switch) : State := s.updHere (fun x => { x with sw := f x.sw })

/-- The switch goes on to a word. -/
def swGo (pc : Nat) (s : State) : State := s.updSwitch (fun w => { w with pc := pc, waiting := false })

/-- The switch goes on to the word after. -/
def swStep (s : State) : State := swGo (swNext s.hereTile.sw.pc) s

/-- The switch's word blocks (R166): nothing is performed. -/
def swBlock (s : State) : State :=
  s.updSwitch (fun w => { w with waiting := true, since := if w.waiting then w.since else s.cycle })

/-- A meaning of the switch: the part must have the tile. -/
def switchOp (s : State) (f : State → State) : Out :=
  if s.part.populated s.here.tile then .next (f s) else .fault .nothingHere

/-- The moves of a word, then what follows them; or the word blocks. -/
def routed (x : Sels) (k : State → State) (s : State) : State :=
  if (routeWaits s s.here.tile x).isEmpty then k (moveAll s.here.tile x s) else swBlock s

/-- A switch counter (R165). -/
def Switch.counter (w : Switch) (c : Nat) : BitVec 16 :=
  match c with
  | 0 => w.c0
  | 1 => w.c1
  | 2 => w.c2
  | _ => w.c3

/-- A switch counter written. -/
def Switch.setCounter (w : Switch) (c : Nat) (v : BitVec 16) : Switch :=
  match c with
  | 0 => { w with c0 := v }
  | 1 => { w with c1 := v }
  | 2 => { w with c2 := v }
  | _ => { w with c3 := v }

/-- ROUTEC once its moves are done (R407). -/
def countDown (c target : Nat) (s : State) : State :=
  let w := s.hereTile.sw
  let v := w.counter c - 1
  swGo (if v ≠ 0 then target else swNext w.pc) (s.updSwitch (fun w => w.setCounter c v))

/-- SNOP (R406). -/
def execSnop (s : State) : Out := switchOp s swStep

/-- ROUTE (R166, R406). -/
def execRoute (x : Sels) (s : State) : Out := switchOp s (routed x swStep)

/-- ROUTEC (R407). -/
def execRoutec (c target : Nat) (x : Sels) (s : State) : Out := switchOp s (routed x (countDown c target))

/-- SJMP (R406). -/
def execSjmp (target : Nat) (s : State) : Out := switchOp s (swGo target)

/-- SCNT (R406). -/
def execScnt (c : Nat) (imm : BitVec 16) (s : State) : Out :=
  switchOp s (fun s => swStep (s.updSwitch (fun w => w.setCounter c imm)))

/-- SWAITC (R408). -/
def execSwaitc (v : Bool) (s : State) : Out := switchOp s (fun s => if s.hereTile.sig = v then swStep s else swBlock s)

/-- SSIGC (R408): an event at every slot of the tile; an MTS of the same cycle is as if applied before it. -/
def execSsigc (v : Bool) (s : State) : Out :=
  switchOp s (fun s => swStep ((s.updHere (fun x => { x with sig := v, sw := { x.sw with sigAt := s.cycle + 1 } })).postEvent s.here.tile))

/-- SHALT (R409): the PC stays at the word. -/
def execShalt (s : State) : Out :=
  switchOp s (fun s => s.updSwitch (fun w => { w with halted := true, waiting := false, since := s.cycle }))

/-- SWITCH_ILLEGAL_WORD (R79, R297): the tile enters BLOCKED. -/
def execSwitchIllegalWord (_ : Word) (s : State) : Out := switchOp s (fun s => s.blockTile s.here.tile)

/-- What a blocked switch waits on (R176, R409): the missing sources and full destinations of its word, or its own core in a
SWAITC. -/
def switchWaits (s : State) (t : Nat) : List SwWait :=
  let w := (s.tile t).sw
  if !w.waiting || w.halted || w.blocked then []
  else match decodeSwitch (sparseGet (0 : Word) w.mem w.pc).toNat with
    | .ok (.route x) => routeWaits s t x
    | .ok (.routec _ _ x) => routeWaits s t x
    | .ok (.swaitc v) => if (s.tile t).sig = v then [] else [⟨.scalar, 4, none⟩]
    | _ => []

end Sys2Proof.Machine
end

