-- ==== Sys2Proof/Machine/Deadlock.lean ====
section
/-! DEFINITION. Deadlock detection on the static planes: wait-for probes, the cycle between a core and its own switch, and
quiescence (R176-R179). -/

namespace Sys2Proof.Machine

/-- The direction and plane of the port on which a thread is blocked, as TRAPVAL2 gives them (R177). -/
def portWait (x : Thread) : Option Nat :=
  if x.stopped then none
  else match x.wait with
    | .portIn p d => some ((if p = .vector then 8 else 0) + dirIndex d)
    | .portOut p d => some ((if p = .vector then 8 else 0) + dirIndex d)
    | _ => none

/-- The lowest slot of a tile whose thread is blocked on a port, its thread, and TRAPVAL2 (R177). -/
def portBlocked (s : State) (t : Nat) : Option (Nat × Thread × Nat) :=
  ((List.range 6).filterMap (fun k => match s.thread t k with
    | some x => (portWait x).map (fun c => (k, x, c))
    | none => none)).head?

/-- TRAPVAL2 of a CYCLE that no thread is blocked for (R177): the first wait that the switch recorded. -/
def switchVal2 (s : State) (t : Nat) : Nat :=
  match switchWaits s t with
  | w :: _ => (if w.plane = .vector then 8 else 0) + w.code
  | [] => 0

/-- CYCLE at a tile (R177): taken by the lowest slot blocked on a port; otherwise it reaches the node's fault policy as though slot 0
had trapped. -/
def cycleAt (t path : Nat) (s : State) : State :=
  match portBlocked s t with
  | some b => takeTrapAt t b.1 (trapOf .cycle (word path) (word b.2.2)) (s.native t b.1).rep.active s
  | none =>
    match s.thread t 0 with
    | some x =>
      (s.setThread t 0 (some (x.trapped (trapOf .cycle (word path) (word (switchVal2 s t))) (s.native t 0).rep.active))).escalate
        t 0 (causeCode .cycle) (word path)
    | none =>
      match (s.tile t).node with
      | some a => s.faultPolicy a t 0 (causeCode .cycle) (faultWord 1 (causeCode .cycle) 0 t 0 0) (word path)
      | none => s

/-- The neighbours that a tile waits on (R176). -/
def waitsOn (s : State) (t : Nat) : List Nat := ((switchWaits s t).filterMap (fun w => w.tile)).eraseDups

/-- A probe sent to every neighbour that a tile waits on (R176). -/
def sendProbes (t origin hops since : Nat) (s : State) : State :=
  (waitsOn s t).foldl (fun s u => s.send .side (.tile t) (.tile u) (.waitFor origin hops since)) s

/-- Whether a tile's switch has waited for 1024 cycles (R176). -/
def longWait (s : State) (t : Nat) : Bool := (s.tile t).sw.waiting && decide ((s.tile t).sw.since + 1024 ≤ s.cycle)

/-- Whether the present wait of a tile's switch has sent its probes (R176). -/
def probesSent (s : State) (t : Nat) : Bool := decide ((s.tile t).probed = some (s.tile t).sw.since)

/-- WAIT_FOR_PROBE_SEND (R176): once for a wait that has lasted 1024 cycles. -/
def execWaitForProbeSend (s : State) : Out :=
  let t := s.here.tile
  if longWait s t && !probesSent s t && !(waitsOn s t).isEmpty && !haltActive s t then
    .next (sendProbes t t 1 (s.tile t).sw.since (s.updTile t (fun x => { x with probed := some x.sw.since })))
  else .next s

/-- Whether the wait of a tile that sent a probe has not ended (R176). -/
def sameWait (s : State) (t since : Nat) : Bool :=
  (s.tile t).sw.waiting && decide ((s.tile t).sw.since = since) && !(waitsOn s t).isEmpty

/-- WAIT_FOR_PROBE_ARRIVE (R176). A tile of a region with a debug halt forwards nothing (R179). -/
def execWaitForProbeArrive (s : State) : Out :=
  onPacket s (fun p s =>
    match p.body, p.dst with
    | .waitFor origin hops since, .tile t =>
      if haltActive s t then some s
      else if t = origin ∧ sameWait s t since then some (cycleAt t hops s)
      else if t < origin ∨ (waitsOn s t).isEmpty ∨ hops = 3072 then some s
      else some (sendProbes t origin (hops + 1) since s)
    | _, _ => none)

/-- LOCAL_CYCLE_DETECT (R176, R409): the switch waits on its own core and a thread on a port, each for 1024 cycles; the wait is then
counted anew. -/
def execLocalCycleDetect (s : State) : Out :=
  let t := s.here.tile
  match portBlocked s t with
  | some b =>
    if longWait s t && decide (b.2.1.since + 1024 ≤ s.cycle) && (switchWaits s t).any (fun w => decide (w.code = 4))
        && !haltActive s t then
      .next (cycleAt t 0 (s.updTile t (fun x => { x with sw := { x.sw with since := s.cycle } })))
    else .next s
  | none => .next s

/-- Whether a thread's wait is one that no other agent than a thread ends (R178). -/
def deadWait : Wait → Bool
  | .portIn _ _ => true
  | .portOut _ _ => true
  | .stream _ => true
  | .full => true
  | .await => true
  | .wclose => true
  | .send => true
  | .gang => true
  | .bar => true
  | .amoord => true
  | .remoteFull => true
  | _ => false

/-- Whether the port that a blocked thread waits for is still not ready. -/
def portStill (s : State) (t : Nat) : Wait → Bool
  | .portIn .scalar d => (((s.tile t).sc.cin d).head s.cycle).isNone
  | .portIn .vector d => (((s.tile t).ve.cin d).head s.cycle).isNone
  | _ => true

/-- Whether a thread counts as blocked or waiting (R178): stopped, in such a wait, or a follower without an instruction. -/
def threadBlocked (s : State) (t k : Nat) (x : Thread) : Bool :=
  x.stopped || (deadWait x.wait && portStill s t x.wait)
    || (decide (gangRole s t k = 2) && (s.tile t).gangNow.isNone && (s.tile t).gangQ.isEmpty)

/-- Whether a switch is blocked (R178). -/
def switchBlocked (s : State) (t : Nat) : Bool := (s.tile t).sw.blocked || !(switchWaits s t).isEmpty

/-- Whether a tile counts as quiescent (R178). -/
def tileQuiet (s : State) (t : Nat) : Bool :=
  (liveThreads s t).all (fun e => threadBlocked s t e.1 e.2) && ((s.tile t).sw.halted || switchBlocked s t)

/-- The cycle since which a tile has been quiescent. -/
def tileQuietFrom (s : State) (t : Nat) : Nat :=
  (liveThreads s t).foldl (fun m e => max m e.2.since) (s.tile t).sw.since

/-- The cycle since which a region has been quiescent (R178), none where it is not or a debug halt is active (R179). A move over an
edge port counts as a flit moved. -/
def regionQuietFrom (s : State) (r : RegionRec) : Option Nat :=
  if !r.on || !(r.tiles.all (tileQuiet s)) || r.tiles.any (fun t => (s.tile t).halted || (s.tile t).halting) then none
  else
    let m := r.tiles.foldl (fun m t => max m (tileQuietFrom s t)) (r.quietFrom.getD r.base)
    some ((s.edges.filter (fun e => r.has e.tile)).foldl (fun m e => max m e.movedAt) m)

/-- Whether a tile has a thread blocked in WCLOSE, SEND or SPAWN (R102). -/
def holdsWindow (s : State) (t : Nat) : Bool := (liveThreads s t).any (fun e => decide (e.2.wait = .wclose) || decide (e.2.wait = .send))

/-- Whether a tile is marked in a region's quiescence record (R178, and R102 for a DET region that a window holds up). -/
def marked (s : State) (r : RegionRec) (t : Nat) : Bool :=
  if r.det && r.tiles.any (holdsWindow s) then holdsWindow s t
  else (liveThreads s t).any (fun e => threadBlocked s t e.1 e.2) || switchBlocked s t

/-- The quiescence record (R178): a bit for each tile in row-major order. -/
def quietRecord (s : State) (r : RegionRec) : Nat :=
  (r.tiles.foldr (fun t m => 2 * m + bit (marked s r t)) 0)

/-- The offset of a region save header in its SAVE area (R271). -/
def headerOffset (r : RegionRec) : Nat := r.header.2 * 0x10000

/-- The SYSTEM aperture address of a region's quiescence record (R271). -/
def recordAddress (r : RegionRec) : Nat := 0x800100000000 + r.header.1 * 0x1000000 + headerOffset r + 0x400

/-- The quiescence record written into the save header (R178, R271). -/
def writeRecord (s : State) (r : RegionRec) : State :=
  s.putBytes (areaKey .save r.header.1 (headerOffset r + 0x400)) (leBytes ((r.w * r.h + 7) / 8) (quietRecord s r))

/-- The running node of a region (R73). -/
def runningNode (s : State) (blk : Nat) : Option NodeRec :=
  s.nodes.find? (fun n => decide (n.region = blk) && decide (n.state = .running))

/-- CYCLE of a quiescent region (R178): at the fault handler under policy HANDLER, otherwise the node fails, naming the lowest marked
tile. -/
def quietFault (s : State) (r : RegionRec) (n : NodeRec) : State :=
  let marks := r.tiles.filter (marked s r)
  let low := marks.foldl min (marks.headD 0)
  let node (s : State) : State := s.failNode n.addr low (causeCode .cycle) codeFault .failed
  let s := (writeRecord s r).updRegion r.blk (fun x => { x with quietFrom := some s.cycle })
  if n.fd = 3 then
    match handlerTile n r with
    | some d =>
      s.sendFault n r d low (faultWord 2 (causeCode .cycle) 0 low 0 marks.length) (word (recordAddress r))
    | none => node s
  else node s

/-- QUIESCENCE_TIMEOUT (R178): after 65,536 quiescent cycles. -/
def execQuiescenceTimeout (s : State) : Out :=
  match s.region s.here.item with
  | none => .next s
  | some r =>
    match regionQuietFrom s r, runningNode s r.blk with
    | some c, some n => if c + 65536 ≤ s.cycle then .next (quietFault s r n) else .next s
    | _, _ => .next s

end Sys2Proof.Machine
end

