-- ==== Sys2Proof/Machine/Streams.lean ====
section
/-! DEFINITION. Stream registers (R340-R346): descriptors, addresses, reads and writes of a stream's bytes, the ring tap's released
bytes (R123, R134), and QSET, QADV and QPOS. -/

namespace Sys2Proof.Machine

/-- Word `n` of a descriptor (R341). -/
def descWord (v : Vec) (n : Nat) : Word := word (elemAt v 64 n)

/-- Whether two tiles belong to one cluster (R157). -/
def sameCluster (t u : Nat) : Bool := decide (tileX t / 4 = tileX u / 4) && decide (tileY t / 4 = tileY u / 4)

/-- Bit of MEMBERS that names a tile of its cluster (R344). -/
def memberBit (t : Nat) : Nat := tileX t % 4 + 4 * (tileY t % 4)

/-- The tile of a cluster that a bit of MEMBERS names (R344). -/
def memberTile (t i : Nat) : Nat := tileAt (4 * (tileX t / 4) + i % 4) (4 * (tileY t / 4) + i / 4)

/-- The kind of a descriptor (R341). -/
def kindOf : Nat → Option StreamKind
  | 0 => some .none
  | 1 => some .tileLocal
  | 2 => some .cluster
  | 3 => some .global
  | _ => none

/-- The stream that a descriptor binds, at position 0 (R341). -/
def streamOf (v : Vec) (kind : StreamKind) : Stream :=
  let d1 := descWord v 1
  { kind := kind, write := flag d1 59, wrap := flag d1 58, members := BitVec.ofNat 16 (field d1 32 16), base := descWord v 0,
    len0 := field d1 0 32, stride1 := descWord v 2, stride2 := descWord v 3, n1 := field (descWord v 4) 0 32,
    n2 := field (descWord v 4) 32 32, pos := 0, ahead := [], taken := 0 }

/-- Whether a stream's BASE lies where its KIND requires (R341). -/
def baseOk (s : State) (t : Nat) (q : Stream) : Bool :=
  match q.kind, placeOf t q.base with
  | .tileLocal, .sram _ _ true => true
  | .cluster, .sram u _ false => sameCluster t u && (decide (u = t) || sameRegion s t u)
  | .global, .glob => true
  | _, _ => false

/-- Whether a descriptor of a KIND other than NONE is malformed (R341). -/
def descBad (s : State) (t : Nat) (v : Vec) (q : Stream) : Bool :=
  decide (field (descWord v 1) 48 10 ≠ 0) || decide (descWord v 5 ≠ 0) || decide (descWord v 6 ≠ 0) || decide (descWord v 7 ≠ 0)
    || decide (q.base.toNat % 64 ≠ 0) || decide (q.len0 % 64 ≠ 0) || decide (q.len0 = 0)
    || decide (q.stride1.toNat % 64 ≠ 0) || decide (q.stride2.toNat % 64 ≠ 0) || decide (q.n1 = 0) || decide (q.n2 = 0)
    || (decide (q.kind = .cluster) && q.write) || (decide (q.kind ≠ .cluster) && decide (q.members ≠ 0))
    || (decide (q.members ≠ 0) && !q.members.getLsbD (memberBit t)) || !baseOk s t q

/-- The address of the byte at a position (R341). -/
def Stream.addr (q : Stream) (p : Nat) : Word :=
  let p := if q.wrap then p % q.total else p
  let r := p / q.len0
  q.base + word (r / q.n1) * q.stride2 + word (r % q.n1) * q.stride1 + word (p % q.len0)

/-- The stream register of the present slot. -/
def myStream (s : State) (q : Nat) : Stream := s.streamAt s.here.tile s.here.slot q

/-- The present slot's stream register changed. -/
def setMyStream (s : State) (q : Nat) (x : Stream) : State := s.setStreamAt s.here.tile s.here.slot q x

/-- ACCESS, with TRAPVAL 0, of an unbound stream, a stream of the other direction, or a position past T (R343). -/
def streamBad (x : Stream) (write : Bool) (n : Nat) : Bool :=
  decide (x.kind = .none) || decide (x.write ≠ write) || (decide (x.kind ≠ .tap) && x.past (x.pos + n))

/-- An instruction's streams checked before any is taken (R343): registers, directions and byte counts. -/
def checkStreams (qs : List (Nat × Bool × Nat)) (s : State) (k : Act Unit) : Act Unit :=
  if qs.any (fun e => streamBad (myStream s e.1) e.2.1 e.2.2) then .trap (trapOf .access 0 0) else k

/-- The words of a 64-byte line of tile SRAM, each with its poison. -/
def sramLine (s : State) (t off : Nat) : List (Byte × Bool) :=
  (List.range 8).flatMap (fun i =>
    (s.getBytes (sramKey t (off + 8 * i)) 8).map (fun b => (b, s.isPoisoned (sramKey t (off + 8 * i)) 8)))

/-- Folds before a read of a 64-byte line (R104). -/
def foldLine (pa k : Nat) : Nat → State → State
  | 0, s => s
  | n + 1, s => (foldLine pa k n s).fold (pa + 8 * n) (k + 8 * n)

/-- The words of a 64-byte line of global memory, each with its poison. -/
def globLine (s : State) (k : Nat) : List (Byte × Bool) :=
  (List.range 8).flatMap (fun i => (s.getBytes (k + 8 * i) 8).map (fun b => (b, s.isPoisoned (k + 8 * i) 8)))

/-- What a read of lines of a stream comes to: their bytes, a wait, or the traps that they meet (R343, R345). -/
inductive LineRead where
  | bytes (bs : List (Byte × Bool)) (s : State)
  | blocked
  | trap (cs : List TrapInfo)
  deriving DecidableEq, Repr

/-- What the reads of one line and of those after it come to. -/
def LineRead.andAll (r : LineRead) (rest : LineRead) : LineRead :=
  match r, rest with
  | .blocked, _ => .blocked
  | _, .blocked => .blocked
  | .trap cs, .trap ds => .trap (cs ++ ds)
  | .trap cs, .bytes _ _ => .trap cs
  | .bytes _ _, .trap ds => .trap ds
  | .bytes bs _, .bytes bs' s => .bytes (bs ++ bs') s

/-- The eight registers that a line of a configuration window names, read as they are (R197). -/
def configLine (s : State) (pa : Nat) : List (Byte × Bool) × State :=
  (List.range 8).foldl (fun r i => match paKind r.2 (pa + 8 * i) with
    | .config m off =>
      let c := configRead r.2 m off
      (r.1 ++ (leBytes 8 c.1.toNat).map (fun b => (b, false)), c.2)
    | _ => r) ([], s)

/-- Whether a write to a line that a thread may have seen is still on its way (R212, R345): its own, or one of its tile, whose CACHE line
may have shown it. -/
def lineWriteOut (s : State) (t uid pa : Nat) : Bool :=
  s.traffic.any (fun p => match p.body with
    | .access w _ _ a op => (decide (w.uid = uid) || (decide (w.tile = t) && hasCache (s.tile t))) && decide (a / 64 = pa / 64) && op.writes
    | _ => false)

/-- A line of 64 bytes at an address of a stream of a thread read at its place (R343, R345): checked as an ordinary read. A line to
which the thread's own store is still on its way is not ready, and one beyond a module that is down raises LINK (R20). -/
def readLine (t : Nat) (x : Thread) (kind : StreamKind) (va : Word) (s : State) : LineRead :=
  match kind with
  | .global =>
    if placeOf t va ≠ .glob then .trap [trapOf .access va 0]
    else match purityTrap s x va 64 .read with
      | some c => .trap [c]
      | none =>
        match translate s t x.root x.pl va .read 0 with
        | .error c => .trap [c]
        | .ok (m, s) =>
          match paKey s m.pa with
          | none =>
            if isConfig s m.pa then
              let r := configLine s m.pa
              .bytes r.1 r.2
            else .trap [onWalk (trapOf .access va 0)]
          | some k =>
            if lineWriteOut s t x.uid m.pa then .blocked
            else match crossDown s (.tile t) (.mpt (homeMpt s m.pa)) with
            | some d => .trap [trapOf .link va (linkVal2 d)]
            | none =>
              let s := (foldLine m.pa k 8 s).chargeNode x.node 64
              .bytes (globLine s k) s
  | _ =>
    match checkPlace s t va 0 with
    | .error c => .trap [c]
    | .ok (.sram u off _) =>
      if kind = .tileLocal ∧ u ≠ t then .trap [trapOf .access va 0]
      else match crossDown s (.tile t) (.tile u) with
      | some d => .trap [trapOf .link va (linkVal2 d)]
      | none => .bytes (sramLine s u off) s
    | .ok _ => .trap [trapOf .access va 0]

/-- `n` lines of a stream from a position on: where lines fault, every one of their traps (R263). -/
def readLines (t : Nat) (x : Thread) (q : Stream) : Nat → Nat → State → LineRead
  | 0, _, s => .bytes [] s
  | n + 1, p, s =>
    let r := readLine t x q.kind (q.addr p) s
    r.andAll (readLines t x q n (p + 64) (match r with
      | .bytes _ s => s
      | _ => s))

/-- Lines of a stream from a position on, at most `n` of them, up to the first that faults or must wait. -/
def goodLines (t : Nat) (x : Thread) (q : Stream) : Nat → Nat → State → List (Byte × Bool) × State
  | 0, _, s => ([], s)
  | n + 1, p, s =>
    match readLine t x q.kind (q.addr p) s with
    | .bytes bs s =>
      let r := goodLines t x q n (p + 64) s
      (bs ++ r.1, r.2)
    | _ => ([], s)

/-- The first poisoned byte of a list, from position `p` on. -/
def firstPoison : List (Byte × Bool) → Nat → Option Nat
  | [], _ => none
  | b :: bs, p => if b.2 then some p else firstPoison bs (p + 1)

/-- The ECC trap of a stream's poisoned byte (R33, R263), which names the word's address. -/
def streamPoison (s : State) (kind : StreamKind) (t : Nat) (x : Thread) (va : Word) : TrapInfo :=
  match kind with
  | .global =>
    (match translate s t x.root x.pl va .read 0 with
    | .ok (m, _) => eccWord va (poisonSource s m.pa) ((paKey s m.pa).getD 0)
    | .error _ => trapOf .ecc va 3)
  | _ =>
    match placeOf t va with
    | .sram u off _ => eccWord va 1 (sramKey u off)
    | _ => trapOf .ecc va 1

/-- The reason code of a fault of the tap as TRAPVAL2 gives it (R134). -/
def tapVal2 (q reason : Nat) : Word := word (q * 2 ^ 8 + reason)

/-- FOLIO (R134): the tap is IDLE and q unbound; the trap is the instruction's. -/
def folioTrap (s0 : State) (q : Nat) : Act Unit :=
  let x := s0.tap s0.here.tile
  let s := tapToIdle s0 s0.here.tile
  .go () (takeTrap (trapOf .folio x.failed (tapVal2 q x.reason)) s)

/-- Whether a read of q that wants more bytes than are released meets the fault (R134). -/
def tapAtFault (x : Tap) : Bool := decide (x.state = .faulted) && x.waiting.isEmpty

/-- A tap that holds no further byte in DONE returns to IDLE (R129). -/
def tapFinish (s : State) (t : Nat) : State :=
  let x := s.tap t
  if x.state = .done ∧ x.bytes = [] ∧ x.waiting = [] then tapToIdle s t else s

/-- The bytes that an instruction takes from its streams (R343): those of each, what traps at them, the ring stream that met a fault,
and the stream whose bytes are not there yet. -/
structure Taken where
  bytes : List (List Byte)
  missing : List TrapInfo
  bad : List TrapInfo
  folio : Option Nat
  wait : Option Nat
  deriving DecidableEq, Repr

/-- `n` bytes taken from the tap (R123, R126, R134). -/
def takeTap (q n : Nat) (r : Taken × State) : Taken × State :=
  let s := r.2
  let t := s.here.tile
  let x := s.tap t
  if n ≤ x.bytes.length then
    let y := myStream s q
    let s := (setMyStream s q { y with pos := (y.pos + n) % 2 ^ 64 }).placeTap t { x with bytes := x.bytes.drop n, taken := x.taken - n }
    ({ r.1 with bytes := r.1.bytes ++ [x.bytes.take n] }, tapFinish s t)
  else if tapAtFault x then ({ r.1 with folio := some q }, s)
  else ({ r.1 with wait := some q }, s)

/-- The ECC trap of the first poisoned byte of a stream's bytes (R263). -/
def streamEcc (s : State) (x : Stream) (bs : List (Byte × Bool)) : List TrapInfo :=
  match firstPoison bs x.pos with
  | some p => [streamPoison s x.kind s.here.tile s.me (word ((x.addr p).toNat / 8 * 8))]
  | none => []

/-- qtake of R343: `n` bytes at the position, from the lookahead and beyond it from their place. A CLUSTER stream with members waits for
its blocks (R344). -/
def takeStream (q n : Nat) (r : Taken × State) : Taken × State :=
  let s := r.2
  let x := myStream s q
  if x.kind = .tap then takeTap q n r
  else if x.kind = .none then ({ r.1 with wait := some q }, s)
  else
    let have_ := x.ahead.take n
    match readLines s.here.tile s.me x ((n - have_.length) / 64) (x.pos + have_.length) s with
    | .trap cs => ({ r.1 with missing := r.1.missing ++ cs }, s)
    | .blocked => ({ r.1 with wait := some q }, s)
    | .bytes more s' =>
      if decide (have_.length < n) && decide (x.members ≠ 0) then ({ r.1 with wait := some q }, s)
      else
        ({ r.1 with bytes := r.1.bytes ++ [(have_ ++ more).map Prod.fst], bad := r.1.bad ++ streamEcc s x (have_ ++ more) },
          setMyStream s' q { x with pos := (x.pos + n) % 2 ^ 64, ahead := x.ahead.drop n, taken := x.taken - n })

/-- The bytes of several streams taken, in order. -/
def takeStreams (qs : List (Nat × Nat)) (s : State) : Taken × State :=
  qs.foldl (fun r e => takeStream e.1 e.2 r) (⟨[], [], [], none, none⟩, s)

/-- Where a line of a write stream is to be written, after its checks (R343): every word of it is checked for REWRITE. -/
def checkLine (va : Word) (kind : StreamKind) (s : State) : Except TrapInfo (Target × State) :=
  match checkAccess va 64 .write 0 s with
  | .error c => .error c
  | .ok (.sram t off, s) =>
    if kind ≠ .tileLocal ∨ t ≠ s.here.tile then .error (trapOf .access va 0)
    else match (List.range 8).find? (fun i => saFull s t (off + 8 * i)) with
      | some i => .error (trapOf .rewrite (va + word (8 * i)) 0)
      | none => .ok (.sram t off, s)
  | .ok (.glob pa l, s) => if kind ≠ .global then .error (trapOf .access va 0) else .ok (.glob pa l, s)

/-- The lines of a write stream checked, `n` of them from a position on: the traps that they meet, their targets and the state. -/
def checkLines (q : Stream) : Nat → Nat → State → List TrapInfo × List Target × State
  | 0, _, s => ([], [], s)
  | n + 1, p, s =>
    match checkLine (q.addr p) q.kind s with
    | .error c =>
      let r := checkLines q n (p + 64) s
      (c :: r.1, r.2)
    | .ok (g, s) =>
      let r := checkLines q n (p + 64) s
      (r.1, g :: r.2.1, r.2.2)

/-- One word of a write stream written (R345): at once in the own tile, posted to its MPT otherwise. -/
def putWord (g : Target) (off : Nat) (v : Word) (s : State) : State :=
  match g with
  | .sram t o => (saFill (s.putNat (sramKey t (o + off)) 8 v.toNat) t (o + off)).serveFull t (o + off)
  | .glob pa l =>
    (cacheStore s.here.tile (pa + off) l (.store 8 v) s).send .req (.tile s.here.tile) (.mpt (homeMpt s (pa + off)))
      (.access s.who 0 0 (pa + off) (.store 8 v))

/-- The eight words of a line written. -/
def putLine (g : Target) (bs : List Byte) (s : State) : State :=
  (List.range 8).foldl (fun s i => putWord g (8 * i) (word (leNat ((bs.drop (8 * i)).take 8))) s) s

/-- Lines written in order. -/
def putLines : List Target → List Byte → State → State
  | [], _, s => s
  | g :: gs, bs, s => putLines gs (bs.drop 64) (putLine g (bs.take 64) s)

/-- qput of R343: every destination byte is checked before any is written. -/
def putStream (q : Nat) (bs : List Byte) (s : State) (k : State → Act Unit) : Act Unit :=
  let x := myStream s q
  let r := checkLines x (bs.length / 64) x.pos s
  match firstCause r.1 with
  | some c => .trap c
  | none => k (setMyStream (putLines r.2.1 bs r.2.2) q { x with pos := (x.pos + bs.length) % 2 ^ 64 })

/-- The checks of a write stream's destination, before anything is taken or put (R343): its traps, and whether it must wait (R188). -/
def outCheck (out : Option (Nat × Nat)) (s : State) : List TrapInfo × Bool :=
  match out with
  | none => ([], false)
  | some e =>
    let x := myStream s e.1
    let r := checkLines x (e.2 / 64) x.pos s
    (r.1, r.1.isEmpty && r.2.1.any (fun g => match g with
      | .sram t off => (List.range 8).any (fun i => justEmptied s t (off + 8 * i))
      | _ => false))

/-- An instruction over streams (R343): it waits until the bytes of its read streams are there, traps in the order of R263, and
computes with them; poisoned bytes trap after the traps of the computation. `pull` acts where it waits. -/
def streamOp (pull : Nat → Act Unit) (s0 : State) (reads : List (Nat × Nat)) (out : Option (Nat × Nat)) (s : State)
    (k : List (List Byte) → State → Act Unit) : Act Unit :=
  let r := takeStreams reads s
  match r.1.wait with
  | some q => pull q
  | none =>
    let o := outCheck out r.2
    if o.2 then .wait .unit
    else
    let c := firstCause (r.1.missing ++ o.1)
    match c.filter (fun c => decide (c.rank < 4)), r.1.folio, c with
    | some c, _, _ => .trap c
    | none, some q, _ => folioTrap s0 q
    | none, none, some c => .trap c
    | none, none, none =>
      match k r.1.bytes r.2, firstCause r.1.bad with
      | .go _ _, some c => .trap c
      | x, _ => x

/-- What an executing SPLIT or MERGE has taken of a stream while it waits for more (R343): its buffer frees. -/
def pullStream (s : State) (q : Nat) : Act Unit :=
  let x := myStream s q
  let t := s.here.tile
  let s := if x.kind = .tap then s.placeTap t { s.tap t with taken := (s.tap t).bytes.length }
    else setMyStream s q { x with taken := x.ahead.length }
  .go () (waitFor (.stream q) s)

/-- A binding of q ended (R342): a tap held through it returns to IDLE. -/
def unbindStream (s : State) (t k q : Nat) : State :=
  if (s.streamAt t k q).kind = .tap then tapToIdle s t else s

/-- QSET (R342). -/
def execQset (q : Nat) (v : VReg) (s : State) : Out :=
  coreOp s (fun s =>
    nativeOnly s
    ((readV v s).andThen (fun d s =>
      let t := s.here.tile
      let bind (x : Stream) : Act Unit :=
        .go () (retire (setMyStream ((unbindStream s t s.here.slot q).dropAhead t s.here.slot) q x))
      match kindOf (field (descWord d 1) 60 4) with
      | none => .trap (trapOf .access (descWord d 0) 0)
      | some .none => bind Stream.unbound
      | some kind =>
        if descBad s t d (streamOf d kind) then .trap (trapOf .access (descWord d 0) 0) else bind (streamOf d kind))))

/-- The tap's bytes skipped (R346): released ones are discarded now, the others as they are released. -/
def tapSkip (s : State) (t n : Nat) : State :=
  let x := s.tap t
  tapFinish (s.placeTap t { x with bytes := x.bytes.drop n, skip := x.skip + (n - x.bytes.length) }) t

/-- QADV (R346). -/
def execQadv (q : Nat) (c : SReg) (s : State) : Out :=
  coreOp s (fun s =>
    nativeOnly s
    ((readS c s).andThen (fun v s =>
      let x := myStream s q
      if v.toNat % 64 ≠ 0 then .trap (trapOf .misalign v 0)
      else if x.kind = .none ∨ (x.kind ≠ .tap ∧ x.past (x.pos + v.toNat)) then .trap accessNoAddr
      else
        let s := setMyStream s q { x with pos := (x.pos + v.toNat) % 2 ^ 64, ahead := x.ahead.drop v.toNat, taken := x.taken - v.toNat }
        .go () (retire (if x.kind = .tap then tapSkip s s.here.tile v.toNat else s)))))

/-- QPOS (R346): 0 for an unbound stream. -/
def execQpos (q : Nat) (c : SReg) (s : State) : Out :=
  coreOp s (fun s => nativeOnly s (roomS c s (done c (word (myStream s q).pos) 1 4 s)))

/-! Lookahead (R343, R344). -/

/-- Lines of a stream fetched ahead, at most `n` of them (R343): a line that faults or must wait ends the fetch. -/
def fetchAhead (t : Nat) (x : Thread) (q : Stream) : Nat → State → Stream × State
  | 0, s => (q, s)
  | n + 1, s =>
    if 4096 < q.ahead.length - q.taken + 64 ∨ q.past (q.pos + q.ahead.length + 64) then (q, s)
    else match readLine t x q.kind (q.addr (q.pos + q.ahead.length)) s with
      | .bytes bs s => fetchAhead t x { q with ahead := q.ahead ++ bs } n s
      | _ => (q, s)

/-- STREAM_LOOKAHEAD_FILL (R343): up to `n` bytes of q fetched ahead for the thread of the item; nothing for a write stream, the
tap, or a CLUSTER stream with members. -/
def execStreamLookaheadFill (q n : Nat) (s : State) : Out :=
  match s.cur with
  | none => .next s
  | some x =>
    let y := myStream s q
    if isGuest s.here.slot ∨ y.write ∨ y.kind = .none ∨ y.kind = .tap ∨ y.members ≠ 0 then .next s
    else
      let r := fetchAhead s.here.tile x y (n / 64) s
      .next (setMyStream r.2 q r.1)

/-- The position of the first byte that a stream has not yet fetched. -/
def Stream.nextPos (q : Stream) : Nat := q.pos + q.ahead.length

/-- The block of 2048 bytes that a CLUSTER stream requests next (R344), where its lookahead has room for the rest of it. -/
def Stream.wantsBlock (q : Stream) : Option Nat :=
  let n := q.nextPos
  let b := n / 2048
  if q.kind = .cluster ∧ q.members ≠ 0 ∧ q.ahead.length - q.taken + (2048 * (b + 1) - n) ≤ 4096 ∧ (q.wrap ∨ n < q.total) then some b else none

/-- Whether two streams have identical D0-D4 (R344). -/
def sameDesc (a b : Stream) : Bool :=
  decide ({ a with pos := 0, ahead := [], taken := 0 } = { b with pos := 0, ahead := [], taken := 0 })

/-- The streams of a tile that request a block under a descriptor (R344): slot and register. -/
def wanting (s : State) (u : Nat) (d : Stream) (b : Nat) : List (Nat × Nat) :=
  (List.range 4).flatMap (fun k => if (s.thread u k).isNone then [] else
    ((List.range 8).filter (fun q => sameDesc (s.streamAt u k q) d && decide ((s.streamAt u k q).wantsBlock = some b))).map
      (fun q => (k, q)))

/-- The lines of a block from a position up to its end or T (R344). -/
def blockLines (q : Stream) (b : Nat) : Nat :=
  let e := 2048 * (b + 1)
  ((if q.wrap then e else min e q.total) - q.nextPos) / 64

/-- A block put into the lookahead of a stream that requested it, up to a line that faults: an instruction that takes that one traps at
it (R343). -/
def receiveBlock (u b : Nat) (e : Nat × Nat) (s : State) : State :=
  match s.thread u e.1 with
  | none => s
  | some x =>
    let q := s.streamAt u e.1 e.2
    let r := goodLines u x q (blockLines q b) q.nextPos s
    r.2.setStreamAt u e.1 e.2 { q with ahead := q.ahead ++ r.1 }

/-- CLUSTER_BLOCK_SEND (R344): a block sent once, when every member has requested it under identical descriptors. -/
def execClusterBlockSend (s : State) : Out :=
  let t := s.here.tile
  let d := s.streamAt t s.here.slot s.here.item
  match d.wantsBlock with
  | none => .next s
  | some b =>
    let ms := ((List.range 16).filter (fun i => d.members.getLsbD i)).map (memberTile t)
    if ms.all (fun u => !(wanting s u d b).isEmpty) then
      .next (ms.foldl (fun s' u => (wanting s u d b).foldl (fun s' e => receiveBlock u b e s') s') s)
    else .next s

end Sys2Proof.Machine
end

