-- ==== Sys2Proof/Machine/Matrix.lean ====
section
/-! DEFINITION. Repeat, dot products, accumulators, the output chain, SPLIT and MERGE (R347-R356, R248-R257). -/

namespace Sys2Proof.Machine

/-! REP (R347). -/

/-- The length in words of `n` instructions from an address on, each fetched to find where it ends (R347). -/
def bodyWords (t root pl : Nat) (pc : Word) : Nat → State → Except TrapInfo (Nat × State)
  | 0, s => .ok (0, s)
  | n + 1, s =>
    match fetchInstr s t root pl pc with
    | .error c => .error c
    | .ok (w, s) =>
      let k := if isWide w.1.toNat then 2 else 1
      match bodyWords t root pl (pc + word (4 * k)) n s with
      | .error c => .error c
      | .ok (m, s) => .ok (k + m, s)

/-- REP (R347): a gang's follower repeats as its leader does (R170). -/
def execRep (a : SReg) (n : Nat) (s : State) : Out :=
  coreOp s (fun s =>
    nativeOnly s
    (trapsIf s.myNative.rep.active (trapOf .illegal (insnWord (.rep a n)) 0)
    ((readS a s).andThen (fun v s =>
      let c := match gangStep s with
        | some g => field g.value 0 32
        | none => field v 0 32
      let pc := s.me.pc + 4
      if c = 0 then
        match bodyWords s.here.tile s.me.root s.me.pl pc n s with
        | .error e => .trap e
        | .ok (m, s) => .go () (retireAt s.here.tile s.here.slot (4 + 4 * m) 0 s)
      else .go () ((retireV (word c) s).updMyNative (fun x => { x with rep := ⟨true, pc, n, [], 0, c⟩ }))))))

/-! Accumulators. -/

/-- Element (i, j) of an accumulator (R348). -/
def accAt (n : Native) (m i j : Nat) : BitVec 32 := sparseGet 0 n.m (1024 * m + 32 * i + j)

/-- The entries of a list of element values, from key `k` on, that are not zero. -/
def accEntries (k : Nat) : List (BitVec 32) → Sparse (BitVec 32)
  | [] => []
  | x :: xs => if x = 0 then accEntries (k + 1) xs else (k, x) :: accEntries (k + 1) xs

/-- An accumulator given 1024 element values in row-major order. -/
def accPut (n : Native) (m : Nat) (xs : List (BitVec 32)) : Native :=
  { n with m := n.m.filter (fun e => decide (e.1 < 1024 * m)) ++ accEntries (1024 * m) (xs.take 1024)
             ++ n.m.filter (fun e => decide (1024 * (m + 1) ≤ e.1)),
           badAcc := keyErase n.badAcc m, toldAcc := keyErase n.toldAcc m }

/-- A part that reads an accumulator: one of wrong parity raises ECC (R33, R157). -/
def soundAcc {β : Type} (m : Nat) (s : State) (k : Act β) : Act β :=
  if s.myNative.badAcc.contains m then .trap (eccTrap 10 (.acc m)) else k

/-- Whether an accumulator can be read or written but by DOT and DOTMX (R351). -/
def accReady (m : Nat) (s : State) : Bool := s.me.ripe (accKey m) s.cycle && s.me.ripe (dotKey m) s.cycle

/-- MZERO (R350). -/
def execMzero (m : Nat) (s : State) : Out :=
  coreOp s (fun s => nativeOnly s (needs (accReady m s) .unit <| .go () (retire (s.updMyNative (fun n => accPut n m [])))))

/-- `n` words from an address on, each checked: the traps that they meet, the accesses and the state. -/
def wordsChecked (va : Word) (kind : AccKind) (op : Nat → MemOp) : Nat → Nat → State → List TrapInfo × List Item × State
  | 0, _, s => ([], [], s)
  | n + 1, i, s =>
    match checkAccess (va + word (8 * i)) 8 kind 0 s with
    | .error c =>
      let r := wordsChecked va kind op n (i + 1) s
      (c :: r.1, r.2)
    | .ok (g, s) =>
      let r := wordsChecked va kind op n (i + 1) s
      (r.1, ⟨i, va + word (8 * i), g, op i⟩ :: r.2.1, r.2.2)

/-- The accesses to `n` words from an address on, or the trap that comes first in the order of R263. -/
def wordItems (va : Word) (kind : AccKind) (op : Nat → MemOp) (n i : Nat) (s : State) : Except TrapInfo (List Item × State) :=
  let r := wordsChecked va kind op n i s
  match firstCause r.1 with
  | some c => .error c
  | none => .ok r.2

/-- MLD (R350). -/
def execMld (m : Nat) (c : SReg) (s : State) : Out :=
  replyOp s (fun s0 =>
    nativeOnly s0 <| needs (accReady m s0) .unit
    ((readS c s0).andThen (fun va s =>
      trapsIf (decide (va.toNat % 64 ≠ 0)) (trapOf .misalign va 0)
      (match wordItems va .read (fun _ => .load 8) 512 0 s with
      | .error e => .trap e
      | .ok (xs, s) => issue s0 xs (.acc m) false false s))))

/-- The 8-byte word of an accumulator's image (R350). -/
def accWord (n : Native) (m i : Nat) : Word :=
  word ((accAt n m (2 * i / 32) (2 * i % 32)).toNat + (accAt n m ((2 * i + 1) / 32) ((2 * i + 1) % 32)).toNat * 2 ^ 32)

/-- MST (R350): every word is checked before any is written. -/
def execMst (m : Nat) (c : SReg) (s : State) : Out :=
  replyOp s (fun s0 =>
    nativeOnly s0 <| needs (accReady m s0) .unit <| soundAcc m s0
    ((readS c s0).andThen (fun va s =>
      trapsIf (decide (va.toNat % 64 ≠ 0)) (trapOf .misalign va 0)
      (match wordItems va .write (fun i => .store 8 (accWord s.myNative m i)) 512 0 s with
      | .error e => .trap e
      | .ok (xs, s) =>
        match firstFull s (xs.map (fun i => (i.va, i.target))) with
        | some w => .trap (trapOf .rewrite w 0)
        | none => issue s0 xs .nothing false false s))))

/-- ACTLD (R353). -/
def execActld (c : SReg) (s : State) : Out :=
  replyOp s (fun s0 =>
    nativeOnly s0
    ((readS c s0).andThen (fun va s =>
      trapsIf (decide (va.toNat % 16 ≠ 0)) (trapOf .misalign va 0)
      (match wordItems va .read (fun _ => .load 8) 66 0 s with
      | .error e => .trap e
      | .ok (xs, s) => issue s0 xs .act false false s))))

/-! Dot products (R248-R251, R348, R349). -/

/-- TRAPVAL2 in the tile form (R243): the row and column of the first element, numbered 32·i + j. -/
def tileReport (ls : List FpLane) : Word :=
  match ls with
  | [] => 0
  | l :: _ => word (l.idx / 32 + l.idx % 32 * 32)

/-- The element of `size` bytes at an index of a byte list. -/
def byteElem (bs : List Byte) (size i : Nat) : Nat := leNat ((bs.drop (size * i)).take size)

/-- The lines of 64 bytes of an operand, each as its elements (R348). -/
def operandLines (size : Nat) (bs : List Byte) : List (List Nat) :=
  (chunks 64 32 bs).map (fun l => (List.range (64 / size)).map (byteElem l size))

/-- How DOT reads its operands (R284): the signedness of integers, or the formats. -/
inductive DotKind where
  | int (sa sb : Bool)
  | flt (fa fb : FTy)
  deriving DecidableEq, Repr

/-- The operand kinds of DOT (R284). -/
def dotKind : DotTy → DotKind
  | .i8i8 => .int true true
  | .i8n8 => .int true false
  | .n8i8 => .int false true
  | .n8n8 => .int false false
  | .e4m3e4m3 => .flt .e4m3 .e4m3
  | .e4m3e5m2 => .flt .e4m3 .e5m2
  | .e5m2e4m3 => .flt .e5m2 .e4m3
  | .e5m2e5m2 => .flt .e5m2 .e5m2
  | .bf16 => .flt .bf16 .bf16
  | .f16 => .flt .f16 .f16

/-- An 8-bit integer of a signedness. -/
def int8 (isSigned : Bool) (x : Nat) : Int := if isSigned then sextInt x 8 else ((x % 256 : Nat) : Int)

/-- The exact sum of products of integers (R249). -/
def intDot (xs ys : List Int) : Int := (List.zipWith (fun x y => x * y) xs ys).foldl (fun a x => a + x) 0

/-- One element of an integer DOT (R249). -/
def intElem (acc : BitVec 32) (xs ys : List Int) : BitVec 32 := BitVec.ofInt 32 (acc.toNat + intDot xs ys)

/-- A value as the flags see it: under SNANTRAP a signalling NaN raises no NV itself (R242). -/
def FVal.operand (fpcsr : Word) : FVal → FVal
  | .nan s => .nan (s && !snanTrap fpcsr)
  | x => x

/-- One element of a floating-point DOT (R248): the pattern, its flags, and whether an operand is signalling. -/
def fpElem (fpcsr : Word) (idx : Nat) (acc : BitVec 32) (xs ys : List FVal) : BitVec 32 × FpLane :=
  let c := f32.val acc.toNat
  let ps := List.zipWith (fun x y => x.mul y) xs ys
  let r := f32.sum .rne (c :: ps.map Prod.fst)
  let bad := ps.any Prod.snd
  let sn := (c :: (xs ++ ys)).any FVal.isSnan
  let fl := r.fl ||| flIf bad flNV ||| flIf (sn && !snanTrap fpcsr) flNV
  (BitVec.ofNat 32 (if bad then f32.defaultNan else r.bits), ⟨idx, fl, sn⟩)

/-- The elements of a block product in row-major order, by a function of the row's and the column's operands. -/
def blockElems {α β : Type} (f : Nat → List α → List α → β) (a b : List (List α)) : List β :=
  ((List.range 32).zip a).flatMap (fun x => ((List.range 32).zip b).map (fun y => f (32 * x.1 + y.1) x.2 y.2))

/-- The dot-product unit taken for some cycles (R157, R351). -/
def takeUnit (n : Nat) (s : State) : State := s.updHere (fun x => { x with dotUntil := s.cycle + n })

/-- The dot-product unit taken by a DOT or DOTMX on an accumulator (R157, R351). -/
def takeDot (m : Nat) (s : State) : State := (takeUnit 32 s).upd (fun x => x.setBusy (dotKey m) s.cycle 34)

/-- Whether the dot-product unit is free. -/
def unitFree (s : State) : Bool := decide (s.hereTile.dotUntil ≤ s.cycle)

/-- The results of a floating-point block product judged and stored (R243, R268). -/
def storeBlock (m : Nat) (r : List (BitVec 32 × FpLane)) (s : State) : Act Unit :=
  withFlags tileReport (r.map Prod.snd) s (fun s =>
    .go () (retire (takeDot m (s.updMyNative (fun n => accPut n m (r.map Prod.fst))))))

/-- DOT (R348). -/
def execDot (t : DotTy) (m qa qb : Nat) (s : State) : Out :=
  coreOp s (fun s0 =>
    nativeOnly s0
    (needs (unitFree s0 && s0.me.ripe (accKey m) s0.cycle) .unit
    (soundAcc m s0
    (checkStreams [(qa, false, 2048), (qb, false, if qa = qb then 4096 else 2048)] s0
    (streamOp (fun q => .wait (.stream q)) s0 [(qa, 2048), (qb, 2048)] none s0 (fun xs s =>
        match dotKind t with
        | .int sa sb =>
          let a := (operandLines 1 (nth [] xs 0)).map (fun l => l.map (int8 sa))
          let b := (operandLines 1 (nth [] xs 1)).map (fun l => l.map (int8 sb))
          let r := blockElems (fun i x y => intElem (accAt s.myNative m (i / 32) (i % 32)) x y) a b
          .go () (retire (takeDot m (s.updMyNative (fun n => accPut n m r))))
        | .flt fa fb =>
          let size := (fmtOf fa).width / 8
          let a := (operandLines size (nth [] xs 0)).map (fun l => l.map (fmtOf fa).val)
          let b := (operandLines size (nth [] xs 1)).map (fun l => l.map (fmtOf fb).val)
          storeBlock m (blockElems (fun i x y => fpElem s.me.fpcsr i (accAt s.myNative m (i / 32) (i % 32)) x y) a b) s))))))

/-- The value of an element of a DOTMX operand (R236). -/
def mxVal (t : MxTy) (x : Nat) : FVal :=
  match t with
  | .e4m3 => (fmtOf .e4m3).val x
  | .e5m2 => (fmtOf .e5m2).val x
  | .i8 => .fin (decide (sextInt x 8 < 0)) (sextInt x 8).natAbs (-6)

/-- A value scaled by an E8M0 scale; 0xFF marks a NaN scale (R236, R251). -/
def mxScaled (scale : Nat) (x : FVal) : FVal :=
  match x with
  | .fin n m e => .fin n m (e + scale - 127)
  | x => x

/-- An operand of DOTMX: for each line its scaled values, and whether a scale is NaN (R349, R251); a signalling NaN stays one under any
scale (R243). -/
def mxLines (t : MxTy) (bs scales : List Byte) : List (List (FVal × Bool)) :=
  ((List.range 32).zip (operandLines 1 bs)).map (fun l =>
    ((List.range 64).zip l.2).map (fun e =>
      let x := (nth 0 scales (2 * l.1 + e.1 / 32)).toNat
      if x = 255 then (.nan (mxVal t e.2).isSnan, true) else (mxScaled x (mxVal t e.2), false)))

/-- One element of DOTMX (R251): a NaN scale raises NV. -/
def mxElem (fpcsr : Word) (idx : Nat) (acc : BitVec 32) (xs ys : List (FVal × Bool)) : BitVec 32 × FpLane :=
  let r := fpElem fpcsr idx acc (xs.map Prod.fst) (ys.map Prod.fst)
  (r.1, { r.2 with fl := r.2.fl ||| flIf ((xs ++ ys).any Prod.snd) flNV })

/-- The bytes that the takes of a list of registers need of a register, up to and with the i-th (R348, R349). -/
def takeTotals (xs : List (Nat × Nat)) : List (Nat × Bool × Nat) :=
  xs.map (fun e => (e.1, false, ((xs.filter (fun f => decide (f.1 = e.1))).map Prod.snd).sum))

/-- DOTMX (R349). -/
def execDotmx (t : MxTy) (m qa qb qsa qsb : Nat) (s : State) : Out :=
  coreOp s (fun s0 =>
    let qs := [(qa, 2048), (qb, 2048), (qsa, 64), (qsb, 64)]
    nativeOnly s0
    (needs (unitFree s0 && s0.me.ripe (accKey m) s0.cycle) .unit
    (soundAcc m s0
    (checkStreams (takeTotals qs) s0
    (streamOp (fun q => .wait (.stream q)) s0 qs none s0 (fun xs s =>
      storeBlock m (blockElems (fun i x y => mxElem s.me.fpcsr i (accAt s.myNative m (i / 32) (i % 32)) x y)
        (mxLines t (nth [] xs 0) (nth [] xs 2)) (mxLines t (nth [] xs 1) (nth [] xs 3))) s))))))

/-! The output chain (R252-R254, R352). -/

/-- A value on its way through the output chain: its f32 pattern, the flags raised, and whether an operand was signalling. -/
structure Chain where
  x : Nat
  fl : FFlags
  snan : Bool
  deriving DecidableEq, Repr

/-- One operation of the chain on f32 patterns. -/
def Chain.op (fpcsr : Word) (c : Chain) (f : Nat → Nat → FRes) (y : Nat) : Chain :=
  let r := f (f32.operand fpcsr c.x) (f32.operand fpcsr y)
  ⟨r.bits, c.fl ||| r.fl, c.snan || (f32.val c.x).isSnan || (f32.val y).isSnan⟩

/-- The segment that the activation's w selects (R253); none for a NaN. -/
def segmentOf (w : Nat) : Option Nat :=
  match f32.val w with
  | .nan _ => none
  | .inf n => some (if n then 0 else 63)
  | .fin n m e => if n then some 0 else some (min 63 (if 0 ≤ e then m * 2 ^ (min e 64).toNat else m / 2 ^ (-e).toNat))

/-- An f32 of the activation table at a byte offset. -/
def actWord (n : Native) (off : Nat) : Nat := leNat ((List.range 4).map (fun i => sparseGet 0 n.act (off + i)))

/-- The activation stage (R253). -/
def activate (fpcsr : Word) (n : Native) (c : Chain) : Chain :=
  let u := c.op fpcsr (f32.sub .rne) (actWord n 0)
  let w := u.op fpcsr (f32.mul .rne) (actWord n 4)
  match segmentOf w.x with
  | none => { w with x := f32.defaultNan }
  | some g =>
    let sl := actWord n (16 + 8 * g)
    let ic := actWord n (20 + 8 * g)
    let r := f32.fma .rne false (f32.operand fpcsr sl) (f32.operand fpcsr c.x) (f32.operand fpcsr ic)
    ⟨r.bits, w.fl ||| r.fl, w.snan || (f32.val sl).isSnan || (f32.val ic).isSnan⟩

/-- The floating-point type of an output type; none for an integer (R352). -/
def outFty : OutTy → Option FTy
  | .e4m3 => some .e4m3
  | .e5m2 => some .e5m2
  | .bf16 => some .bf16
  | .f16 => some .f16
  | .f32 => some .f32
  | _ => none

/-- Bytes of an output type (R352). -/
def outBytes : OutTy → Nat
  | .i8 => 1
  | .n8 => 1
  | .e4m3 => 1
  | .e5m2 => 1
  | .bf16 => 2
  | .f16 => 2
  | .f32 => 4

/-- Requantisation to an integer type (R254). -/
def quantInt (t : ITy) (x scale : FVal) (zp : Int) : Nat × FFlags :=
  match (x.mul scale).1 with
  | .nan _ => (0, flNV)
  | .inf n => (ityBits t (if n then ityLeast t else ityGreatest t), 0)
  | .fin n m e =>
    let q := roundInt .rne n m e
    (ityBits t (ityClamp t ((if n then -(q.1 : Int) else q.1) + zp)), flIf q.2 flNX)

/-- Requantisation (R254). -/
def requantise (fpcsr : Word) (o : OutTy) (scale : Nat) (zp : Int) (c : Chain) : Chain :=
  let vx := f32.val c.x
  let vs := f32.val scale
  let sn := c.snan || vx.isSnan || vs.isSnan
  let p := vx.mul vs
  let nv := flIf p.2 flNV ||| flIf ((vx.isSnan || vs.isSnan) && !snanTrap fpcsr) flNV
  match o, outFty o with
  | _, some f =>
    let r := (fmtOf f).ofVal .rne true p.1
    ⟨r.bits, c.fl ||| r.fl ||| nv, sn⟩
  | .n8, none => let r := quantInt .n8 vx vs zp; ⟨r.1, c.fl ||| r.2, sn⟩
  | _, none => let r := quantInt .i8 vx vs zp; ⟨r.1, c.fl ||| r.2, sn⟩

/-- One element through the output chain (R252): the parameter block gives bias, scale and zero point of its column. -/
def outElem (fpcsr : Word) (n : Native) (o : OutTy) (bias act quant i32 : Bool) (ps : List Byte) (m i : Nat) : Nat × FpLane :=
  let x := (accAt n m (i / 32) (i % 32)).toNat
  let j := i % 32
  let r0 := cvtIF .i32 f32 .rne false x
  let c : Chain := if i32 then ⟨r0.bits, r0.fl, false⟩ else ⟨x, 0, false⟩
  let c := if bias then c.op fpcsr (f32.add .rne) (byteElem ps 4 j) else c
  let c := if act then activate fpcsr n c else c
  let c := if quant then requantise fpcsr o (byteElem ps 4 (32 + j)) (sextInt (byteElem ps 4 (64 + j)) 32) c else c
  (c.x, ⟨i, c.fl, c.snan⟩)

/-- MOUT (R352): the parameter block is read where the output needs it. -/
def execMout (o : OutTy) (bias act quant i32 : Bool) (m qa qb : Nat) (s : State) : Out :=
  coreOp s (fun s0 =>
    let wanted := bias || quant
    nativeOnly s0 <| needs (accReady m s0 && decide (s0.hereTile.outUntil ≤ s0.cycle)) .unit <| soundAcc m s0
    (checkStreams ((qa, true, 1024 * outBytes o) :: (if wanted then [(qb, false, 384)] else [])) s0
    (streamOp (fun q => .wait (.stream q)) s0 (if wanted then [(qb, 384)] else []) (some (qa, 1024 * outBytes o)) s0 (fun xs s =>
      let r := (List.range 1024).map (outElem s.me.fpcsr s.myNative o bias act quant i32 (nth [] xs 0) m)
      putStream qa (r.flatMap (fun e => leBytes (outBytes o) e.1)) s (fun s =>
        withFlags tileReport (r.map Prod.snd) s (fun s =>
          .go () (retire (s.updHere (fun x => { x with outUntil := s.cycle + 16 })))))))))

/-! SPLIT and MERGE (R255-R257, R354, R355). -/

/-- The exponent of a line of finite f64 values (R255). -/
def splitExp (xs : List FVal) : Int :=
  let tops := xs.filterMap (fun x => match x with
    | .fin _ m e => if m = 0 then none else some ((Nat.log2 m : Int) + e)
    | _ => none)
  match tops with
  | [] => -1022
  | x :: xs => xs.foldl max x + 3

/-- floor(a · 2^(7s - e)) of a finite value (R255). -/
def splitInt (s : Nat) (e : Int) (x : FVal) : Int :=
  match x with
  | .fin n m ex =>
    let sh := ex + 7 * s - e
    let v : Int := if n then -(m : Int) else m
    if 0 ≤ sh then v * (2 ^ sh.toNat : Nat) else v / (2 ^ (-sh).toNat : Nat)
  | _ => 0

/-- The digits of M from the least significant up (R255): `n` of them, the carry coming in. -/
def splitDigits (m : Int) (c : Int) : Nat → List Int
  | 0 => []
  | n + 1 =>
    let t := m % 128 + c
    if 64 ≤ t then (t - 128) :: splitDigits (m / 128) 1 n else t :: splitDigits (m / 128) 0 n

/-- A line split (R255): its exponent, for each element its digits from the most significant down, and whether it holds a NaN or
an infinity. -/
def splitLine (s : Nat) (xs : List FVal) : Int × List (List Int) × Bool :=
  let bad := xs.any (fun x => match x with
    | .fin _ _ _ => false
    | _ => true)
  let e := splitExp xs
  if bad then (0x7FFF, xs.map (fun _ => List.replicate s 0), true)
  else (e, xs.map (fun x => (splitDigits (splitInt s e x) 0 s).reverse), false)

/-- What a line of SPLIT raises (R255). -/
def splitLane (fpcsr : Word) (l : Nat) (xs : List FVal) : FpLane :=
  let other := xs.any (fun x => match x with
    | .nan sn => !sn
    | .inf _ => true
    | _ => false)
  let sn := xs.any FVal.isSnan
  ⟨l, flIf (other || (sn && !snanTrap fpcsr)) flNV, sn⟩

/-- The lines of a panel (R354). -/
def panelLines (cols : Bool) (n : Nat) (bs : List Byte) : List (List FVal) :=
  let xs := (chunks 8 (32 * n) bs).map (fun b => f64.val (leNat b))
  if cols then (List.range 32).map (fun l => (List.range n).map (fun r => nth (.fin false 0 0) xs (32 * r + l)))
  else chunks n 32 xs

/-- The bytes that SPLIT puts (R354). -/
def splitBytes (s : Nat) (r : List (Int × List (List Int) × Bool)) : List Byte :=
  r.flatMap (fun l => leBytes 4 (wordOfInt l.1).toNat)
    ++ (List.range s).flatMap (fun k => r.flatMap (fun l => l.2.1.map (fun ds => BitVec.ofInt 8 (nth 0 ds k))))

/-- TRAPVAL2 of SPLIT (R255): the lowest line. -/
def lineReport (ls : List FpLane) : Word :=
  match ls with
  | [] => 0
  | l :: _ => word l.idx

/-- What SPLIT refuses of its streams (R354). -/
def splitRefused (x y : Stream) (s : Nat) : Bool :=
  let n := x.total / 256
  decide (x.kind = .none) || decide (x.kind = .tap) || x.write || decide (x.pos ≠ 0)
    || decide (x.total ≠ 256 * n) || decide (n % 8 ≠ 0) || decide (n < 8) || decide (512 < n)
    || decide (y.kind = .none) || !y.write || y.past (y.pos + (128 + 32 * n * s))

/-- SPLIT (R354): qa to qb, `sl` slices. -/
def execSplit (cols : Bool) (sl : Nat) (qa qb : Nat) (s : State) : Out :=
  coreOp s (fun s0 =>
    nativeOnly s0
    (needs (unitFree s0) .unit
    (trapsIf (splitRefused (myStream s0 qa) (myStream s0 qb) sl) (trapOf .access 0 0)
    (let n := (myStream s0 qa).total / 256
     streamOp (pullStream s0) s0 [(qa, 256 * n)] (some (qb, 128 + 32 * n * sl)) s0 (fun xs s =>
      let ls := panelLines cols n (nth [] xs 0)
      putStream qb (splitBytes sl (ls.map (splitLine sl))) s (fun s =>
        withFlags lineReport (((List.range 32).zip ls).map (fun l => splitLane s.me.fpcsr l.1 l.2)) s (fun s =>
          .go () (retire (takeUnit (n / 2 + 32) s)))))))))

/-- The exact sum D_t of partial sums (R257): the images of the pairs with k + l = t, element `i`. -/
def mergeSum (images : List (List Nat)) (t i : Nat) : Int :=
  (List.range (t - 1)).foldl (fun a k => a + sextInt (nth 0 (nth [] images ((t - 1) * (t - 2) / 2 + k)) i) 32) 0

/-- An integer scaled by a power of two, as a value. -/
def scaledVal (d e : Int) : FVal := .fin (decide (d < 0)) d.natAbs e

/-- The sum of R257 from diagonal t down to 2: `n` steps left. -/
def mergeSteps (images : List (List Nat)) (i : Nat) (e : Int) : Nat → FRes → FRes
  | 0, c => c
  | n + 1, c =>
    let t := n + 2
    let r := f64.sum .rne [f64.val c.bits, scaledVal (mergeSum images t i) (e - 7 * t)]
    mergeSteps images i e n ⟨r.bits, c.fl ||| r.fl⟩

/-- One element of MERGE (R257). -/
def mergeElem (n : Native) (m s : Nat) (images : List (List Nat)) (i : Nat) : Nat × FpLane :=
  let e := sextInt (accAt n m 0 (i / 32)).toNat 32
  let f := sextInt (accAt n m 1 (i % 32)).toNat 32
  if e = 0x7FFF ∨ f = 0x7FFF then (f64.defaultNan, ⟨i, 0, false⟩)
  else
    let d := mergeSum images (s + 1) i
    let c := f64.round .rne false (decide (d < 0)) d.natAbs (e + f - 7 * (s + 1)) false
    let r := mergeSteps images i (e + f) (s - 1) c
    (r.bits, ⟨i, r.fl, false⟩)

/-- MERGE (R355): md and the images of qa to qb, `sl` slices. -/
def execMerge (sl : Nat) (m qa qb : Nat) (s : State) : Out :=
  coreOp s (fun s0 =>
    let n := sl * (sl + 1) / 2
    nativeOnly s0
    (needs (unitFree s0 && accReady m s0) .unit
    (soundAcc m s0
    (checkStreams [(qa, false, 4096 * n), (qb, true, 8192)] s0
    (streamOp (pullStream s0) s0 [(qa, 4096 * n)] (some (qb, 8192)) s0 (fun xs s =>
      let images := (chunks 4096 n (nth [] xs 0)).map (fun b => (chunks 4 1024 b).map leNat)
      let r := (List.range 1024).map (mergeElem s.myNative m sl images)
      putStream qb (r.flatMap (fun e => leBytes 8 e.1)) s (fun s =>
        withFlags tileReport (r.map Prod.snd) s (fun s =>
          .go () (retire (takeUnit (16 * sl * (sl + 1) / 2 + 32) s))))))))))

end Sys2Proof.Machine
end

