-- ==== Sys2Proof/Machine/Engine.lean ====
section
/-! DEFINITION. The copy engines (R380-R384), the stream generators at edge ports (R385-R387), and a thread's hold on the ring tap
(R388-R390). -/

namespace Sys2Proof.Machine

/-! Status words (R384). -/

/-- Status code MALFORMED. -/
def stMalformed : Nat := 1

/-- Status code ACCESS. -/
def stAccess : Nat := 2

/-- Status code PAGE. -/
def stPage : Nat := 3

/-- Status code BUSY. -/
def stBusy : Nat := 4

/-- Status code LINK. -/
def stLink : Nat := 5

/-- Status code REWRITE. -/
def stRewrite : Nat := 7

/-- A status word (R384). -/
def statusWord (code : Nat) (poisoned : Bool) (bytes : Nat) : Word :=
  word (code * 2 ^ 56 + bit poisoned * 2 ^ 55 + min bytes (2 ^ 48 - 1))

/-- The status of a copy or stream given to the thread that awaits it (R380): its wait acquires what the request wrote (R216), so
the tile's CACHE lines go. Of a thread that has ended the status is discarded (R393). -/
def giveStatus (w : Who) (tok : Nat) (v : Word) (s : State) : State :=
  match s.thread w.tile w.slot with
  | some x =>
    if x.uid ≠ w.uid then s
    else match x.awaited.find? (fun a => decide (a.tok = tok)) with
      | some a =>
        let s := s.updKept w.tile w.slot (fun x => { x with awaited := x.awaited.filter (fun b => decide (b.tok ≠ tok)) })
        (match a.dest with
        | .gen n => (dropLines w.tile s).updKept w.tile w.slot (fun x => x.putS n v s.cycle 1)
        | d => writeSAt w.tile w.slot d v 1 (dropLines w.tile s))
      | none => s
  | none => s

/-! Ranges (R148, R382). -/

/-- The first byte from `a` up to `e` that lies in none of the ranges, `fuel` of which may be passed. -/
def firstOutside (rs : List (Word × Nat)) : Nat → Nat → Nat → Option Nat
  | 0, a, e => if a < e then some a else none
  | fuel + 1, a, e =>
    if e ≤ a then none
    else match rs.find? (fun r => decide (r.1.toNat ≤ a) && decide (a < r.1.toNat + r.2)) with
      | some r => firstOutside rs fuel (r.1.toNat + r.2) e
      | none => some a

/-- The parts of a range that lie in global memory (R180), in the order of its bytes: addresses go on from 0 after the last. -/
def globalParts (a e : Nat) : List (Nat × Nat) :=
  [(a, min e 0x7F0000000000), (max a 0xFFFF800000000000, min e (2 ^ 64)), (0, min (e - 2 ^ 64) 0x7F0000000000)]

/-- The purity trap of a range of a request (R148, R149): its bytes in global memory are checked, and only they. -/
def rangePurity (rs : List (Word × Nat)) (reason : Nat) (va : Word) (n : Nat) : Option TrapInfo :=
  ((globalParts va.toNat (va.toNat + n)).findSome? (fun p => firstOutside rs (rs.length + 1) p.1 p.2)).map
    (fun a => trapOf .purity (word a) (word reason))

/-- Why an engine's check fails (R382, R384): the code, and the storage key of the poisoned table entry that its walk met (R205). -/
structure Failure where
  code : Nat
  bad : Option Nat
  deriving DecidableEq, Repr

/-- A failed check without poison. -/
def failed (code : Nat) : Failure := ⟨code, none⟩

/-- A translation by an engine (R382): a fresh walk of the node's table. Code LINK says that a module on the way is down, so that the request
is held (R20). -/
def engineMap (s : State) (src : Node) (root pl : Nat) (va : Word) (k : AccKind) : Except Failure (Mapped × State) :=
  let w := walk s src root va
  match w.1 with
  | .bad _ => .error (failed stPage)
  | .poison _ key => .error ⟨stPage, some key⟩
  | .link _ => .error (failed stLink)
  | .leaf level e =>
    match leafAnswer w.2 pl k level e va 0 with
    | .ok m => if (paKey w.2 m.pa).isSome || isConfig w.2 m.pa then .ok (m, w.2) else .error (failed stAccess)
    | .error _ => .error (failed stAccess)

/-- The target of an aligned piece of a range, checked under R181 and R182 and translated (R382). -/
def engineTarget (w : Who) (src : Node) (root pl : Nat) (va : Word) (k : AccKind) (s : State) : Except Failure (Target × State) :=
  match placeOf w.tile va with
  | .nowhere => .error (failed stAccess)
  | .sram t off _ => if sramOpen s w.tile t off then .ok (.sram t off, s) else .error (failed stAccess)
  | .glob =>
    match engineMap s src root pl va k with
    | .ok (m, s) => .ok (.glob m.pa m.nol1, s)
    | .error c => .error c

/-- What the checks of a range come to: the targets found, and the failures. -/
structure Span where
  targets : List Target
  bad : List Failure
  deriving DecidableEq, Repr

/-- The checks of `n` pieces of `size` bytes from an address up (R382): every one is made. -/
def spanFrom (w : Who) (src : Node) (root pl size : Nat) (k : AccKind) : Nat → Word → State → Span × State
  | 0, _, s => (⟨[], []⟩, s)
  | n + 1, va, s =>
    match engineTarget w src root pl va k s with
    | .ok (g, s) =>
      let r := spanFrom w src root pl size k n (va + word size) s
      (⟨g :: r.1.targets, r.1.bad⟩, r.2)
    | .error c =>
      let r := spanFrom w src root pl size k n (va + word size) s
      (⟨r.1.targets, c :: r.1.bad⟩, r.2)

/-- Whether a module that is down holds the checks (R20). -/
def heldBy (bad : List Failure) : Bool := bad.any (fun b => decide (b.code = stLink))

/-- The memory that a target lies in (R181): global memory, or one tile's slot. -/
def Target.memory : Target → Option Nat
  | .sram t _ => some t
  | .glob _ _ => none

/-- A range whose bytes lie in more than one memory fails with ACCESS (R181). -/
def oneMemory (x : Span) : Span :=
  match x.targets with
  | g :: gs => if gs.all (fun h => decide (h.memory = g.memory)) then x else { x with bad := failed stAccess :: x.bad }
  | [] => x

/-- The word that a physical address names: its storage key, or its address where it has none. -/
def paName (s : State) (pa : Nat) : Bool × Nat :=
  match paKey s pa with
  | some k => (true, k / 8)
  | none => (false, pa / 8)

/-- The word that a virtual address names (R382), whether it may be accessed or not: none where nothing is mapped. -/
def wordNamed (s : State) (t : Nat) (src : Node) (root : Nat) (va : Word) : Option (Bool × Nat) :=
  match placeOf t va with
  | .nowhere => none
  | .sram u off _ => some (true, sramKey u off / 8)
  | .glob =>
    match (walk s src root va).1 with
    | .leaf level e => some (paName s (leafPa level e va))
    | _ => none

/-- The words that a range of `n` words names. -/
def wordsNamed (s : State) (t : Nat) (src : Node) (root : Nat) (va : Word) (n : Nat) : List (Bool × Nat) :=
  (List.range n).filterMap (fun i => wordNamed s t src root (va + word (8 * i)))

/-- Whether two ranges of `n` words overlap as virtual addresses of global memory. -/
def vaOverlap (t : Nat) (a b : Word) (n : Nat) : Bool :=
  decide (placeOf t a = .glob) && decide (placeOf t b = .glob) && (decide ((a - b).toNat < 8 * n) || decide ((b - a).toNat < 8 * n))

/-- The code that the failures of the checks give, the first in the order of the codes (R384). -/
def worst (bad : List Failure) : Nat :=
  if bad.isEmpty then 0 else if bad.any (fun b => decide (b.code = stAccess)) then stAccess else stPage

/-- Whether a walk of the checks met poison (R384). -/
def anyBad (bad : List Failure) : Bool := bad.any (fun b => b.bad.isSome)

/-- The poisoned table entries that walks met found (R270). -/
def detectBad (bad : List Failure) (s : State) : State := (bad.filterMap (fun b => b.bad)).foldl (fun s k => s.detect k 8) s

/-- The check of an arrival word of a request (R374, R378, R382): its physical address. -/
def engineArrival (src : Node) (root pl : Nat) (aw : Word) (s : State) : Except Failure (Option Nat × State) :=
  if aw = 0 then .ok (none, s)
  else if isHandle aw then
    if aw.toNat % 16 = 0 ∧ poolAllocated s (field aw 0 52) then .ok (some (field aw 0 52), s) else .error (failed stAccess)
  else if aw.toNat % 16 ≠ 0 ∨ placeOf 0 aw ≠ .glob then .error (failed stAccess)
  else match engineMap s src root pl aw .atomic with
    | .ok (m, s) => .ok (some m.pa, s)
    | .error c => .error c

/-! Words moved by engines (R383). -/

/-- A word read by an engine, with its poison; global words fold first (R104). -/
def engineRead (g : Target) (s : State) : (Word × Bool) × State :=
  match g with
  | .sram t off => ((word (s.getNat (sramKey t off) 8), s.isPoisoned (sramKey t off) 8), s.detect (sramKey t off) 8)
  | .glob pa _ =>
    match paKey s pa with
    | some k =>
      let s := s.fold pa k
      ((word (s.getNat k 8), s.isPoisoned k 8), s.detect k 8)
    | none =>
      match paKind s pa with
      | .config m off =>
        let r := configOp s m off (.load 8)
        ((match r.1 with
          | .ok v => v
          | _ => 0, false), r.2)
      | _ => ((0, false), s)

/-- A word written by an engine: whether it was written, which a full SA word is not (R187). -/
def engineWrite (w : Who) (g : Target) (v : Word) (poisoned : Bool) (s : State) : Bool × State :=
  match g with
  | .sram t off => engineSram s t off v poisoned
  | .glob pa _ =>
    match paKey s pa with
    | some k =>
      let s := (if poisoned then s.beforePoison k else s).writePa pa k 8 v.toNat (some w)
      let s := if poisoned then s.poisonWord k else s
      (true, ordRejudge s pa)
    | none =>
      match paKind s pa with
      | .config m off => (true, (configOp (serveSure (fun _ => true) s) m off (.store 8 v)).2)
      | _ => (false, s)

/-- The bytes of global memory that a target's word moves (R60). -/
def Target.globalBytes : Target → Nat
  | .sram _ _ => 0
  | .glob _ _ => 8

/-- The words of a range read for another package. -/
def readWords (node : Option Nat) : List Target → State → List (Word × Bool) × State
  | [], s => ([], s)
  | g :: gs, s =>
    let r := engineRead g s
    let q := readWords node gs (r.2.chargeNode node g.globalBytes)
    (r.1 :: q.1, q.2)

/-! Copy requests (R381, R382). -/

/-- SRC of a request. -/
def copySrc (v : Vec) : Word := descWord v 0

/-- DST of a request. -/
def copyDst (v : Vec) : Word := descWord v 1

/-- LEN of a request. -/
def copyLen (v : Vec) : Nat := field (descWord v 2) 0 40

/-- AW of a request. -/
def copyAw (v : Vec) : Word := descWord v 3

/-- DPKG of a request. -/
def copyPkg (v : Vec) : Nat := field (descWord v 4) 16 8

/-- REMOTE of a request. -/
def copyRemote (v : Vec) : Bool := flag (descWord v 4) 9

/-- MCAST of a request. -/
def copyMcast (v : Vec) : Bool := flag (descWord v 4) 8

/-- ENG of a request. -/
def copyEng (v : Vec) : Nat := field (descWord v 4) 0 8

/-- The tiles of RECT in row-major order; none where its corners are out of order. -/
def copyRect (v : Vec) : List Nat :=
  let d := descWord v 5
  let x0 := field d 0 8
  let y0 := field d 8 8
  (List.range (field d 24 8 + 1 - y0)).flatMap (fun j => (List.range (field d 16 8 + 1 - x0)).map (fun i => tileAt (x0 + i) (y0 + j)))

/-- Whether a tile index lies in the region of an issuer. -/
def inRegion (s : State) (t u : Nat) : Bool :=
  match regionOf s t with
  | some r => r.has u
  | none => false

/-- Whether RECT is inside the issuer's region on one die (R382). -/
def rectOk (s : State) (t : Nat) (v : Vec) : Bool :=
  let d := descWord v 5
  let us := copyRect v
  !us.isEmpty && decide (field d 16 8 < 64) && us.all (fun u => inRegion s t u && decide (dieOfTile u = dieOfTile (us.headD 0)))

/-- The MPT whose engine an ENG names (R381): the one at the end of the tile's column for 0xFF and for an MPT that the part lacks,
which then reports the request as malformed. -/
def engineOf (s : State) (t eng : Nat) : Nat := if eng < s.part.mpts then eng else mptOfTile t

/-- Whether ENG is in range (R381). -/
def engOk (s : State) (eng : Nat) : Bool := decide (eng < s.part.mpts) || decide (eng = 255)

/-- Whether a copy request is malformed, but for overlapping ranges (R382). -/
def copyBad (s : State) (t : Nat) (v : Vec) : Bool :=
  decide (field (descWord v 2) 40 24 ≠ 0) || decide (field (descWord v 4) 24 40 ≠ 0) || decide (field (descWord v 4) 10 6 ≠ 0)
    || decide (field (descWord v 5) 32 32 ≠ 0) || decide (descWord v 6 ≠ 0) || decide (descWord v 7 ≠ 0)
    || decide ((copySrc v).toNat % 8 ≠ 0) || decide ((copyDst v).toNat % 8 ≠ 0) || decide (copyLen v % 8 ≠ 0) || decide (copyLen v = 0)
    || !engOk s (copyEng v) || (copyMcast v && copyRemote v)
    || (copyMcast v && (!rectOk s t v || decide (0xC0000 < (copyDst v).toNat + copyLen v)))
    || (copyRemote v && (decide (copyPkg v = pkgId s) || !inDomain s (copyPkg v)))

/-- The purity trap of a copy (R148): a destination on another package is no output range. -/
def copyPurity (s : State) (x : Thread) (v : Vec) : Option TrapInfo :=
  match purityOf s x with
  | none => none
  | some p =>
    match rangePurity p.args 1 (copySrc v) (copyLen v) with
    | some c => some c
    | none =>
      if copyMcast v then none
      else if copyRemote v then some (trapOf .purity (copyDst v) 2)
      else rangePurity p.outs 2 (copyDst v) (copyLen v)

/-- An awaited status noted (R380): of s0 none is. -/
def awaitStatus (d : SReg) (tok : Nat) (isStream : Bool) (x : Thread) : Thread :=
  if d = .gen 0 then x else { x with awaited := x.awaited ++ [⟨tok, d, isStream⟩] }

/-- Whether a slot may have another CPY or STRM outstanding (R380). -/
def engineRoom (d : SReg) (x : Thread) : Bool := decide (d = .gen 0) || decide (x.awaited.length < 8)

/-- A request of the present thread handed to its engine (R380). -/
def sendRequest (d : SReg) (isStream : Bool) (m : Nat) (b : Nat → Body) (s : State) : State :=
  let id := s.nextId
  let s := { s with nextId := id + 1 }
  (s.upd (awaitStatus d id isStream)).send .bulk (.tile s.here.tile) (.mpt m) (b id)

/-- CPY (R380). -/
def execCpy (d : SReg) (a : VReg) (s : State) : Out :=
  coreOp s (fun s0 =>
    needs (engineRoom d s0.me) .status
    (roomS d s0
    ((readV a s0).andThen (fun v s =>
      match copyPurity s s.me v with
      | some c => .trap c
      | none =>
        releases true s0
        (let m := engineOf s s.here.tile (copyEng v)
         let c (id : Nat) : Body := .copy
           { id := id, who := s.who, tok := id, node := s.me.node, req := v, root := s.me.root, pl := s.me.pl, engine := m, begun := false,
             counts := [], code := 0, poisoned := false, bytes := 0, sent := 0 }
         .go () (retire (sendRequest d false m c s)))))))

/-- A copy that ends without having begun: its status is given at once. -/
def refuseCopy (c : Copy) (code : Nat) (poisoned : Bool) (s : State) : State := giveStatus c.who c.tok (statusWord code poisoned 0) s

/-- A copy that its checks end (R382, R384). -/
def failCopy (c : Copy) (code : Nat) (bad : List Failure) (s : State) : State := refuseCopy c code (anyBad bad) (detectBad bad s)

/-- The words of a copy with the places they go to: under a multicast, every tile of RECT. -/
def copyPairs (src dst : List Target) (mcast : Bool) (us : List Nat) (off : Nat) : List (Target × List Target) :=
  if mcast then (src.zip (List.range src.length)).map (fun e => (e.1, us.map (fun u => .sram u (off + 8 * e.2))))
  else (src.zip dst).map (fun e => (e.1, [e.2]))

/-- The checks of a destination under MCAST: every word of every tile. -/
def mcastSpan (s : State) (us : List Nat) (off words : Nat) : Span :=
  let gs : List (Nat × Nat) := us.flatMap (fun u => (List.range words).map (fun i => (u, off + 8 * i)))
  ⟨gs.map (fun g => .sram g.1 g.2), if gs.all (fun g => bankOpen (s.tile g.1) (g.2 / 0x10000)) then [] else [failed stAccess]⟩

/-! Copied words on their way (R173, R174, R383). -/

/-- The endpoint at which a target's word is read or written. -/
def targetNode (s : State) : Target → Node
  | .sram t _ => .tile t
  | .glob pa _ => .mpt (homeMpt s pa)

/-- Words cut into runs for one endpoint each, in order. -/
def pushRuns (s : State) : List (Target × Word × Bool) → List (Node × List (Target × Word × Bool))
  | [] => []
  | x :: xs =>
    match pushRuns s xs with
    | (n, ys) :: rest => if n = targetNode s x.1 then (n, x :: ys) :: rest else (targetNode s x.1, [x]) :: (n, ys) :: rest
    | [] => [(targetNode s x.1, [x])]

/-- The words of a piece for the places of a number. -/
def placeWords (got : List (Word × Bool × List Target)) (i : Nat) : List (Target × Word × Bool) :=
  got.filterMap (fun e => (e.2.2[i]?).map (fun g => (g, e.1, e.2.1)))

/-- A piece of at most 2048 bytes sent to its places, from the engine (R383): one packet for each endpoint, in order for each. -/
def sendPushes (c : Copy) (got : List (Word × Bool × List Target)) (s : State) : State :=
  (List.range (match got with
    | e :: _ => e.2.2.length
    | [] => 0)).foldl (fun s i =>
      (pushRuns s (placeWords got i)).foldl (fun s r => s.send .bulk (.mpt c.engine) r.1 (.push c.id r.2 false)) s) s

/-- The words still to be read asked for, at the endpoint of the first (R383). -/
def sendPull (c : Copy) (words : List (Target × List Target)) (got : List (Word × Bool × List Target)) (s : State) : State :=
  match words with
  | [] => s
  | x :: _ => s.send .bulk (.mpt c.engine) (targetNode s x.1) (.pull c.id words got)

/-- The record of a copy replaced. -/
def State.setCopy (s : State) (c : Copy) : State := { s with copies := s.copies.map (fun x => if x.id = c.id then c else x) }

/-- A piece of at most 2048 bytes sent to another package, from the engine (R173, R383). -/
def sendAway (c : Copy) (got : List (Word × Bool × List Target)) (s : State) : State :=
  let dst := (copyDst c.req).toNat
  (s.setCopy { c with poisoned := c.poisoned || got.any (fun e => e.2.1), sent := c.sent + got.length }).send .bulk (.mpt c.engine) .outside
    (.remoteCopy c.id c.who (copyPkg c.req) (dst + 8 * c.sent) (copyAw c.req).toNat (got.map (fun e => (e.1, e.2.1))) dst (copyLen c.req / 8))

/-- A piece of a copy goes on its way (R383). -/
def sendPiece (c : Copy) (got : List (Word × Bool × List Target)) (s : State) : State :=
  if copyRemote c.req then sendAway c got s else sendPushes c got s

/-- Words read for a copy (R383): a piece of 2048 bytes goes on its way. -/
def pulled (c : Copy) (p : Packet) (words : List (Target × List Target)) (got : List (Word × Bool × List Target)) (s : State) : State :=
  match words with
  | [] => sendPiece c got s
  | x :: _ =>
    if got.length = 256 then sendPull c words [] (sendPiece c got s)
    else if targetNode s x.1 = p.dst then { s with arrived := { p with body := .pull c.id words got } :: s.arrived }
    else sendPull c words got s

/-- One word of a copy read (R210, R383). A copy that has ended reads no more. -/
def pullWord (p : Packet) (id : Nat) (words : List (Target × List Target)) (got : List (Word × Bool × List Target)) (s : State) : State :=
  match words, s.copies.find? (fun c => decide (c.id = id)) with
  | x :: rest, some c =>
    let r := engineRead x.1 s
    pulled c p rest (got ++ [(r.1.1, r.1.2, x.2)]) (r.2.chargeNode c.node x.1.globalBytes)
  | _, _ => s

/-- What a written word adds to its copy's status (R383, R384). -/
def Copy.wrote (c : Copy) (done poisoned : Bool) : Copy :=
  { c with bytes := c.bytes + 8 * bit done, poisoned := c.poisoned || (done && poisoned),
           code := if done ∨ c.code ≠ 0 then c.code else stRewrite }

/-- One word of a copy written, and counted where it has an arrival word (R210, R228, R383). A copy that has ended writes no more. -/
def pushWord (p : Packet) (id : Nat) (words : List (Target × Word × Bool)) (s : State) : State :=
  match words, s.copies.find? (fun c => decide (c.id = id)) with
  | x :: rest, some c =>
    let q := engineWrite c.who x.1 x.2.1 x.2.2 s
    let s := (q.2.chargeNode c.node x.1.globalBytes).setCopy (c.wrote q.1 x.2.2)
    let s := match c.counts with
      | e :: _ => if q.1 then s.send .bulk p.dst (.mpt (homeMpt s e.1)) (.count c.id e.1 8) else s
      | [] => s
    if rest.isEmpty then s else { s with arrived := { p with body := .push id rest true } :: s.arrived }
  | _, _ => s

/-- Whether another packet's words are being written at the tile that a packet reached (R174): packets never interleave there. -/
def pushHeld (p : Packet) (s : State) : Bool :=
  match p.dst with
  | .tile _ => s.arrived.any (fun q => decide (q.dst = p.dst) && decide (q.id ≠ p.id) && match q.body with
    | .push _ _ begun => begun
    | _ => false)
  | _ => false

/-- A copy to another package begun (R382): its words leave through the engine, and its status awaits the acknowledgement. None where a
module that is down holds its checks (R20). -/
def beginRemote (c : Copy) (s : State) : Option State :=
  let r := spanFrom c.who (.mpt c.engine) c.root c.pl 8 .read (copyLen c.req / 8) (copySrc c.req) s
  let src := oneMemory r.1
  if heldBy src.bad then none
  else if src.bad.isEmpty then
    let s : State := { r.2 with copies := r.2.copies ++ [{ c with begun := true }] }
    some (sendPull c (src.targets.map (fun g => (g, []))) [] s)
  else some (failCopy c (worst src.bad) src.bad r.2)

/-- Whether the source and the destination of a copy within the package name overlapping bytes of one memory (R382), whatever their checks come
to. -/
def copyOverlaps (c : Copy) (s : State) : Bool :=
  let n := copyLen c.req / 8
  let src : Node := .mpt c.engine
  let a := wordsNamed s c.who.tile src c.root (copySrc c.req) n
  if copyMcast c.req then
    (copyRect c.req).any (fun u => (List.range n).any (fun i => a.contains (true, sramKey u ((copyDst c.req).toNat + 8 * i) / 8)))
  else
    vaOverlap c.who.tile (copySrc c.req) (copyDst c.req) n
      || (wordsNamed s c.who.tile src c.root (copyDst c.req) n).any (fun w => a.contains w)

/-- A copy within the package begun (R382, R383): checked whole, then its words are asked for. None where a module that is down holds its
checks (R20). -/
def beginLocal (c : Copy) (s : State) : Option State :=
  let n := copyLen c.req / 8
  let src : Node := .mpt c.engine
  let r := spanFrom c.who src c.root c.pl 8 .read n (copySrc c.req) s
  let a := oneMemory r.1
  let us := copyRect c.req
  let d := if copyMcast c.req then (mcastSpan s us (copyDst c.req).toNat n, r.2)
    else spanFrom c.who src c.root c.pl 8 .write n (copyDst c.req) r.2
  let b := if copyMcast c.req then d.1 else oneMemory d.1
  let w := engineArrival src c.root c.pl (copyAw c.req) d.2
  let bad := a.bad ++ b.bad ++ (match w with
    | .ok _ => []
    | .error e => [e])
  if heldBy bad then none
  else if copyOverlaps c d.2 then some (failCopy c stMalformed bad d.2)
  else match w with
    | .error _ => some (failCopy c (worst bad) bad d.2)
    | .ok (aw, s) =>
      if !bad.isEmpty then some (failCopy c (worst bad) bad s)
      else
        let c : Copy := { c with begun := true, counts := match aw with
          | some pa => [(pa, 0)]
          | none => [] }
        let s : State := { s with copies := s.copies ++ [c] }
        let s := match aw with
          | some pa => poolUse s pa true
          | none => s
        some (sendPull c (copyPairs a.targets b.targets (copyMcast c.req) us (copyDst c.req).toNat) [] s)

/-- COPY_BEGIN (R382, R383): a request is checked whole before any byte is written, and a failed check ends it; then its words are read and
written one by one, each a step of its own (R210, log entry 48). -/
def execCopyBegin (s : State) : Out :=
  onPacket s (fun p s =>
    match p.body, p.dst with
    | .copy c, .mpt _ =>
      if copyBad s c.who.tile c.req then some (refuseCopy c stMalformed false s)
      else if copyRemote c.req then beginRemote c s else beginLocal c s
    | .pull id words got, _ => some (pullWord p id words got s)
    | .push id words _, _ => if pushHeld p s then none else some (pushWord p id words s)
    | _, _ => none)

/-- Whether a packet still belongs to a copy or stream of a number. -/
def Packet.engineOwn (p : Packet) (id : Nat) : Bool :=
  match p.body with
  | .count i _ _ => decide (i = id)
  | .pull i _ _ => decide (i = id)
  | .push i _ _ => decide (i = id)
  | .remoteCopy i _ _ _ _ _ _ _ => decide (i = id)
  | _ => false

/-- Whether a request's writes and counts are all performed and acknowledged (R383, R150). -/
def engineDone (s : State) (id : Nat) (w : Who) : Bool :=
  !(s.traffic.any (fun p => p.engineOwn id)) && !(s.unacked.any (fun u => decide (u.who = some w)))

/-- COPY_COMPLETE (R383). -/
def execCopyComplete (s : State) : Out :=
  match s.copies.find? (fun c => decide (c.id = s.here.item)) with
  | none => .next s
  | some c =>
    if c.begun && engineDone s c.id c.who then
      let s : State := { s with copies := s.copies.filter (fun x => decide (x.id ≠ c.id)) }
      let s := c.counts.foldl (fun s e => poolUse s e.1 false) s
      .next (giveStatus c.who c.tok (statusWord c.code c.poisoned c.bytes) s)
    else .next s

/-- Whether a packet carries words of a copy of a number. -/
def Packet.copyWords (p : Packet) (id : Nat) : Bool :=
  match p.body with
  | .pull i _ _ => decide (i = id)
  | .push i _ _ => decide (i = id)
  | _ => false

/-- LINK added to what a status reports (R384): an earlier code in the table's order stays. -/
def linkCode (code : Nat) : Nat := if 0 < code ∧ code < stLink then code else stLink

/-- A copy or stream ended by a link failure (R383): LINK applies to its status (R384), and no further word is written. -/
def copyLink (id : Nat) (s : State) : State :=
  { s with copies := s.copies.map (fun c => if c.id = id then { c with code := linkCode c.code } else c),
           edges := s.edges.map (fun e => if e.id = id then { e with code := linkCode e.code } else e),
           net := s.net.filter (fun p => !p.copyWords id), arrived := s.arrived.filter (fun p => !p.copyWords id) }

/-- BULK_CRC_DISCARD (R33, R270): the packet is gone, with a machine check, and the engine reports LINK in the status. -/
def execBulkCrcDiscard (s : State) : Out :=
  match s.inFlight s.here.item with
  | none => .next s
  | some p =>
    if p.cls ≠ .bulk then .next s
    else
      let s := s.unsend p.id
      let s := match p.body with
        | .copy c => refuseCopy c stLink false s
        | .stream e => giveStatus e.who e.tok (statusWord stLink false 0) s
        | .count id _ _ => copyLink id s
        | .pull id _ _ => copyLink id s
        | .push id _ _ => copyLink id s
        | .remoteCopy id _ _ _ _ _ _ _ => copyLink id s
        | _ => s
      .next (s.machineCheckAll 6 (routerIndex p.dst) 0)

/-! Streams to edge ports (R385-R387). -/

/-- The pattern of a STRM request (R385). -/
def edgePattern (v : Vec) : Stream := { streamOf v .global with write := flag (descWord v 1) 59, wrap := false, members := 0 }

/-- ENG of a STRM request. -/
def edgeEng (v : Vec) : Nat := field (descWord v 5) 24 8

/-- SIDE of a STRM request. -/
def edgeSide (v : Vec) : Dir :=
  match field (descWord v 5) 16 2 with
  | 0 => .n
  | 1 => .e
  | 2 => .s
  | _ => .w

/-- The tile of a STRM request's edge port. -/
def edgeTile (v : Vec) : Nat := tileAt (field (descWord v 5) 0 8) (field (descWord v 5) 8 8)

/-- Whether a STRM request names an edge port of the issuer's region (R385). -/
def isEdgePort (s : State) (t : Nat) (v : Vec) : Bool :=
  decide (field (descWord v 5) 0 8 < 64) && inRegion s t (edgeTile v) && match neighbour s.part (edgeTile v) (edgeSide v) with
    | some u => !inRegion s t u
    | none => true

/-- Whether a STRM request is malformed (R385). -/
def edgeBad (s : State) (t : Nat) (v : Vec) : Bool :=
  let q := edgePattern v
  let d1 := descWord v 1
  let d5 := descWord v 5
  decide (field d1 60 4 ≠ 0) || decide (field d1 32 27 ≠ 0) || decide (field d5 32 32 ≠ 0) || decide (field d5 19 5 ≠ 0)
    || decide (descWord v 7 ≠ 0) || decide (q.base.toNat % 64 ≠ 0) || decide (q.len0 % 64 ≠ 0) || decide (q.len0 = 0)
    || decide (q.stride1.toNat % 64 ≠ 0) || decide (q.stride2.toNat % 64 ≠ 0) || decide (q.n1 = 0) || decide (q.n2 = 0)
    || !engOk s (edgeEng v) || (!q.write && decide (descWord v 6 ≠ 0)) || !isEdgePort s t v

/-- The addresses of the rows of a pattern (R341). -/
def Stream.rows (q : Stream) : List Word := (List.range (q.n1 * q.n2)).map (fun r => q.addr (r * q.len0))

/-- The purity trap of a STRM (R148). -/
def edgePurity (s : State) (x : Thread) (v : Vec) : Option TrapInfo :=
  match purityOf s x with
  | none => none
  | some p =>
    let q := edgePattern v
    if q.len0 = 0 then none
    else (q.rows.filterMap (fun a => rangePurity (if q.write then p.outs else p.args) (if q.write then 2 else 1) a q.len0)).head?

/-- Whether a pattern of an issuer on a tile touches a bank of a mask (R387). -/
def Stream.touches (q : Stream) (t : Nat) (mask : BitVec 12) : Bool :=
  decide (q.len0 ≠ 0) && (List.range (q.total / 64)).any (fun i => match placeOf t (q.addr (64 * i)) with
    | .sram _ off _ => mask.getLsbD (off / 0x10000)
    | _ => false)

/-- The streams of a thread that are bound or on their way to a generator: their numbers and patterns. -/
def threadStreams (s : State) (uid : Nat) : List (Nat × Stream) :=
  (s.edges.filter (fun e => decide (e.who.uid = uid))).map (fun e => (e.id, e.pat))
    ++ s.traffic.filterMap (fun p => match p.body with
      | .stream e => if e.who.uid = uid then some (e.id, e.pat) else none
      | _ => none)

/-- The streams that a new one waits for under the thread's STRBs (R387). -/
def streamsBefore (s : State) (x : Thread) (t : Nat) (q : Stream) : List Nat :=
  x.strb.flatMap (fun b =>
    if q.touches t b.2 then
      ((threadStreams s x.uid).filter (fun e => decide (e.1 < b.1) && e.2.touches t b.2)).map (fun e => e.1)
    else [])

/-- STRM (R385). -/
def execStrm (d : SReg) (a : VReg) (s : State) : Out :=
  coreOp s (fun s0 =>
    needs (engineRoom d s0.me) .status
    (roomS d s0
    ((readV a s0).andThen (fun v s =>
      match edgePurity s s.me v with
      | some c => .trap c
      | none =>
        releases true s0
        (let m := engineOf s s.here.tile (edgeEng v)
         let q := edgePattern v
         let e (id : Nat) : Body := .stream
           { id := id, who := s.who, tok := id, node := s.me.node, root := s.me.root, pl := s.me.pl, mpt := m, store := q.write,
             vector := flag (descWord v 5) 18, tile := edgeTile v, side := edgeSide v, aw := descWord v 6, pat := q, total := 0,
             bound := false, code := 0, poisoned := false, req := v, after := streamsBefore s s.me s.here.tile q, flits := [],
             lines := [], got := [], put := 0, paused := false, movedAt := 0 }
         .go () (retire (sendRequest d true m e s)))))))

/-- STRB (R387). -/
def execStrb (a : SReg) (s : State) : Out :=
  coreOp s (fun s =>
    (readS a s).andThen (fun v s =>
      .go () (retire (s.upd (fun x => { x with strb := x.strb ++ [(s.nextId, BitVec.ofNat 12 v.toNat)] })))))

/-- A stream that ends without having been bound. -/
def refuseStream (e : EdgeStream) (code : Nat) (poisoned : Bool) (s : State) : State :=
  giveStatus e.who e.tok (statusWord code poisoned 0) s

/-- A stream that its checks end (R382, R384). -/
def failStream (e : EdgeStream) (bad : List Failure) (s : State) : State := refuseStream e (worst bad) (anyBad bad) (detectBad bad s)

/-- The checks of every line of a pattern (R382). -/
def patternSpan (e : EdgeStream) : Nat → Nat → State → Span × State
  | 0, _, s => (⟨[], []⟩, s)
  | n + 1, i, s =>
    match engineTarget e.who (.mpt e.mpt) e.root e.pl (e.pat.addr (64 * i)) (if e.store then .write else .read) s with
    | .ok (g, s) =>
      let r := patternSpan e n (i + 1) s
      (⟨g :: r.1.targets, r.1.bad⟩, r.2)
    | .error c =>
      let r := patternSpan e n (i + 1) s
      (⟨r.1.targets, c :: r.1.bad⟩, r.2)

/-- Whether the edge port of a stream is bound, or all four generators of its MPT are (R385). -/
def portBusy (s : State) (e : EdgeStream) : Bool :=
  s.edges.any (fun x => decide (x.tile = e.tile) && decide (x.side = e.side))
    || decide (4 ≤ (s.edges.filter (fun x => decide (x.mpt = e.mpt))).length)

/-- A stream request taken by its generator (R385): checked, then bound. None where a module that is down holds its checks (R20). -/
def bindStream (e : EdgeStream) (s : State) : Option State :=
  let r := patternSpan e (e.pat.total / 64) 0 s
  let a := engineArrival (.mpt e.mpt) e.root e.pl e.aw r.2
  let bad := r.1.bad ++ (match a with
    | .ok _ => []
    | .error c => [c])
  if heldBy bad then none
  else match a with
  | .error _ => some (failStream e bad r.2)
  | .ok (aw, s) =>
    if !bad.isEmpty then some (failStream e bad s)
    else if portBusy s e then some (refuseStream e stBusy false s)
    else
      let s : State := { s with
        edges := s.edges ++ [{ e with bound := true, aw := word (aw.getD 0), lines := r.1.targets, movedAt := s.cycle }] }
      match aw with
      | some pa => some (poolUse s pa true)
      | none => some s

/-- Whether a stream that a STRB makes another wait for has not ended (R387). -/
def streamHeld (s : State) (e : EdgeStream) : Bool :=
  s.edges.any (fun x => e.after.contains x.id) || s.traffic.any (fun p => match p.body with
    | .stream x => e.after.contains x.id
    | _ => false)

/-- STREAM_BIND (R385). A request that a STRB holds stands aside at its generator and lets later ones pass (R387). -/
def execStreamBind (s : State) : Out :=
  onPacket s (fun p s =>
    match p.body, p.dst with
    | .stream e, .mpt _ =>
      if streamHeld s e then (if p.cls = .side then none else some { s with arrived := s.arrived ++ [{ p with cls := .side }] })
      else if edgeBad s e.who.tile e.req then some (refuseStream e stMalformed false s) else bindStream e s
    | _, _ => none)

/-- The stream that an event acts on. -/
def hereStream (s : State) : Option EdgeStream := s.edges.find? (fun e => decide (e.id = s.here.item))

/-- A bound stream's record replaced. -/
def State.setEdge (s : State) (e : EdgeStream) : State := { s with edges := s.edges.map (fun x => if x.id = e.id then e else x) }

/-- Whether a link failure has ended a stream (R383). -/
def EdgeStream.lost (e : EdgeStream) : Bool := decide (0 < e.code) && decide (e.code ≤ stLink)

/-- Whether a generator may move a flit: bound, not paused, not ended, at most one a cycle, its tile not halted (R277, R386). -/
def streamMoves (s : State) (e : EdgeStream) : Bool :=
  e.bound && !e.paused && !e.lost && decide (e.movedAt < s.cycle) && decide (e.pat.pos < e.pat.total)
    && !(s.tile e.tile).halted

/-- Whether a module that is down stands between a generator and the word of a target or its edge port (R20). -/
def flitHeld (s : State) (e : EdgeStream) (g : Target) : Bool :=
  (crossDown s (.mpt e.mpt) (.tile e.tile)).isSome || (crossDown s (.mpt e.mpt) (targetNode s g)).isSome

/-- A word's bytes at a byte offset of a target. -/
def Target.plus : Target → Nat → Target
  | .sram t off, n => .sram t (off + n)
  | .glob pa l, n => .glob (pa + n) l

/-- The place of the byte at a stream's position, as its binding found it (R382, R386). -/
def EdgeStream.place (e : EdgeStream) : Target := (nth (.sram 0 0) e.lines (e.pat.pos / 64)).plus (e.pat.pos % 64)

/-- Words of a flit read in order, from the word `i` on (R210). -/
def readFlit (node : Option Nat) (g : Target) (i words : Nat) (s : State) : List (Word × Bool) × State :=
  readWords node ((List.range words).map (fun j => g.plus (8 * (i + j)))) s

/-- The value of a flit's words, the first lowest (R386). -/
def flitValue : List (Word × Bool) → Nat
  | [] => 0
  | x :: xs => x.1.toNat + 2 ^ 64 * flitValue xs

/-- A flit pushed into a tile's switch input buffer, usable in the next cycle. -/
def pushInput (e : EdgeStream) (v : Nat) (bad : Bool) (s : State) : State :=
  s.updTile e.tile (fun x =>
    if e.vector then { x with ve := x.ve.setInp ((x.ve.inp e.side).push (s.cycle + 1) (BitVec.ofNat 512 v) bad) e.side }
    else { x with sc := x.sc.setInp ((x.sc.inp e.side).push (s.cycle + 1) (word v) bad) e.side })

/-- Whether a loader's input buffer has room (R167). -/
def inputRoom (s : State) (e : EdgeStream) : Bool :=
  if e.vector then decide (((s.tile e.tile).ve.inp e.side).used s.cycle < inpCap s e.tile .vector e.side)
  else decide (((s.tile e.tile).sc.inp e.side).used s.cycle < inpCap s e.tile .scalar e.side)

/-- A loader's flit whose words are all read delivered to its tile (R386). -/
def loadFlit (e : EdgeStream) (s : State) : State :=
  let bad := e.got.any (fun x => x.2)
  (pushInput e (flitValue e.got) bad s).setEdge { e with
    pat := { e.pat with pos := e.pat.pos + e.flitBytes }, total := e.total + e.flitBytes, poisoned := e.poisoned || bad,
    got := [], movedAt := s.cycle }

/-- STREAM_LOADER_FLIT (R386): the flit's words are read, as many as the turn has (R210), and with the last the flit is delivered. -/
def execStreamLoaderFlit (s : State) : Out :=
  match hereStream s with
  | none => .next s
  | some e =>
    if e.store || !streamMoves s e || !inputRoom s e || flitHeld s e e.place then .next s
    else
      let todo := e.flitBytes / 8 - e.got.length
      let r := readFlit e.node e.place e.got.length (min todo (s.piece todo)) s
      let e : EdgeStream := { e with got := e.got ++ r.1 }
      .next (if e.got.length = e.flitBytes / 8 then loadFlit e r.2 else r.2.setEdge e)

/-- Words of a storer's flit written in order, from the word `i` on: how many were written (R383). -/
def writeFlit (e : EdgeStream) (g : Target) (v : Vec) (bad : Bool) : Nat → Nat → State → Nat × State
  | 0, _, s => (0, s)
  | n + 1, i, s =>
    let q := engineWrite e.who (g.plus (8 * i)) (v.extractLsb' (64 * i) 64) bad s
    let r := writeFlit e g v bad n (i + 1) (q.2.chargeNode e.node (g.plus (8 * i)).globalBytes)
    (bit q.1 + r.1, r.2)

/-- A storer after `n` words of its flit, `done` of them written (R383, R386): with the last word it goes on to the next flit. -/
def EdgeStream.stored (e : EdgeStream) (f : Vec × Bool) (fs : List (Vec × Bool)) (n done cycle : Nat) : EdgeStream :=
  let e : EdgeStream := { e with
    put := e.put + n, total := e.total + 8 * done, poisoned := e.poisoned || (f.2 && decide (done ≠ 0)),
    code := if done < n ∧ e.code = 0 then stRewrite else e.code }
  if e.put < e.flitBytes / 8 then e
  else { e with pat := { e.pat with pos := e.pat.pos + e.flitBytes }, flits := fs, put := 0, movedAt := cycle }

/-- STREAM_STORER_FLIT (R386, R383): the flit's words are written and counted, as many as the turn has (R210). -/
def execStreamStorerFlit (s : State) : Out :=
  match hereStream s with
  | none => .next s
  | some e =>
    match e.flits with
    | [] => .next s
    | f :: fs =>
      if !e.store || !streamMoves s e || flitHeld s e e.place then .next s
      else
        let todo := e.flitBytes / 8 - e.put
        let n := min todo (s.piece todo)
        let r := writeFlit e e.place f.1 f.2 n e.put s
        let s := r.2.setEdge (e.stored f fs n r.1 s.cycle)
        .next (if e.aw = 0 ∨ r.1 = 0 then s
               else s.send .bulk (.mpt e.mpt) (.mpt (homeMpt s e.aw.toNat)) (.count e.id e.aw.toNat (8 * r.1)))

/-- STREAM_END (R386): the binding ends and its status is written; a storer's once its last write is counted. -/
def execStreamEnd (s : State) : Out :=
  match hereStream s with
  | none => .next s
  | some e =>
    if (decide (e.pat.pos = e.pat.total) || e.lost) && engineDone s e.id e.who then
      let s : State := { s with edges := s.edges.filter (fun x => decide (x.id ≠ e.id)) }
      let s := unquiet e.tile (poolUse s e.aw.toNat false)
      .next (giveStatus e.who e.tok (statusWord e.code e.poisoned e.total) s)
    else .next s

/-! The ring tap (R388-R390). -/

/-- The tap of a tile armed (R123, R124, R129, R132): the arm notice goes to the layer's injector. -/
def armTap (q layer laps : Nat) (s : State) : State :=
  let t := s.here.tile
  let y : Tap := { Tap.idle with
    lane := (s.tap t).lane, seen := seenNow s t, state := .armed, q := q, slot := s.here.slot, layer := layer, laps := laps - 1,
    armed := s.ring.step + 1, counted := true, boarded := s.cycle + 1 }
  (s.setTap t y).armNotice t layer false

/-- BOARD (R388, R123). -/
def execBoard (q : Nat) (layer : BitVec 16) (laps : Nat) (s : State) : Out :=
  coreOp s (fun s =>
    match purityForbids s s.me with
    | some c => .trap c
    | none =>
      nativeOnly s
      (if (s.tap s.here.tile).state ≠ .idle then .trap accessNoAddr
       else
        let s := (armTap q layer.toNat laps s).dropAhead s.here.tile s.here.slot
        .go () (retireAt s.here.tile s.here.slot 8 0 (setMyStream s q { Stream.unbound with kind := .tap }))))

/-- Whether a stream register of the present thread holds the tap (R139). -/
def holdsTap (s : State) (q : Nat) : Bool :=
  let x := s.tap s.here.tile
  decide (x.state ≠ .idle) && decide (x.slot = s.here.slot) && decide (x.q = q)

/-- LEAVE (R389, R139). -/
def execLeave (q : Nat) (s : State) : Out :=
  coreOp s (fun s =>
    nativeOnly s
    (if holdsTap s q then .go () (retire (tapToIdle s s.here.tile)) else .trap accessNoAddr))

/-- The status of a tile's tap as RSTAT gives it to a slot (R390). -/
def rstatWord (s : State) (t k : Nat) : Word :=
  let x := s.tap t
  let on := decide (x.state ≠ .idle)
  let v (n : Nat) : Nat := if on then n else 0
  word (tapCode x.state * 2 ^ 61 + v x.q * 2 ^ 58 + x.lane * 2 ^ 55 + bit (on && decide (x.slot = k)) * 2 ^ 54 + v x.laps * 2 ^ 48
    + v x.layer * 2 ^ 32 + (if x.state = .faulted then x.reason else 0) * 2 ^ 24 + min 255 (v x.missed) * 2 ^ 16 + min 0xFFFF (v x.frel))

/-- RSTAT (R390). -/
def execRstat (d : SReg) (s : State) : Out := scalar1 d 4 (fun s => rstatWord s s.here.tile s.here.slot) s

end Sys2Proof.Machine
end

