-- ==== Sys2Proof/Machine/Task.lean ====
section
/-! DEFINITION. Tasks: SEND, SPAWN, HEND and WCLOSE (R391-R394), acceptance and dispatch at a tile (R84-R93), deterministic
windows (R97-R102), and stealing (R95, R96). -/

namespace Sys2Proof.Machine

/-! Sending (R391, R392). -/

/-- Whether a coordinate is a service tile of the part. -/
def serviceAt (s : State) (x y : Nat) : Bool := s.part.service.any (fun t => decide (tileX t = x) && decide (tileY t = y))

/-- Whether a coordinate is a tile of the region of a tile. -/
def regionHolds (s : State) (t x y : Nat) : Bool :=
  match regionOf s t with
  | some r => decide (x < 64) && r.has (tileAt x y)
  | none => false

/-- Whether a destination word of SEND is legal (R86, R391). -/
def sendOk (s : State) (t : Nat) (v : Word) : Bool :=
  decide (field v 24 40 = 0) && decide (field v 16 8 = pkgId s)
    && (serviceAt s (field v 0 8) (field v 8 8) || regionHolds s t (field v 0 8) (field v 8 8))

/-- The task that the present thread sends (R84, R85, R391). -/
def newTask (s : State) (dst label prio : Nat) (two aff : Bool) (w0 w1 : Word) : Task :=
  let x := s.me
  let svc := isService s dst
  { rid := if svc then 0 else s.hereTile.rid, gen := if svc then 0 else s.hereTile.gen, srcPkg := pkgId s, srcIdx := x.origin,
    stolen := false, aff := aff, prio := prio, two := two, label := label, dpkg := pkgId s, dx := tileX dst, dy := tileY dst,
    win := x.window, key := x.key, cnt := x.count, w0 := w0, w1 := if two then w1 else 0, host := none, check := false, since := 0 }

/-- Whether the network holds a task of a tile for a destination that refuses it (R87, R391, log entry 23). -/
def sendJammed (s : State) (t dst : Nat) : Bool :=
  s.net.any (fun p => decide (p.src = .tile t) && decide (p.dst = .tile dst) && refused s p)

/-- A task injected once every earlier write of the thread is performed or sealed and the network takes it (R391). -/
def inject (s0 : State) (dst : Nat) (task : State → Task) (s : State) : Act Unit :=
  afterStores s0
    (needs (!sendJammed s s.here.tile dst) .send
      (.go () (retire ((s.sendTask (.tile s.here.tile) (task s)).upd (fun x => { x with count := x.count + 1 })))))

/-- SEND (R391). -/
def execSend (label prio : Nat) (two : Bool) (a b d : SReg) (s : State) : Out :=
  coreOp s (fun s0 =>
    (readS a s0).andThen (fun v s =>
      (readS b s).andThen (fun w0 s =>
        (if two then readS d s else .go 0 s).andThen (fun w1 s =>
          let dst := tileAt (field v 0 8) (field v 8 8)
          if !sendOk s s.here.tile v then .trap (trapOf .access v 0)
          else if isService s dst && (purityOf s s.me).isSome then .trap (trapOf .purity 0 4)
          else inject s0 dst (fun s => newTask s dst label prio two false w0 w1) s))))

/-- The owner of a global address in a region (R94). -/
def hashOwner (r : RegionRec) (va : Word) : Nat :=
  let h := (field va 12 36 * 0x9E3779B97F4A7C15) % 2 ^ 64 / 2 ^ 32
  let o := h * (r.w * r.h) / 2 ^ 32
  tileAt (r.x0 + o % r.w) (r.y0 + o / r.w)

/-- The owner of an address for a thread on a tile (R94, R392): none where R181 or R94 refuses it. A global address has none for a firmware
thread that has no region to hash within: the model's choice (log entry 113). -/
def ownerOf (s : State) (t : Nat) (va : Word) : Option Nat :=
  match placeOf t va with
  | .nowhere => none
  | .sram u _ viaAlias => if viaAlias then some t else if inRegion s t u then some u else none
  | .glob => (regionOf s t).map (fun r => hashOwner r va)

/-- Whether an address lies in the window of a service tile (R148). -/
def namesService (s : State) (va : Word) : Bool :=
  match placeOf s.here.tile va with
  | .sram u _ viaAlias => !viaAlias && isService s u
  | _ => false

/-- SPAWN (R392). -/
def execSpawn (label prio : Nat) (two : Bool) (a b : SReg) (s : State) : Out :=
  coreOp s (fun s0 =>
    (readS a s0).andThen (fun v s =>
      (readS b s).andThen (fun w0 s =>
        if namesService s v && (purityOf s s.me).isSome then .trap (trapOf .purity 0 4)
        else match ownerOf s s.here.tile v with
        | none => .trap (trapOf .access v 0)
        | some dst => inject s0 dst (fun s => newTask s dst label prio two true w0 v) s)))

/-- The present thread ended, its slot free and its REDs sealed (R104, R393). -/
def endMe (s : State) : State :=
  let x := s.me
  let s := endThread s.here.tile s.here.slot (sendSeals s.here.tile s.here.slot s)
  { s with retired := some ⟨x.pc, x.pc, 0, false⟩ }

/-- HEND (R393). -/
def execHend (s : State) : Out := coreOp s (fun s => .go () (endMe s))

/-- WCLOSE (R394, R99): outside DET mode it changes nothing. -/
def execWclose (s : State) : Out :=
  coreOp s (fun s =>
    match regionOf s s.here.tile with
    | some r =>
      if !r.det then .go () (retire s)
      else if s.tasksOut s.me.origin s.me.key || decide (r.number.toNat < s.me.window.toNat) then .wait .wclose
      else .go () (retire (s.upd (fun x => { x with window := x.window + 1 })))
    | none => .go () (retire s))

/-! Handler tables (R88, R89). -/

/-- The offset of a label's handler entry, where the table is enabled and lies in an ADDR bank (R88, R89). -/
def handlerOffset (x : Tile) (label : Nat) : Option Nat :=
  let off := field x.htab 11 9 * 2048 + 16 * label
  let b := off / 0x10000
  if flag x.htab 0 && decide (b < 12) && decide (roleOf x b = 0) && decide (spillBank x ≠ some b) then some off else none

/-- The installed handler entry of a label (R89): its two words. -/
def handlerEntry (s : State) (t label : Nat) : Option (Word × Word) :=
  match handlerOffset (s.tile t) label with
  | some off =>
    let w := word (s.getNat (sramKey t off) 8)
    if flag w 63 && decide (field w 48 14 = 0) && decide (field w 0 2 = 0) then some (w, word (s.getNat (sramKey t (off + 8)) 8))
    else none
  | none => none

/-- NOSTEAL of a label's entry at a tile: of an installed one alone, the model's choice (log entry 113). -/
def noSteal (s : State) (t label : Nat) : Bool :=
  match handlerEntry s t label with
  | some e => flag e.1 62
  | none => false

/-- The ready bits of a tile after its buffer has changed (R89). -/
def Tile.fitReady (x : Tile) : Tile := { x with ready := x.ready.filter (fun l => x.tasks.any (fun k => decide (k.label = l))) }

/-- A task removed from a tile's buffer. -/
def takeTask (t : Nat) (k : Task) (s : State) : State :=
  s.updTile t (fun x =>
    let x := Tile.fitReady { x with tasks := x.tasks.erase k }
    if x.tasks.isEmpty then { x with idleFrom := s.cycle } else x)

/-! Responses to host messages (R42). -/

/-- A session's response sent at a port and cached (R40): the last 16. -/
def State.respond (s : State) (port session : Nat) (r : Sent) : State :=
  let put (x : Session) : Session := if x.id = session then { x with cache := (x.cache ++ [r]).drop (x.cache.length + 1 - 16) } else x
  sendAtPort port r { s with ep := { s.ep with sessions := s.ep.sessions.map put } }

/-- The response to a message whose task has been judged (R42). -/
def answerMsg (h : Option (Nat × Nat)) (status : Nat) (s : State) : State :=
  match h with
  | some m =>
    let from_ : Word × (Nat × (BitVec 128 × BitVec 16)) := match s.ep.msgs.find? (fun e => decide (e.1 = m.1) && decide (e.2.1 = m.2)) with
      | some e => e.2.2
      | none => (0, (0, (0, 0)))
    (forgetMsg m s).respond from_.2.1 m.1 ⟨.none, from_.2.2, false, 3, m.1, m.2, status, from_.1, 0, []⟩
  | none => s

/-! Acceptance (R87, R90). -/

/-- A task whose entry is not installed is discarded (R90): NOLABEL to the host, else the fault policy of the node on the tile. -/
def discardTask (t : Nat) (k : Task) (s : State) : State :=
  match k.host with
  | some _ => answerMsg k.host 4 s
  | none =>
    match (s.tile t).node with
    | some a => s.faultPolicy a t 0 (causeCode .launch) (faultWord 3 (causeCode .launch) 0 t k.label 0) k.w0
    | none => s

/-- The window of a task as it is accepted (R101): one from outside the region takes the current window. -/
def acceptedWindow (s : State) (t : Nat) (outside : Bool) (k : Task) : BitVec 32 :=
  match regionOf s t with
  | some r => if outside then r.number else k.win
  | none => k.win

/-- A task put into a tile's buffer: its ready bit is set and an event posted (R89, R420). It occupies the tile for its node (R87). -/
def acceptTask (t : Nat) (k : Task) (s : State) : State :=
  (s.updTile t (fun x => { x with tasks := x.tasks ++ [k], ready := keyInsert x.ready k.label,
                                  retired := x.retired && x.node.isNone })).postEvent t

/-- Whether a task's tag is that of the tile's placement (R87). -/
def ofPlacement (s : State) (t : Nat) (k : Task) : Bool := decide (k.rid = (s.tile t).rid) && decide (k.gen = (s.tile t).gen)

/-- A machine-check task at its service tile (R269): 16 places, then MCLOST counts. -/
def acceptCheck (t : Nat) (k : Task) (s : State) : State :=
  if 16 ≤ ((s.tile t).tasks.filter (fun x => x.check)).length then
    { s with mclost := sparseSet 0 s.mclost (dieOfTile t) (min 0xFFFFFFFF (sparseGet 0 s.mclost (dieOfTile t) + 1)) }
  else if (handlerEntry s t k.label).isSome then acceptTask t { k with since := s.cycle } s
  else discardTask t k s

/-- A task at the tile it names (R87, R90). -/
def arriveTask (t : Nat) (outside : Bool) (k : Task) (s : State) : State :=
  if k.check then acceptCheck t k s
  else if k.host.isSome && decide (taskRoom (s.tile t) ≤ ((s.tile t).tasks.filter (fun x => !x.check)).length) then answerMsg k.host 5 s
  else if !ofPlacement s t k then s
  else if (handlerEntry s t k.label).isNone then discardTask t k s
  else answerMsg k.host 0 (acceptTask t { k with since := s.cycle, win := acceptedWindow s t outside k, host := none } s)

/-- TASK_ARRIVE (R87, R89, R90). A tile whose buffer and spill have filled refuses the packet where it stands. -/
def execTaskArrive (s : State) : Out :=
  onPacket s (fun p s =>
    match p.body, p.dst with
    | .task k, .tile t =>
      if refused s p then none
      else some (arriveTask t (match p.src with
        | .tile u => !sameRegion s t u
        | _ => true) k s)
    | _, _ => none)

/-! Dispatch (R91, R92, R100). -/

/-- The low 64 bits of flit 0 (R84). -/
def flit0 (k : Task) : Word :=
  word (k.srcPkg * 2 ^ 48 + k.srcIdx * 2 ^ 36 + bit k.stolen * 2 ^ 35 + bit k.aff * 2 ^ 34 + k.prio * 2 ^ 32 + bit k.two * 2 ^ 31
    + k.label * 2 ^ 24 + k.dpkg * 2 ^ 16 + k.dy * 2 ^ 8 + k.dx)

/-- The low 64 bits of flit 1 (R84). -/
def flit1 (k : Task) : Word := word (k.key.toNat * 2 ^ 32 + k.cnt.toNat)

/-- A handler thread before its first instruction (R85, R91, R99, R260, R261): at U, from the cycle after it is picked. -/
def handlerThread (s : State) (t slot : Nat) (k : Task) (e : Word × Word) : Thread :=
  let x := s.tile t
  { Thread.fresh with
    status := 0, pc := handlerPc e.1, issueFrom := s.cycle + 1,
    s := [k.w0, k.w1, e.2, flit0 k, flit1 k].zipIdx.foldl (fun m v => sparseSet 0 m (v.2 + 1) v.1) [],
    trapvec := x.trapvec, left := fillOf x.fills slot, key := 4 + x.handlers,
    window := match regionOf s t with
      | some r => r.number
      | none => 0,
    origin := t, node := x.node, root := x.root, uid := s.nextId }

/-- A task dispatched into a native slot (R91): its start acquires (R86). One whose entry is no longer installed is discarded
(R90). -/
def dispatchTask (t slot : Nat) (k : Task) (s0 : State) : State :=
  let s := takeTask t k s0
  match handlerEntry s t k.label with
  | none => discardTask t k s
  | some e =>
    let th := handlerThread s t slot k e
    let s : State := { dropLines t s with nextId := s.nextId + 1 }
    let s := s.updTile t (fun x => { x with handlers := x.handlers + 1 })
    (s.setNative t slot Native.fresh).setThread t slot (some th)

/-- Whether a tile may start handlers: a node holds it, or its firmware runs, and neither a halt nor a stop is under way (R81, R272, R277). -/
def mayDispatch (s : State) (t : Nat) : Bool :=
  ((s.tile t).node.isSome || (isService s t && (decide (s.ep.boot = .starting) || decide (s.ep.boot = .running))))
    && !(s.tile t).halted && !(s.tile t).halting && !regionStopping s t && !tileDraining s t

/-- Whether a tile's region runs in DET mode (R97). -/
def detTile (s : State) (t : Nat) : Bool :=
  match regionOf s t with
  | some r => r.det
  | none => false

/-- A task's effective priority (R92). -/
def taskLevel (s : State) (k : Task) : Nat := min 3 (k.prio + (s.cycle - k.since) / 4096)

/-- The first label strictly above a pointer, wrapping, among those of a list (R92). -/
def nextLabel (ptr : Nat) (ls : List Nat) : Option Nat :=
  ((List.range 128).map (fun i => (ptr + 1 + i) % 128)).find? (fun l => ls.contains l)

/-- The task of a list that has been buffered longest; of those of one age the first to arrive. -/
def oldestTask (ks : List Task) : Option Task :=
  ks.foldl (fun (m : Option Task) k => match m with
    | some j => if k.since < j.since then some k else some j
    | none => some k) none

/-- The task that a tile picks, its level and its label (R92). The buffer stands in order of arrival. -/
def pickTask (s : State) (t : Nat) : Option (Task × Nat) :=
  let ks := (s.tile t).tasks.filter (fun k => (s.tile t).ready.contains k.label)
  let level := (ks.map (taskLevel s)).foldl max 0
  let at_ := ks.filter (fun k => decide (taskLevel s k = level))
  match nextLabel (sparseGet 0 (s.tile t).rr level) (at_.map (fun k => k.label)) with
  | some l =>
    (oldestTask (at_.filter (fun k => decide (k.label = l)))).map (fun k => (k, level))
  | none => none

/-- TASK_PICK (R92): one in a cycle. -/
def execTaskPick (s : State) : Out :=
  let t := s.here.tile
  match freeNative s t with
  | none => .next s
  | some slot =>
    if !mayDispatch s t || detTile s t || decide ((s.tile t).pickedAt = some s.cycle) then .next s
    else match pickTask s t with
      | some k =>
        .next (dispatchTask t slot k.1 (s.updTile t (fun x => { x with rr := sparseSet 0 x.rr k.2 k.1.label, pickedAt := some s.cycle })))
      | none => .next s

/-- The order of parked tasks (R100). -/
def taskBefore (a b : Task) : Bool :=
  if a.srcPkg ≠ b.srcPkg then decide (a.srcPkg < b.srcPkg)
  else if a.srcIdx ≠ b.srcIdx then decide (a.srcIdx < b.srcIdx)
  else decide ((flit1 a).toNat < (flit1 b).toNat)

/-- The first of a list of tasks in the order of R100. -/
def firstTask : List Task → Option Task
  | [] => none
  | k :: ks =>
    match firstTask ks with
    | some j => if taskBefore j k then some j else some k
    | none => some k

/-- DET_DISPATCH (R100): among the parked tasks whose window has closed. -/
def execDetDispatch (s : State) : Out :=
  let t := s.here.tile
  match freeNative s t, regionOf s t with
  | some slot, some r =>
    if !mayDispatch s t || !r.det then .next s
    else match firstTask ((s.tile t).tasks.filter (fun k => decide (k.win.toNat < r.number.toNat))) with
      | some k => .next (dispatchTask t slot k s)
      | none => .next s
  | _, _ => .next s

/-- The live threads of a region, those on their way to another tile included. -/
def regionThreads (s : State) (r : RegionRec) : List Thread :=
  r.tiles.flatMap (fun t => (liveThreads s t).map (fun e => e.2))
    ++ s.traffic.filterMap (fun p => match p.body with
      | .moved m rid gen => if rid = r.rid ∧ gen = r.gen then some m.thread else none
      | _ => none)

/-- Whether a task is one of a region's: for its placement, or one that a thread of it sent to a service tile (R84, R99). -/
def taskOfRegion (s : State) (r : RegionRec) (k : Task) : Bool :=
  (decide (k.rid = r.rid) && decide (k.gen = r.gen))
    || (decide (k.rid = 0) && decide (k.gen = 0) && !k.check && k.host.isNone && decide (k.srcPkg = pkgId s) && r.has k.srcIdx)

/-- The tasks of a region that are on their way. -/
def tasksOnWay (s : State) (r : RegionRec) : List Task :=
  s.traffic.filterMap (fun p => match p.body with
    | .task k => if taskOfRegion s r k then some k else none
    | _ => none)

/-- Whether a region's current window closes (R99): conditions (a) to (d). -/
def windowCloses (s : State) (r : RegionRec) : Bool :=
  let n := r.number.toNat
  let parked := r.tiles.flatMap (fun t => (s.tile t).tasks)
  let live := regionThreads s r
  r.on && r.det && parked.all (fun k => decide (n ≤ k.win.toNat)) && live.all (fun x => decide (n < x.window.toNat))
    && (tasksOnWay s r).all (fun k => decide (k.win.toNat ≠ n))
    && (!live.isEmpty || parked.any (fun k => decide (k.win.toNat = n)))

/-- WINDOW_CLOSE (R99). -/
def execWindowClose (s : State) : Out :=
  match s.region s.here.item with
  | none => .next s
  | some r => if windowCloses s r then .next (s.updRegion r.blk (fun x => { x with number := x.number + 1 })) else .next s

/-! Stealing (R95, R96). -/

/-- The neighbours that a tile probes, in the order N, E, S, W from after the one it probed last (R96). -/
def probeOrder (s : State) (t : Nat) : List (Nat × Nat) :=
  ((List.range 4).map (fun i => ((s.tile t).stealNext + i) % 4)).filterMap (fun i =>
    match neighbour s.part t (nth .n allDirs i) with
    | some u => if sameRegion s t u then some (i, u) else none
    | none => none)

/-- Whether a probe of a tile, or its answer, is still on its way. -/
def probing (s : State) (t : Nat) : Bool :=
  s.traffic.any (fun p => match p.body, p.dst with
    | .probe u, _ => decide (u = t)
    | .stolen _ _, .tile u => decide (u = t)
    | _, _ => false)

/-- STEAL_PROBE (R96): after 256 cycles with a free native slot and an empty buffer. -/
def execStealProbe (s : State) : Out :=
  let t := s.here.tile
  if (freeNative s t).isSome && (s.tile t).tasks.isEmpty && !detTile s t && mayDispatch s t && decide ((s.tile t).idleFrom + 256 ≤ s.cycle)
      && !probing s t then
    match probeOrder s t with
    | e :: _ =>
      .next ((s.updTile t (fun x => { x with stealNext := (e.1 + 1) % 4 })).send .req (.tile t) (.tile e.2) (.probe t))
    | [] => .next s
  else .next s

/-- A task as it travels or is saved with its buffered age (R92, R96): `since` is then the number of cycles it has been buffered, until it is
buffered again. -/
def Task.aged (k : Task) (cycle : Nat) : Task := { k with since := cycle - k.since }

/-- Whether a task is stealable (R95). -/
def stealable (s : State) (t : Nat) (k : Task) : Bool :=
  k.aff && !k.stolen && decide (k.since + 4096 ≤ s.cycle) && !noSteal s t k.label

/-- STEAL_REQUEST (R96): the oldest stealable task, if there is one, leaves for the thief. -/
def execStealRequest (s : State) : Out :=
  onPacket s (fun p s =>
    match p.body, p.dst with
    | .probe thief, .tile t =>
      if !sameRegion s t thief then some s
      else match oldestTask ((s.tile t).tasks.filter (stealable s t)) with
        | some k => some ((takeTask t k s).send .rsp (.tile t) (.tile thief) (.stolen { k.aged s.cycle with stolen := true } t))
        | none => some s
    | _, _ => none)

/-- Whether a task of a thief or of its victim finds no place at a tile yet (R87): it stays at the tile until it does (log entry 96). -/
def stolenHeld (s : State) (t : Nat) : Bool := decide (taskRoom (s.tile t) ≤ ((s.tile t).tasks.filter (fun x => !x.check)).length)

/-- STEAL_REPLY (R96): the thief buffers the task with its age, or returns it where its label is not installed. -/
def execStealReply (s : State) : Out :=
  onPacket s (fun p s =>
    match p.body, p.dst with
    | .stolen k v, .tile t =>
      if !ofPlacement s t k then some s
      else if (handlerEntry s t k.label).isSome then if stolenHeld s t then none else some (acceptTask t (k.aged s.cycle) s)
      else some (s.send .req (.tile t) (.tile v) (.stolenBack k))
    | _, _ => none)

/-- STOLEN_TASK_RETURN (R96): the victim buffers it again with its age; its own entry governs it (R90). -/
def execStolenTaskReturn (s : State) : Out :=
  onPacket s (fun p s =>
    match p.body, p.dst with
    | .stolenBack k, .tile t =>
      if !ofPlacement s t k then some s
      else if stolenHeld s t then none
      else if (handlerEntry s t k.label).isSome then some (acceptTask t (k.aged s.cycle) s)
      else some (discardTask t k s)
    | _, _ => none)

end Sys2Proof.Machine
end

