-- ==== Sys2Proof/Machine/Catalogue.lean ====
section
/-! DEFINITION. The catalogue as the Scheduler Unit reads it: control blocks (R52-R57), program images (R397-R399, R185), descriptor
tables (R141), legal origins (R68, R69), inheritance (R59), admission (R61), and the digests of R106 and R107. -/

namespace Sys2Proof.Machine

/-! Reads by physical address (R53). -/

/-- Words read from a physical address up, each folded first (R53, R104). -/
def readPa (a : Nat) : Nat → State → List Word × State
  | 0, s => ([], s)
  | n + 1, s =>
    let s := s.foldPa a
    let r := readPa (a + 8) n s
    (s.paWord a :: r.1, r.2)

/-- The bytes of words. -/
def wordBytes (ws : List Word) : List Byte := ws.flatMap (fun w => leBytes 8 w.toNat)

/-! Control blocks (R54-R57). -/

/-- The bits of words 0-7 that are not reserved (R54, R55): of an RO word, all. -/
def commonMask : List Word :=
  [0x000FF0F8F0F80000, 0x000FFFFFFFFFFF00, 0xFFFFFFFFFFFFFFFF, 0x00000000000FFFFF, 0xFFFFFFFFFFFFFFFF, 0xFFFFFFFFFFFFFFFF,
   0xFFFFFFFFFFFFFFFF, 0]

/-- The bits of words 8 and up that are not reserved, by level (R56, R57). -/
def levelMask : Nat → List Word
  | 0 => [0xFFFFFFFFFFFFFFFF, 0xFFFFFFFFFFFFFFFF, 0xFFFFFFFFFFFFFFFF, 0xFFFFFFFFFFFFFFFF, 0xFFFF]
  | 1 => [0xFFFF]
  | 2 => [0xC00000FFFF007F7F, 0x0000000001FFFF7F, 0x00000000FFFFFFFF, 0x000000000000FFFF]
  | _ =>
    [0x000FFFFFFFFFFF00, 0xFFFFFFFFFFFFFFFF, 0x000FFFFFFFFFFF00, 0x000FFFFFFFFFFF00, 0x000FFFFFFFFFFF00, 0x000FFFFFFFFFFF00,
     0x000FFFFFFFFFFFF8, 0xFFFFFFFFFFFFFFFF, 0x0000000000000007, 0x000001FFFFFFFFFF, 0x000FFFFFFFFFFF00, 0x000FFFFFFFFFFF00,
     0xFFFFFFFFFFFFFFFF, 0xFFFFFFFFFFFFFFFF]

/-- Whether a block has a nonzero reserved field (R52). -/
def reservedSet (level : Nat) (b : List Word) : Bool :=
  let masks := takePad 0 32 (commonMask ++ levelMask level)
  (List.zipWith (fun w m => decide (w &&& ~~~m ≠ 0)) b masks).any id

/-- LEVEL of a block (R54). -/
def blockLevel (b : List Word) : Nat := field (nth 0 b 0) 48 4

/-- KIND of a block. -/
def blockKind (b : List Word) : Nat := field (nth 0 b 0) 44 4

/-- PARENT of a block. -/
def blockParent (b : List Word) : Nat := field (nth 0 b 1) 8 44 * 256

/-- CODE of a launch node (R57). -/
def blockCode (b : List Word) : Nat := field (nth 0 b 8) 8 44 * 256

/-- The SUCC fields of a launch node (R57), 0 for none. -/
def blockSuccs (b : List Word) : List Nat := (List.range 4).map (fun i => field (nth 0 b (10 + i)) 8 44 * 256)

/-- W of a region block (R56). -/
def blockW (b : List Word) : Nat := field (nth 0 b 8) 0 7

/-- H of a region block. -/
def blockH (b : List Word) : Nat := field (nth 0 b 8) 8 7

/-- ORGX of a region block. -/
def blockOrgX (b : List Word) : Nat := field (nth 0 b 8) 24 8

/-- ORGY of a region block. -/
def blockOrgY (b : List Word) : Nat := field (nth 0 b 8) 32 8

/-- FIXED of a region block. -/
def blockFixed (b : List Word) : Bool := flag (nth 0 b 8) 63

/-- XDIE of a region block. -/
def blockXdie (b : List Word) : Bool := flag (nth 0 b 8) 62

/-- DET of a region block (R54). -/
def blockDet (b : List Word) : Bool := flag (nth 0 b 0) 38

/-- ROLL of a launch node (R54). -/
def blockRoll (b : List Word) : Bool := flag (nth 0 b 0) 39

/-- Whether a launch node's kind and fields are inconsistent (R54, R57). -/
def nodeBad (b : List Word) : Bool :=
  let k := blockKind b
  decide (4 < k) || (blockRoll b && decide (1 < k)) || flag (nth 0 b 0) 38
    || ((decide (k = 2) || decide (k = 4)) && decide (nth 0 b 8 ≠ 0))
    || (decide (k = 2) && decide (4 < field (nth 0 b 16) 0 3))
    || (decide (k = 3) && (decide (field (nth 0 b 17) 32 9 < 2) || decide (256 < field (nth 0 b 17) 32 9)
      || decide (field (nth 0 b 17) 16 16 < 10) || decide (field (nth 0 b 17) 0 16 = 0)))

/-- Whether a region block's shape or origin is out of range (R56, R69). R56 calls 0 and a fixed origin off the grid malformed; that every
value outside the ranges it gives is malformed too is the model's choice (log entry 95). -/
def regionBad (b : List Word) : Bool :=
  decide (blockW b = 0) || decide (64 < blockW b) || decide (blockH b = 0) || decide (48 < blockH b)
    || decide (63 < blockOrgX b) || decide (47 < blockOrgY b)
    || (blockFixed b && (decide (64 < blockOrgX b + blockW b) || decide (48 < blockOrgY b + blockH b)))

/-- Whether a block is malformed as a block of a level (R52, R54-R57). -/
def blockBad (level : Nat) (b : List Word) : Bool :=
  decide (blockLevel b ≠ level) || reservedSet level b || decide (524288 < field (nth 0 b 3) 0 20)
    || (decide (blockParent b = 0) != decide (level = 0))
    || (decide (level ≠ 3) && (decide (blockKind b ≠ 0) || blockRoll b || flag (nth 0 b 0) 37))
    || (decide (level < 2) && flag (nth 0 b 0) 38)
    || (decide (level = 2) && regionBad b) || (decide (level = 3) && nodeBad b)

/-- A block and its ancestors, itself first, with their addresses: none where one is malformed or of another level than its place
(R52, R55). -/
def chainUp : Nat → Nat → State → Option (List (Nat × List Word)) × State
  | 0, a, s =>
    let b := readPa a 32 s
    (if blockBad 0 b.1 then none else some [(a, b.1)], b.2)
  | level + 1, a, s =>
    let b := readPa a 32 s
    if blockBad (level + 1) b.1 then (none, b.2)
    else
      let r := chainUp level (blockParent b.1) b.2
      (r.1.map (fun l => (a, b.1) :: l), r.2)

/-- The chain of a block of any level: none where it or an ancestor is malformed. -/
def blockChain (a : Nat) (s : State) : Option (List (Nat × List Word)) × State :=
  let level := field ((s.foldPa a).paWord a) 48 4
  if 3 < level then (none, s.foldPa a) else chainUp level a s

/-- TENANTID of the tenant that a block's PARENT fields lead to (R52, R56, R395), whether or not the blocks are well formed: none where they
lead to no tenant block. -/
def tenantUp : Nat → Nat → State → Option Nat × State
  | fuel, a, s =>
    let b := readPa a 32 s
    if blockParent b.1 = 0 then (if blockLevel b.1 = 0 then some (field (nth 0 b.1 12) 0 16) else none, b.2)
    else match fuel with
      | 0 => (none, b.2)
      | fuel + 1 => tenantUp fuel (blockParent b.1) b.2

/-- Block `i` of a chain. -/
def chainBlock (c : List (Nat × List Word)) (i : Nat) : List Word := (nth (0, []) c i).2

/-- TENANTID of a chain's tenant (R56). -/
def chainTenant (c : List (Nat × List Word)) : Nat := field (nth 0 (c.getLastD (0, [])).2 12) 0 16

/-- PRIO of the nearest block with OVPRIO, or else the tenant's (R59). The tenant is last. -/
def chainPrio : List (Nat × List Word) → Nat
  | [] => 0
  | [t] => field (nth 0 t.2 0) 21 3
  | b :: bs => if flag (nth 0 b.2 0) 36 then field (nth 0 b.2 0) 21 3 else chainPrio bs

/-- FDPOL of the nearest block with OVFD, or else the tenant's (R59). -/
def chainPolicy : List (Nat × List Word) → Nat
  | [] => 0
  | [t] => field (nth 0 t.2 0) 19 2
  | b :: bs => if flag (nth 0 b.2 0) 35 then field (nth 0 b.2 0) 19 2 else chainPolicy bs

/-! Program images (R397-R399). -/

/-- A tile record of an image (R398). -/
structure TileRec where
  x : Nat
  y : Nat
  roles : BitVec 24
  fifot : BitVec 48
  entries : List Nat
  swlen : Nat
  swoff : Nat
  dlen : Nat
  doff : Nat
  htab : Word
  deriving DecidableEq, Repr

/-- A program image's header and records (R397, R398). -/
structure Image where
  code : Nat
  length : Nat
  root : Nat
  trapvec : Word
  codeva : Word
  recs : List TileRec
  deriving DecidableEq, Repr

/-- The record that 8 words hold. -/
def tileRecOf (r : List Word) : TileRec :=
  let w (i : Nat) : Word := nth 0 r i
  { x := field (w 0) 0 8, y := field (w 0) 8 8, roles := BitVec.ofNat 24 (w 1).toNat, fifot := BitVec.ofNat 48 (w 2).toNat,
    entries := [field (w 3) 0 32, field (w 3) 32 32, field (w 4) 0 32, field (w 4) 32 32], swlen := field (w 5) 32 12,
    swoff := field (w 5) 0 32, dlen := field (w 6) 32 32, doff := field (w 6) 0 32, htab := w 7 }

/-- The role that a record gives a bank (R184). -/
def TileRec.role (r : TileRec) (b : Nat) : Nat := bitsAt r.roles.toNat (2 * b) 2

/-- The FIFO target that a record gives a bank. -/
def TileRec.target (r : TileRec) (b : Nat) : Nat := bitsAt r.fifot.toNat (4 * b) 4

/-- Whether a record's bank roles break R185. -/
def rolesBad (r : TileRec) : Bool :=
  (List.range 12).any (fun b =>
    (decide (r.role b ≠ 1) && decide (r.target b ≠ 0))
      || (decide (r.role b = 1) && (List.range b).any (fun c => decide (r.role c = 1) && decide (r.target c = r.target b))))

/-- Whether a record is malformed in an image of a length and a region of a shape (R398, R399). -/
def recBad (length w h : Nat) (words : List Word) : Bool :=
  let r := tileRecOf words
  decide (field (nth 0 words 0) 16 48 ≠ 0) || decide (field (nth 0 words 1) 24 40 ≠ 0) || decide (field (nth 0 words 2) 48 16 ≠ 0)
    || decide (field (nth 0 words 5) 44 20 ≠ 0) || decide (w ≤ r.x) || decide (h ≤ r.y) || decide (2048 < r.swlen)
    || decide (r.swoff % 8 ≠ 0) || decide (r.dlen % 8 ≠ 0) || decide (r.doff % 8 ≠ 0) || decide (786432 < r.dlen)
    || decide (length < r.swoff + 8 * r.swlen) || decide (length < r.doff + r.dlen) || rolesBad r
    || (List.range 12).any (fun b => decide (b * 0x10000 < r.dlen) && (decide (r.role b = 1) || decide (r.role b = 2)))

/-- Whether a header is malformed for a region of a shape (R397, R399). -/
def headerBad (w h : Nat) (hd : List Word) : Bool :=
  let x (i : Nat) : Word := nth 0 hd i
  decide (x 0 ≠ 0x000000014D494E5A) || decide (field (x 1) 40 24 ≠ 0) || decide ((x 1).toNat % 256 ≠ 0) || decide ((x 1).toNat < 256)
    || decide (2 ^ 28 < (x 1).toNat) || decide (x 2 &&& ~~~0x000FFFFFFFFFF000 ≠ 0) || decide ((x 4).toNat % 256 ≠ 0)
    || decide (placeOf 0 (x 4) ≠ .glob) || decide (x 5 ≠ word (h * 256 + w)) || decide (field (x 6) 48 16 ≠ 0)
    || decide (field (x 6) 0 32 % 64 ≠ 0) || decide (w * h < field (x 6) 32 16)
    || decide ((x 1).toNat < field (x 6) 0 32 + 64 * field (x 6) 32 16) || decide (x 7 ≠ 0)

/-- Whether two records name one tile (R399). -/
def recsClash : List TileRec → Bool
  | [] => false
  | r :: rs => rs.any (fun q => decide (q.x = r.x) && decide (q.y = r.y)) || recsClash rs

/-- The records of an image, `n` of them, read in order: none where one is malformed. -/
def readRecs (length w h : Nat) : Nat → Nat → State → Option (List TileRec) × State
  | _, 0, s => (some [], s)
  | a, n + 1, s =>
    let r := readPa a 8 s
    if recBad length w h r.1 then (none, r.2)
    else
      let q := readRecs length w h (a + 64) n r.2
      (q.1.map (fun l => tileRecOf r.1 :: l), q.2)

/-- The image at an address for a region of a shape (R397-R399): none where it is malformed. -/
def readImage (code w h : Nat) (s : State) : Option Image × State :=
  let hd := readPa code 8 s
  let x (i : Nat) : Word := nth 0 hd.1 i
  if headerBad w h hd.1 then (none, hd.2)
  else
    let r := readRecs (x 1).toNat w h (code + field (x 6) 0 32) (field (x 6) 32 16) hd.2
    match r.1 with
    | some recs =>
      if recsClash recs then (none, r.2)
      else (some ⟨code, (x 1).toNat, (x 2).toNat, masked 0x0000FFFFFFFFFFFD 0 (x 3), x 4, recs⟩, r.2)
    | none => (none, r.2)

/-- The code digest of an image (R106). -/
def codeDigest (i : Image) (s : State) : List Byte × State :=
  let b := readPa i.code (i.length / 8) s
  (shake256 32 (wordBytes b.1), b.2)

/-- The shape hash of a region (R106): NMEM for a GANG node, 1 otherwise. -/
def shapeHash (w h members : Nat) : List Byte :=
  shake256 32 (ascii ['Z', 'N', '-', 'S', 'H', 'A', 'P', 'E'] ++ leBytes 1 w ++ leBytes 1 h ++ leBytes 2 members)

/-- The members of a GANG node's block, and 1 for another (R106). -/
def memberCount (b : List Word) : Nat := if blockKind b = 3 then field (nth 0 b 17) 32 9 else 1

/-- The reproducibility signature of a placed region (R107). -/
def signature (s : State) (r : RegionRec) (members : Nat) : List Byte :=
  shake256 32 (ascii ['Z', 'N', '-', 'R', 'S', 'I', 'G'] ++ [1] ++ leBytes 2 s.ep.fwver.toNat ++ leBytes 1 (bit r.det)
    ++ shapeHash r.w r.h members ++ leBytes 2 r.digests.length ++ (r.digests.map (fun e => e.2)).flatten)

/-! Descriptor tables (R141). -/

/-- Whether `n` bytes at an address touch the tile window or the own-tile alias. -/
def touchesWindow (va : Word) (n : Nat) : Bool :=
  let a := va.toNat
  (decide (a < 0x7F00C0000000) && decide (0x7F0000000000 < a + n)) || (decide (a < 0x7F1000100000) && decide (0x7F1000000000 < a + n))

/-- Whether a descriptor is malformed (R141); `unit` is the alignment of its VBASE. -/
def tableDescBad (unit : Nat) (d : Word × Word) : Bool :=
  decide (sext d.1.toNat 48 ≠ d.1) || decide (d.1.toNat % unit ≠ 0) || decide (field d.2 32 32 ≠ 0) || decide (d.2 = 0)
    || decide (d.2.toNat % 64 ≠ 0) || touchesWindow d.1 d.2.toNat

/-- Whether two ranges of a list overlap. -/
def rangesClash : List (Word × Word) → Bool
  | [] => false
  | d :: ds =>
    ds.any (fun e => decide (d.1.toNat < e.1.toNat + e.2.toNat) && decide (e.1.toNat < d.1.toNat + d.2.toNat)) || rangesClash ds

/-- The pairs of words of a list. -/
def pairsOf : List Word → List (Word × Word)
  | a :: b :: ws => (a, b) :: pairsOf ws
  | _ => []

/-- A descriptor table (R141): its words, none where it is malformed. -/
def readDesc (a : Nat) (s : State) : Option (List Word) × State :=
  let hd := readPa a 2 s
  let w0 := nth 0 hd.1 0
  let narg := field w0 0 8
  let nout := field w0 8 8
  if field w0 16 48 ≠ 0 ∨ nth 0 hd.1 1 ≠ 0 ∨ narg = 0 ∨ 15 < narg ∨ nout = 0 ∨ 15 < nout ∨ 16 < narg + nout then (none, hd.2)
  else
    let r := readPa (a + 16) (2 * (narg + nout)) hd.2
    let ds := pairsOf r.1
    let args := ds.take narg
    if args.any (tableDescBad 4096) || (ds.drop narg).any (tableDescBad 64) || rangesClash ds
        || decide (2 ^ 30 < (args.map (fun d => d.2.toNat)).sum) then (none, r.2)
    else (some (hd.1 ++ r.1), r.2)

/-! Legal origins (R68, R69). -/

/-- The tiles of a rectangle in row-major order. -/
def rectTiles (x0 y0 w h : Nat) : List Nat :=
  (List.range h).flatMap (fun j => (List.range w).map (fun i => tileAt (x0 + i) (y0 + j)))

/-- Whether an origin is legal for a rectangle apart from occupancy and reservation (R68). -/
def originLegal (p : Part) (xdie : Bool) (w h x0 y0 : Nat) : Bool :=
  (List.range w).all (fun i => p.hasTile (x0 + i) y0) && p.hasTile x0 (y0 + h - 1)
    && !(p.service.any (fun t => decide (x0 ≤ tileX t) && decide (tileX t < x0 + w) && decide (y0 ≤ tileY t) && decide (tileY t < y0 + h)))
    && (xdie || decide (dieOf x0 y0 = dieOf (x0 + w - 1) (y0 + h - 1)))

/-- The legal origins of a region block, in ascending tile index (R68). -/
def legalOrigins (p : Part) (b : List Word) : List (Nat × Nat) :=
  let ok := originLegal p (blockXdie b) (blockW b) (blockH b)
  if blockFixed b then (if ok (blockOrgX b) (blockOrgY b) then [(blockOrgX b, blockOrgY b)] else [])
  else (List.range p.height).flatMap (fun y => ((List.range p.width).filter (fun x => ok x y)).map (fun x => (x, y)))

/-! Admission (R61). -/

/-- A node that an admission reaches: its chain, itself first, and a PURE node's descriptor table. -/
structure Found where
  chain : List (Nat × List Word)
  desc : List Word
  deriving DecidableEq, Repr

/-- The node's address. -/
def Found.addr (f : Found) : Nat := (nth (0, []) f.chain 0).1

/-- The node's block. -/
def Found.blk (f : Found) : List Word := chainBlock f.chain 0

/-- The region block's address. -/
def Found.region (f : Found) : Nat := (nth (0, []) f.chain 1).1

/-- The region block. -/
def Found.rblk (f : Found) : List Word := chainBlock f.chain 1

/-- Whether a node runs threads: KERNEL, PURE or GANG. -/
def runsThreads (kind : Nat) : Bool := decide (kind = 0) || decide (kind = 1) || decide (kind = 3)

/-- A node judged at admission (R52, R61, R141, R399): none where it, an ancestor, its image or its table is malformed. -/
def judgeNode (a : Nat) (s : State) : Option Found × State :=
  let c := chainUp 3 a s
  match c.1 with
  | none => (none, c.2)
  | some chain =>
    let b := chainBlock chain 0
    let r := chainBlock chain 1
    let img := if runsThreads (blockKind b) then
        (let i := readImage (blockCode b) (blockW r) (blockH r) c.2
         (i.1.isSome, i.2))
      else (true, c.2)
    if !img.1 then (none, img.2)
    else if blockKind b = 1 then
      match readDesc (field (nth 0 b 19) 8 44 * 256) img.2 with
      | (some d, s) => (some ⟨chain, d⟩, s)
      | (none, s) => (none, s)
    else (some ⟨chain, []⟩, img.2)

/-- How far an admission's walk has come: the nodes judged, those still to walk, and those reached. -/
structure Walked where
  found : List Found
  todo : List Nat
  seen : List Nat
  bad : Bool
  deriving DecidableEq, Repr

/-- The addresses of a list that another does not hold, each once, in order. -/
def newOnes (seen : List Nat) : List Nat → List Nat
  | [] => []
  | a :: as => if a = 0 ∨ seen.contains a then newOnes seen as else a :: newOnes (a :: seen) as

/-- The walk of an admission (R61): breadth-first, each distinct node once, at most 4096 nodes. -/
def walkNodes : Nat → Walked → State → Walked × State
  | 0, k, s => (k, s)
  | n + 1, k, s =>
    match k.todo with
    | [] => (k, s)
    | a :: as =>
      match judgeNode a s with
      | (none, s) => ({ k with bad := true }, s)
      | (some f, s) =>
        let fresh := newOnes k.seen (blockSuccs f.blk)
        walkNodes n { k with found := k.found ++ [f], todo := as ++ fresh, seen := k.seen ++ fresh } s

/-- The nodes of a walk that name a node among their successors. -/
def predsOf (fs : List Found) (a : Nat) : List Found := fs.filter (fun f => (blockSuccs f.blk).contains a)

/-- Whether a rolling successor breaks R72: exactly one predecessor, KERNEL or PURE, of the same region block. -/
def rollBad (fs : List Found) (f : Found) : Bool :=
  blockRoll f.blk && match predsOf fs f.addr with
    | [p] => decide (1 < blockKind p.blk) || decide (p.region ≠ f.region)
    | _ => true

/-- What is left of a walk when nodes without a predecessor are taken away, `fuel` times: a loop stays. -/
def peelNodes : Nat → List Found → List Found
  | 0, fs => fs
  | fuel + 1, fs =>
    let keep := fs.filter (fun f => !(predsOf fs f.addr).isEmpty)
    if keep.length = fs.length then fs else peelNodes fuel keep

/-- Whether a region block is placed (R68, R70). -/
def placedBlock (s : State) (blk : Nat) : Bool := (s.region blk).isSome

/-- Whether a node can never be placed (R61, R69). -/
def shapeBad (s : State) (f : Found) : Bool :=
  runsThreads (blockKind f.blk) && !placedBlock s f.region && (legalOrigins s.part f.rblk).isEmpty

/-- Whether a node is admitted and not terminal. -/
def isLive (s : State) (a : Nat) : Bool :=
  match s.node a with
  | some n => !n.state.terminal
  | none => false

/-- The die at which a node is enqueued (R65). -/
def enqueueDie (s : State) (die : Nat) (rblk : List Word) (blk : Nat) : Nat :=
  match s.region blk with
  | some r => dieOf r.x0 r.y0
  | none => if blockFixed rblk then dieOf (blockOrgX rblk) (blockOrgY rblk) else die

/-- The die whose Scheduler Unit keeps an admitted node. -/
def nodeDie (s : State) (n : NodeRec) : Nat :=
  match s.region n.region with
  | some r => dieOf r.x0 r.y0
  | none => n.die

/-- Whether an admission would put more than 4096 live nodes on a die (R61). -/
def queueFull (s : State) (die : Nat) (fs : List Found) : Bool :=
  let live := (s.nodes.filter (fun n => !n.state.terminal)).map (nodeDie s)
  let news := fs.map (fun f => enqueueDie s die f.rblk f.region)
  (List.range 4).any (fun d => decide (4096 < (live.filter (fun e => decide (e = d))).length + (news.filter (fun e => decide (e = d))).length)
    && news.contains d)

/-- The outcome of an admission, but for its effect (R61): the codes in their order. -/
def admitCode (s : State) (die : Nat) (k : Walked) : Nat :=
  if k.bad || k.found.any (rollBad k.found) then 1
  else if !(peelNodes k.found.length k.found).isEmpty then 4
  else if !k.todo.isEmpty then 3
  else if k.found.any (shapeBad s) then 6
  else if k.found.any (fun f => isLive s f.addr) then 2
  else if queueFull s die k.found then 5
  else 0

/-- The pending count of a node (R61): one per SUCC field that names it; the root's is 0. -/
def pendingCount (fs : List Found) (root a : Nat) : Nat :=
  if a = root then 0 else (fs.map (fun f => ((blockSuccs f.blk).filter (fun x => decide (x = a))).length)).sum

/-- The record of a node as it is admitted (R53, R59, R61). -/
def newNode (s : State) (die : Nat) (pending : Nat) (f : Found) : NodeRec :=
  { addr := f.addr, die := enqueueDie s die f.rblk f.region, blk := f.blk, rblk := f.rblk, desc := f.desc, region := f.region,
    path := f.chain.map (fun c => c.1), tenant := chainTenant f.chain, pending := pending, sawDone := false, state := .waiting,
    prio := chainPrio f.chain, base := chainPrio f.chain, prioAt := s.cycle, readyAt := s.cycle, fd := chainPolicy f.chain,
    rerun := false, impure := false, late := false, code := codeOk, tileX := 0xFF, tileY := 0xFF, detail := 0, todo := [],
    begun := false, bytes := 0, stop := .no, look := none, gang := none, resuming := false,
    tkey := wordBytes (((chainBlock f.chain 3).drop 8).take 4), arch := [], aid := s.nextId }

/-- A node enters READY (R62, R65): newly ready in the dispatch order at its priority of admission. -/
def State.enterReady (s : State) (a : Nat) : State :=
  (s.updNode a (fun n => { n with prio := n.base, prioAt := s.cycle, readyAt := s.cycle, look := none, begun := false })).setNState a .ready

/-- One node admitted (R61): the fields that admission clears, then its STATE (R396). -/
def State.admitNode (s : State) (n : NodeRec) : State :=
  let s : State := { s with nodes := s.nodes.filter (fun m => decide (m.addr ≠ n.addr)) ++ [n] }
  let s := ((s.suWrite (n.addr + 48) 0x0000FFFF00000000).suWrite (n.addr + 160) 0).suWrite (n.addr + 168) 0
  if n.pending = 0 then s.enterReady n.addr else s.setNState n.addr .waiting

end Sys2Proof.Machine
end

