-- ==== Sys2Proof/Machine/Place.lean ====
section
/-! DEFINITION. Placement of regions (R65, R68, R70, R271) and the start of a node on a tile (R71, R72, R186, R399). -/

namespace Sys2Proof.Machine

/-! Region save headers (R271, R272). -/

/-- The number of a 1 MiB unit of an MPT's SAVE area. -/
def unitOf (m u : Nat) : Nat := 16 * m + u

/-- The 1 MiB units of SAVE areas that hold tile records (R272). -/
def recordUnits (s : State) : List Nat := s.regions.flatMap (fun r => r.saved.map (fun x => x.unit))

/-- The region save headers in use (R271). -/
def usedHeaders (s : State) : List (Nat × Nat) := s.regions.map (fun r => r.header)

/-- The first free region save header in ascending MPT index (R271). -/
def freeHeader (s : State) : Option (Nat × Nat) :=
  let used := usedHeaders s
  let recs := recordUnits s
  ((List.range s.part.mpts).flatMap (fun m =>
    (List.range (carveBytes (s.mpt m).carve 12 / 0x10000)).map (fun j => (m, j)))).find?
      (fun h => !used.contains h && !recs.contains (unitOf h.1 (h.2 / 16)))

/-! Rectangles (R65, R68). -/

/-- Whether two rectangles have a tile in common. -/
def rectsMeet (ax ay aw ah bx by_ bw bh : Nat) : Bool :=
  decide (ax < bx + bw) && decide (bx < ax + aw) && decide (ay < by_ + bh) && decide (by_ < ay + ah)

/-- Whether a rectangle is free of placed regions, and of reservations of nodes other than `a` (R68). -/
def rectFree (s : State) (a x0 y0 w h : Nat) : Bool :=
  !(s.regions.any (fun r => (r.on || r.dead) && rectsMeet x0 y0 w h r.x0 r.y0 r.w r.h))
    && !(s.reserve.any (fun r => decide (r.node ≠ a) && rectsMeet x0 y0 w h r.x0 r.y0 r.w r.h))

/-- A REGIONID that no region holds, found from a start, `fuel` numbers being tried (R68). -/
def freeRid (used : List Nat) (start : Nat) : Nat → Nat
  | 0 => start % 65535 + 1
  | fuel + 1 => if used.contains (start % 65535 + 1) then freeRid used (start + 1) fuel else start % 65535 + 1

/-! The clearing of R70. -/

/-- A tile's banks zero with every F/E bit empty, its instruction cache and TLB invalid, its switch memory zero (R70). -/
def clearTile (t : Nat) (s : State) : State :=
  (s.blankSram t 0 0xC0000).updTile t (fun x => { x with sw := Switch.idle, tlb := [], icache := [], lines := [] })

/-- A tile given to a placement (R68, R70). -/
def takeTile (rid gen : Nat) (t : Nat) (s : State) : State :=
  (clearTile t s).updTile t (fun x => { x with placed := true, rid := rid, gen := gen, idleFrom := s.cycle })

/-- The record of a new placement (R68, R98, R107, R159, R178). -/
def newRegion (s : State) (n : NodeRec) (rid gen x0 y0 : Nat) (hdr : Nat × Nat) : RegionRec :=
  { blk := n.region, rid := rid, gen := gen, x0 := x0, y0 := y0, w := blockW n.rblk, h := blockH n.rblk, det := blockDet n.rblk,
    number := 0, digests := [], faults := 0, header := hdr, bars := [], barFar := [], barDone := [], quietFrom := none, base := s.cycle, on := true, saved := [],
    streams := [], dead := false }

/-- The first bytes of a region save header (R271): the node address, then RID, GEN and the origin in a layout that the spec does not
give (log entry 1). -/
def writeHeader (hdr : Nat × Nat) (a : Nat) (s : State) : State :=
  let k := areaKey .save hdr.1 (hdr.2 * 0x10000)
  let f := s.freeWord
  let g := f.2.freeWord
  ((g.2.putNat k 8 a).putNat (k + 8) 8 f.1.toNat).putNat (k + 16) 8 g.1.toNat

/-- The generation of a placement made the live one at every MPT that has drained its RID (R82, log entry 15). -/
def liveGen (rid gen : Nat) (s : State) : State :=
  { s with mpts := s.mpts.map (fun m =>
      if (sparseGet none m.2.live rid).isSome then (m.1, { m.2 with live := sparseSet none m.2.live rid (some gen) }) else m) }

/-- A region placed at an origin (R68): a REGIONID that is free, and a GEN one higher than its last. -/
def placeRegion (s : State) (n : NodeRec) (x0 y0 : Nat) (hdr : Nat × Nat) : State :=
  let used := s.regions.map (fun r => r.rid)
  let f := s.freeWord
  let rid := freeRid used f.1.toNat (used.length + 1)
  let gen := (sparseGet 0 f.2.lastGen rid + 1) % 65536
  let r := newRegion s n rid gen x0 y0 hdr
  let s : State := { f.2 with lastGen := sparseSet 0 f.2.lastGen rid gen, regions := f.2.regions ++ [r],
                              reserve := f.2.reserve.filter (fun q => decide (q.node ≠ n.addr)) }
  let s := (rectTiles x0 y0 r.w r.h).foldl (fun s t => takeTile rid gen t s) s
  let s := liveGen rid gen s
  let s := writeHeader hdr n.addr s
  (s.suWrite (n.region + 80) (word (gen * 65536 + rid))).suWrite (n.region + 88) (word (y0 * 256 + x0))

/-! A node's start on a tile (R399). -/

/-- The first flits of a buffer. -/
def Buf.keep {α : Type} (n : Nat) (b : Buf α) : Buf α := { b with flits := b.flits.take n }

/-- The direction of a code. -/
def dirOfCode : Nat → Dir
  | 0 => .n
  | 1 => .e
  | 2 => .s
  | _ => .w

/-- One plane's buffer that a FIFO target names, cut to the flits that it holds without the bank (R186, R189). -/
def trimBufs {α : Type} (code cin inp : Nat) (b : Bufs α) : Bufs α :=
  let d := dirOfCode (code % 4)
  if code / 4 % 2 = 1 then b.setCin ((b.cin d).keep cin) d else b.setInp ((b.inp d).keep inp) d

/-- The flits of a FIFO bank discarded (R186, R189). -/
def trimFifo (s : State) (t code : Nat) : State :=
  let plain : Tile := { s.tile t with roles := 0 }
  let p : Plane := if code < 8 then .scalar else .vector
  let inp := inpCap (s.setTile t plain) t p (dirOfCode (code % 4))
  s.updTile t (fun x => if code < 8 then { x with sc := trimBufs code (cinCap plain p (dirOfCode (code % 4))) inp x.sc }
    else { x with ve := trimBufs code (cinCap plain p (dirOfCode (code % 4))) inp x.ve })

/-- A bank's contents after its role changes (R186). -/
def fixBank (t b old new : Nat) (s : State) : State :=
  if old = 1 ∨ new = 1 ∨ (old = 2 ∧ (new = 0 ∨ new = 3)) then s.blankSram t (b * 0x10000) (b * 0x10000 + 0x10000) else s

/-- Roles taking effect on a tile (R186): CACHE lines are invalid in every case. -/
def applyRoles (t : Nat) (roles : BitVec 24) (fifot : BitVec 48) (s : State) : State :=
  let x := s.tile t
  let s := (List.range 12).foldl (fun s b => if roleOf x b = 1 then trimFifo s t (fifoTarget x b) else s) s
  let s := (List.range 12).foldl (fun s b => fixBank t b (roleOf x b) (bitsAt roles.toNat (2 * b) 2) s) s
  s.updTile t (fun x => { x with roles := roles, fifot := fifot, lines := [] })

/-- A word of the image's data written to a tile as an ordinary store (R399, R187, R188): a full SA word keeps its old value. -/
def loadWord (t off : Nat) (v : Word) (bad : Bool) (s : State) : State :=
  if saFull s t off then s
  else
    let s := saFill (s.putNat (sramKey t off) 8 v.toNat) t off
    (if bad then s.poisonWord (sramKey t off) else s).serveFull t off

/-- `n` words of the image's data from a physical address written to a tile's offset. -/
def loadData (t : Nat) : Nat → Nat → Nat → State → State
  | _, _, 0, s => s
  | pa, off, n + 1, s =>
    let s := s.foldPa pa
    loadData t (pa + 8) (off + 8) n (loadWord t off (s.paWord pa) (s.paPoisoned pa) s)

/-- Switch memory with a program (R399, R405): without one it acts as having executed SHALT. -/
def loadSwitch (ws : List Word) (cycle : Nat) : Switch :=
  { Switch.idle with mem := (List.range ws.length).foldl (fun m i => sparseSet 0 m i (nth 0 ws i)) [], halted := ws.isEmpty,
                     since := cycle }

/-- The empty record of a tile that the image does not name (R399). -/
def noRec : TileRec := ⟨0, 0, 0, 0, [], 0, 0, 0, 0, 0⟩

/-- An image's record of a tile of a region. -/
def recFor (i : Image) (r : RegionRec) (t : Nat) : TileRec :=
  (i.recs.find? (fun q => decide (tileAt (r.x0 + q.x) (r.y0 + q.y) = t))).getD noRec

/-- A launch thread before its first instruction (R71, R85, R99, R261). -/
def launchThread (s : State) (n : NodeRec) (i : Image) (t k entry : Nat) : Thread :=
  { Thread.fresh with
    pc := i.codeva + word (4 * entry), s := sparseSet 0 (sparseSet 0 [] 1 (nth 0 n.blk 9)) 2 (word n.addr), trapvec := i.trapvec,
    left := fillOf (s.tile t).fills k, key := BitVec.ofNat 32 k, window := 0, origin := t, node := some n.addr,
    root := i.root, uid := s.nextId }

/-- The thread of a native slot started, where the record gives it an entry (R398). -/
def startThread (n : NodeRec) (i : Image) (q : TileRec) (t : Nat) (s : State) (k : Nat) : State :=
  let e := nth 0xFFFFFFFF q.entries k
  if e = 0xFFFFFFFF then s
  else
    let th := launchThread s n i t k e
    let s : State := { s with nextId := s.nextId + 1 }
    (s.setNative t k Native.fresh).setThread t k (some th)

/-- A node's start on a tile (R399), in its five steps. A PURE run's tile is cleared first (R145), and a TLB of another root is emptied
(R202). -/
def startTile (n : NodeRec) (r : RegionRec) (i : Image) (s : State) (t : Nat) : State :=
  let q := recFor i r t
  let s := if n.kind = 1 && !n.impure then clearTile t s else s
  let s := applyRoles t q.roles q.fifot s
  let s := loadData t (i.code + q.doff) 0 (q.dlen / 8) s
  let sw := readPa (i.code + q.swoff) q.swlen s
  let s := sw.2.updTile t (fun x =>
    { x with sw := loadSwitch sw.1 s.cycle, sig := false, htab := masked 0x1F0FF801 0 q.htab, node := some n.addr, root := i.root,
             tlb := if x.root = i.root then x.tlb else [], trapvec := i.trapvec, started := s.cycle, retired := false })
  (List.range 4).foldl (startThread n i q t) s

/-- Whether a node may start on a tile now (R72): no node holds it, or the one that does has retired there. -/
def tileReady (s : State) (t : Nat) : Bool := (s.tile t).node.isNone || (s.tile t).retired

/-- A node started on those tiles of a list that are ready; the others are left to do (R72). -/
def startTiles (n : NodeRec) (r : RegionRec) (i : Image) (ts : List Nat) (s : State) : State :=
  let now := ts.filter (tileReady s)
  let s := now.foldl (startTile n r i) s
  s.updNode n.addr (fun x => { x with todo := ts.filter (fun t => !now.contains t) })

/-- The rolling successors of a node that enters RUNNING, or that the Archive ends with a hit (R62, R72). -/
def wakeRolling (n : NodeRec) (s : State) : State :=
  n.succs.foldl (fun s a => match s.node a with
    | some m => if m.state = .waiting ∧ blockRoll m.blk ∧ m.aid = n.aid then s.enterReady a else s
    | none => s) s

/-- A node enters RUNNING with its first start (R62, R107): its digest at its first start in the placement, STARTTICK, and its threads on every tile that is ready. -/
def beginRun (n : NodeRec) (r : RegionRec) (i : Image) (s : State) : State :=
  let d := codeDigest i s
  let s := d.2.updRegion r.blk (fun x => { x with digests := if x.digests.any (fun e => decide (e.1 = n.addr)) then x.digests else x.digests ++ [(n.addr, d.1)] })
  let s := (s.suWrite (n.addr + 160) s.tick).setNState n.addr .running
  wakeRolling n (startTiles n r i r.tiles s)

end Sys2Proof.Machine
end

