-- ==== Sys2Proof/Machine/Archive.lean ====
section
/-! DEFINITION. The Archive (R141-R154): keys, lookups, hits, watches and insertions, and ADIG and AINV (R400, R401). -/

namespace Sys2Proof.Machine

/-! Ranges and keys (R141-R143). -/

/-- A range cut at multiples of 4096 from its base (R141), `fuel` pieces at most. -/
def piecesFrom : Nat → Word → Nat → List (Word × Nat)
  | 0, _, _ => []
  | fuel + 1, va, n => if n = 0 then [] else (va, min 4096 n) :: piecesFrom fuel (va + 4096) (n - 4096)

/-- The chunks of argument ranges, by descriptor and then ascending (R141). -/
def chunkPieces (rs : List (Word × Nat)) : List (Word × Nat) := rs.flatMap (fun r => piecesFrom (r.2 / 4096 + 1) r.1 r.2)

/-- A range cut at multiples of 64, for the output ranges, whose bases need not be multiples of 4096. -/
def outPieces : Nat → Word → List (Word × Nat)
  | 0, _ => []
  | n + 1, va => (va, 64) :: outPieces n (va + 64)

/-- Pieces translated under a node's address space (R145): none where one does not translate, or a module on the way is down (log entry
88). -/
def mapPieces (src : Node) (root : Nat) (k : AccKind) : List (Word × Nat) → State → Option (List (Nat × Nat)) × State
  | [], s => (some [], s)
  | p :: ps, s =>
    match engineMap s src root 0 p.1 k with
    | .error _ => (none, s)
    | .ok (m, s) =>
      let r := mapPieces src root k ps s
      (r.1.map (fun l => (m.pa, p.2) :: l), r.2)

/-- The bytes of a translated piece, each word folded first (R104): none where a word is poisoned (R35). -/
def pieceBytes (p : Nat × Nat) (s : State) : Option (List Byte) × State :=
  let r := readPa p.1 (p.2 / 8) s
  match paKey r.2 p.1 with
  | some k => (if r.2.isPoisoned k p.2 then none else some (wordBytes r.1), r.2)
  | none => (some (wordBytes r.1), r.2)

/-- The digest that an MPT has cached of a chunk (R142). -/
def cachedDigest (s : State) (p : Nat × Nat) : Option (List Byte) :=
  ((s.mpt (homeMpt s p.1)).digests.find? (fun d => decide (d.1 = chunkOf p.1) && decide (d.2.1 = p.2))).map (fun d => d.2.2)

/-- The digest of a chunk (R142), cached or computed: none where a word that it reads is poisoned. A word that is folded is written, so
that it drops the digest. -/
def chunkDigest (p : Nat × Nat) (s : State) : Option (List Byte) × State :=
  let s := (List.range (p.2 / 8)).foldl (fun s i => s.foldPa (p.1 + 8 * i)) s
  match cachedDigest s p with
  | some d => (some d, s)
  | none =>
    let b := pieceBytes p s
    match b.1 with
    | none => (none, b.2)
    | some bs =>
      let d := shake256 32 bs
      (some d, b.2.updMpt (homeMpt s p.1) (fun m => { m with digests := (chunkOf p.1, p.2, d) :: m.digests }))

/-- The digests of chunks in order (R142): none where a word is poisoned. -/
def chunkDigests : List (Nat × Nat) → State → Option (List Byte) × State
  | [], s => (some [], s)
  | p :: ps, s =>
    let b := chunkDigest p s
    match b.1 with
    | none => (none, b.2)
    | some d =>
      let r := chunkDigests ps b.2
      (r.1.map (fun l => d ++ l), r.2)

/-- The lookup key of a PURE node (R143), from the code digest and the chunk digests. -/
def archiveKey (tkey code : List Byte) (w h : Nat) (arg : Word) (det : Bool) (desc : List Word) (digests : List Byte) : List Byte :=
  shake256 32 (ascii ['Z', 'N', '-', 'A', 'R', 'C', 'H'] ++ [1] ++ tkey ++ code ++ shapeHash w h 1 ++ leBytes 8 arg.toNat
    ++ leBytes 1 (bit det) ++ leBytes 1 (field (nth 0 desc 0) 0 8) ++ leBytes 1 (field (nth 0 desc 0) 8 8) ++ List.replicate 5 0
    ++ wordBytes (desc.drop 2) ++ digests)

/-- The entry of a key and tenant (R144): a VALID one, else one that is FILLING. -/
def findEntry (s : State) (key : List Byte) (tenant : Nat) : Option Entry :=
  let es := (s.mpt (bankOf s.part key)).entries.filter (fun e =>
    decide (e.set = setOf key) && decide (e.key = key) && decide (e.tenant = tenant))
  match es.find? (fun e => decide (e.state = .valid)) with
  | some e => some e
  | none => es.head?

/-! Lookups (R145, R146). -/

/-- The lookup of a node in RUN with insertion disallowed (R145). -/
def runWithout (a : Nat) (s : State) : State :=
  s.updNode a (fun n => { n with look := some ⟨.run, 0, [], [], [], false, false, none⟩ })

/-- The region's shape and DET flag as a node's block gives them (R53). -/
def lookShape (n : NodeRec) : Nat × Nat × Bool := (blockW n.rblk, blockH n.rblk, blockDet n.rblk)

/-- ARM (R145): every range translated and its chunks and outputs watched; a fault on a range runs the node without insertion. -/
def armLookup (s : State) (n : NodeRec) : State :=
  match readImage (blockCode n.blk) (lookShape n).1 (lookShape n).2.1 s with
  | (none, s) => runWithout n.addr s
  | (some i, s) =>
    match mapPieces (.su n.die) i.root .read (chunkPieces n.args) s with
    | (none, s) => runWithout n.addr s
    | (some args, s) =>
      match mapPieces (.su n.die) i.root .write (n.outs.flatMap (fun r => outPieces (r.2 / 64) r.1)) s with
      | (none, s) => runWithout n.addr s
      | (some outs, s) =>
        s.updNode n.addr (fun n => { n with look := some ⟨.hash, 0, args.map (fun p => (chunkOf p.1, p.2)), outs, [], true, false, none⟩ })

/-- The chunks of a lookup as physical pieces. -/
def lookPieces (l : Lookup) : List (Nat × Nat) := l.chunks.map (fun c => (c.1 * 4096, c.2))

/-- HASH ended (R145): the key of what memory holds, or RUN without insertion where a word is poisoned. -/
def hashLookup (s : State) (n : NodeRec) (l : Lookup) : State :=
  let d := chunkDigests (lookPieces l) s
  match d.1 with
  | none => runWithout n.addr d.2
  | some ds =>
    match readImage (blockCode n.blk) (lookShape n).1 (lookShape n).2.1 d.2 with
    | (none, s) => runWithout n.addr s
    | (some i, s) =>
      let c := codeDigest i s
      let key := archiveKey n.tkey c.1 (lookShape n).1 (lookShape n).2.1 (nth 0 n.blk 9) (lookShape n).2.2 n.desc ds
      c.2.updLook n.addr (fun l => { l with st := .probe, key := key })

/-- The node and lookup that an Archive event acts on, where the lookup is in a state. -/
def hereLook (s : State) (st : Look) : Option (NodeRec × Lookup) :=
  match s.node s.here.item with
  | some n => (match n.look with
    | some l => if l.st = st then some (n, l) else none
    | none => none)
  | none => none

/-- ARCHIVE_HASH_COMPLETE (R145). A watched write that has been signalled comes first. -/
def execArchiveHashComplete (s : State) : Out :=
  match hereLook s .hash with
  | some x => if x.2.hit then .next s else .next (hashLookup s x.1 x.2)
  | none => .next s

/-- An entry of a bank updated. -/
def State.updEntry (s : State) (bank set way : Nat) (f : Entry → Entry) : State :=
  s.updMpt bank (fun m => { m with entries := m.entries.map (fun e => if e.set = set ∧ e.way = way then f e else e) })

/-- A word of an Archive store written at a physical address by the Archive's engines, with its poison (R35, R146, R150). -/
def deliverWord (pa k : Nat) (s : State) : State :=
  let bad := s.isPoisoned k 8
  let s := s.detect k 8
  let s := match bad, paKey s pa with
    | true, some j => s.beforePoison j
    | _, _ => s
  let s := s.suWrite pa (word (s.getNat k 8))
  match bad, paKey s pa with
  | true, some j => s.poisonWord j
  | _, _ => s

/-- A result of an Archive store, from a storage key on, written to physical pieces. -/
def deliverFrom : List (Nat × Nat) → Nat → State → State
  | [], _, s => s
  | p :: ps, k, s => deliverFrom ps (k + p.2) ((List.range (p.2 / 8)).foldl (fun s i => deliverWord (p.1 + 8 * i) (k + 8 * i) s) s)

/-- A hit (R145, R146): the watches are gone, and the check point is now. -/
def hitEntry (s : State) (n : NodeRec) (l : Lookup) (e : Entry) : State :=
  let bank := bankOf s.part l.key
  let s := s.updEntry bank e.set e.way (fun x => { x with age := nextAge (s.mpt bank) })
  let s := s.updLook n.addr (fun x => { x with st := .deliver, chunks := [], outs := [] })
  let s := s.suWrite (n.addr + 160) s.tick
  (deliverFrom l.outs (areaKey .arch bank (64 * e.roff)) s).chargeNode (some n.addr) e.rlen

/-- ARCHIVE_PROBE_RESULT (R145): only a VALID entry of the node's tenant matches (R144). -/
def execArchiveProbeResult (s : State) : Out :=
  match hereLook s .probe with
  | some (n, l) =>
    if l.hit then .next s
    else match findEntry s l.key n.tenant with
      | some e =>
        if e.state = .valid then .next (hitEntry s n l e) else .next (s.updLook n.addr (fun x => { x with st := .run }))
      | none => .next (s.updLook n.addr (fun x => { x with st := .run }))
  | none => .next s

/-- A watched write at a lookup (R145). -/
def watchHit (s : State) (n : NodeRec) (l : Lookup) : State :=
  match l.st with
  | .run => s.updLook n.addr (fun x => { x with insert := false, hit := false })
  | .insert => dropEnded n.addr (s.endLookup n.addr)
  | .deliver => s.updLook n.addr (fun x => { x with hit := false })
  | _ =>
    if l.restarts < 3 then s.updLook n.addr (fun x => { x with restarts := x.restarts + 1, hit := false, st := .hash })
    else runWithout n.addr s

/-- ARCHIVE_WATCH_HIT (R145, R150). -/
def execArchiveWatchHit (s : State) : Out :=
  match s.node s.here.item with
  | some n => (match n.look with
    | some l => if l.hit then .next (watchHit s n l) else .next s
    | none => .next s)
  | none => .next s

/-- ARCHIVE_DELIVER_COMPLETE (R146): DONE with HIT, or KILLED where a kill came meanwhile. -/
def execArchiveDeliverComplete (s : State) : Out :=
  match hereLook s .deliver with
  | some (n, _) =>
    let s := s.updNode n.addr (fun x => { x with look := none })
    if n.code = codeKilled then .next (s.endAll n.addr .killed codeKilled .fail)
    else .next ((wakeRolling n s).endAll n.addr .done codeHit .done)
  | none => .next s

/-! Insertion (R152, R153). -/

/-- The bytes of pieces in order: none where a word is poisoned. -/
def piecesBytes : List (Nat × Nat) → State → Option (List Byte) × State
  | [], s => (some [], s)
  | p :: ps, s =>
    let b := pieceBytes p s
    match b.1 with
    | none => (none, b.2)
    | some bs =>
      let r := piecesBytes ps b.2
      (r.1.map (fun l => bs ++ l), r.2)

/-- Whether a watched write to a lookup of a node has been signalled. -/
def lookHit (s : State) (a : Nat) : Bool :=
  match s.node a with
  | some n => n.look.any (fun l => l.hit)
  | none => false

/-- An insertion's copy ended (R145): the entry is VALID, or free where an output word was poisoned, a watched write has come, a fold that the
copy itself makes included, or the entry is gone (R401). -/
def completeInsert (s : State) (n : NodeRec) (l : Lookup) : State :=
  match l.entry with
  | none => dropEnded n.addr (s.updNode n.addr (fun x => { x with look := none }))
  | some (bank, set, way, serial) =>
    match (s.mpt bank).entries.find? (fun e => decide (e.serial = serial)) with
    | some e =>
      if l.hit then dropEnded n.addr (s.endLookup n.addr)
      else
        let b := piecesBytes l.outs s
        (match b.1, lookHit b.2 n.addr with
        | none, _ => dropEnded n.addr (b.2.endLookup n.addr)
        | _, true => dropEnded n.addr (b.2.endLookup n.addr)
        | some bs, false =>
          let s := b.2.putBytes (areaKey .arch bank (64 * e.roff)) bs
          let s := s.updEntry bank set way (fun x => { x with state := .valid, age := nextAge (s.mpt bank) })
          dropEnded n.addr (s.updNode n.addr (fun x => { x with look := none })))
    | none => dropEnded n.addr (s.updNode n.addr (fun x => { x with look := none }))

/-- ARCHIVE_INSERT_COMPLETE (R153). -/
def execArchiveInsertComplete (s : State) : Out :=
  match hereLook s .insert with
  | some (n, l) => .next (completeInsert s n l)
  | none => .next s

/-! ADIG and AINV (R400, R401). -/

/-- Whether a physical address may name a catalogue block (R52, R395): a multiple of 256 in HBM or DIRECT. -/
def blockAddr (s : State) (v : Word) : Bool :=
  decide (v.toNat % 256 = 0) && match paKind s v.toNat with
    | .hbm => true
    | .direct _ _ => true
    | _ => false

/-- Whether a block's tenant is not the present thread's, for a thread at U or S (R395). -/
def otherTenant (s : State) (tenant : Nat) : Bool :=
  decide (s.me.pl ≠ 2) && decide ((tenantOf s s.me).getD 0 ≠ tenant)

/-- Whether a block that is malformed, or one of its ancestors, belongs to a tenant other than the present thread's (R395). -/
def foreignChain (s : State) (a : Word) : Bool := (tenantUp 3 a.toNat s).1.any (otherTenant s)

/-- ARM of an ADIG (R400, R145): the argument chunks that it watches, or the outcome where there are none. -/
def adigArm (f : Found) (s : State) : Except Nat (List (Nat × Nat)) :=
  match readImage (blockCode f.blk) (blockW f.rblk) (blockH f.rblk) s with
  | (none, _) => .error 3
  | (some i, s) =>
    match (mapPieces (.tile s.here.tile) i.root .read (chunkPieces (descriptors f.desc 0 (field (nth 0 f.desc 0) 0 8))) s).1 with
    | none => .error 5
    | some args => .ok (args.map (fun p => (chunkOf p.1, p.2)))

/-- The key of a PURE node's block against current memory (R400), or the outcome where there is none. -/
def adigKey (f : Found) (s : State) : Except Nat (List Byte) × State :=
  match readImage (blockCode f.blk) (blockW f.rblk) (blockH f.rblk) s with
  | (none, s) => (.error 3, s)
  | (some i, s) =>
    match mapPieces (.tile s.here.tile) i.root .read (chunkPieces (descriptors f.desc 0 (field (nth 0 f.desc 0) 0 8))) s with
    | (none, s) => (.error 5, s)
    | (some args, s) =>
      let d := chunkDigests args s
      match d.1 with
      | none => (.error 6, d.2)
      | some ds =>
        let c := codeDigest i d.2
        (.ok (archiveKey (wordBytes (((chainBlock f.chain 3).drop 8).take 4)) c.1 (blockW f.rblk) (blockH f.rblk) (nth 0 f.blk 9)
          (blockDet f.rblk) f.desc ds), c.2)

/-- The outcome of ADIG for a key (R400). -/
def adigOutcome (s : State) (tenant : Nat) (key : List Byte) : Nat :=
  match findEntry s key tenant with
  | some e => if e.state = .valid then 0 else 2
  | none => 1

/-- The four words of 32 bytes at an address checked as ordinary stores (R395, R400). -/
def checkStores (va : Word) : List Nat → State → Except TrapInfo (List (Word × Target) × State)
  | [], s => .ok ([], s)
  | i :: is, s =>
    match checkAccess (va + word (8 * i)) 8 .write 0 s with
    | .error c => .error c
    | .ok (g, s) =>
      match checkStores va is s with
      | .error c => .error c
      | .ok (gs, s) => .ok ((va + word (8 * i), g) :: gs, s)

/-- An access of several words that lies in another tile's SRAM is a remote reference, as a scalar one is (R192). -/
def refOf (s0 : State) (gs : List (Word × Target)) (k : Act Unit) : Act Unit :=
  match gs with
  | (_, .sram t _) :: _ => if t = s0.here.tile then k else remoteRef s0 t k
  | _ => k

/-- An outcome written to d with 32 bytes stored (R395, R400): four ordinary stores of the thread in program order. -/
def storeOutcome (s0 : State) (d : SReg) (code : Nat) (gs : List (Word × Target)) (bytes : List Byte) (s : State) : Act Unit :=
  let ws := chunks 8 4 bytes
  let items : List Item := (List.range gs.length).map (fun i =>
    let g := nth (0, .glob 0 true) gs i
    ⟨i, g.1, g.2, .store 8 (word (leNat (nth [] ws i)))⟩)
  refOf s0 gs (issue s0 items .nothing false false (writeS d (word code) 1 s))

/-- The checks of four stores, in an instruction's chain of parts; a full SA word raises REWRITE before anything is sent (R187). -/
def withStores (va : Word) (s : State) (f : List (Word × Target) → State → Act Unit) : Act Unit :=
  match checkStores va [0, 1, 2, 3] s with
  | .error c => .trap c
  | .ok (gs, s) =>
    match firstFull s gs with
    | some a => .trap (trapOf .rewrite a 0)
    | none => f gs s

/-- The present thread with its ADIG's hash ended. -/
def endDig (s : State) : State := s.upd (fun x => { x with dig := none })

/-- The hash of an ADIG begun, or begun again (R400): the thread waits, and takes its operands only when it ends. -/
def waitDig (g : Dig) (s0 : State) : Act Unit := .go () (waitFor .archive (s0.upd (fun x => { x with dig := some g })))

/-- The hash of an ADIG (R400, R145): ARM; a watched write before its end restarts it, at most three times; then its key and outcome. -/
def adigHash (s0 : State) (d : SReg) (tenant : Nat) (f : Found) (gs : List (Word × Target)) (s : State) : Act Unit :=
  match s0.me.dig with
  | none =>
    (match adigArm f s with
    | .error code => done d (word code) 1 4 s
    | .ok chunks => waitDig ⟨0, chunks, false⟩ s0)
  | some g =>
    if g.hit then (if g.restarts < 3 then waitDig ⟨g.restarts + 1, g.chunks, false⟩ s0 else done d 4 1 4 (endDig s))
    else
      let k := adigKey f (endDig s)
      match k.1 with
      | .error code => done d (word code) 1 4 k.2
      | .ok key => storeOutcome s0 d (adigOutcome k.2 tenant key) gs key k.2

/-- ADIG after its waits (R400). -/
def adigGo (s0 : State) (d : SReg) (a : Word) (gs : List (Word × Target)) (s : State) : Act Unit :=
  let none_ (s : State) : Act Unit := done d 3 1 4 (endDig s)
  if !blockAddr s a then none_ s
  else match blockChain a.toNat s with
    | (none, s) => if foreignChain s a then .trap (trapOf .access a 0) else none_ s
    | (some c, s) =>
      if otherTenant s (chainTenant c) then .trap (trapOf .access a 0)
      else if c.length ≠ 4 ∨ blockKind (chainBlock c 0) ≠ 1 then none_ s
      else match judgeNode a.toNat s with
        | (none, s) => none_ s
        | (some f, s) => adigHash s0 d (chainTenant c) f gs s

/-- ADIG (R400). -/
def execAdig (d a b : SReg) (s : State) : Out :=
  replyOp s (fun s0 =>
    roomS d s0
    ((readS a s0).andThen (fun x s =>
      (readS b s).andThen (fun y s =>
        withStores y s (fun gs s => releases true s0 (adigGo s0 d x gs s))))))

/-- The four words of a key checked as loads (R401). -/
def checkLoads (va : Word) : List Nat → State → Except TrapInfo (List (Word × Target) × State)
  | [], s => .ok ([], s)
  | i :: is, s =>
    match checkAccess (va + word (8 * i)) 8 .read 0 s with
    | .error c => .error c
    | .ok (g, s) =>
      match checkLoads va is s with
      | .error c => .error c
      | .ok (gs, s) => .ok ((va + word (8 * i), g) :: gs, s)

/-- AINV (R401). -/
def execAinv (a : SReg) (s : State) : Out :=
  replyOp s (fun s0 =>
    (readS a s0).andThen (fun x s =>
      match checkLoads x [0, 1, 2, 3] s with
      | .error c => .trap c
      | .ok (gs, s) =>
        refOf s0 gs (issue s0 ((List.range gs.length).map (fun i =>
          let g := nth (0, .glob 0 true) gs i
          ⟨i, g.1, g.2, .load 8⟩)) .key false false s)))

end Sys2Proof.Machine
end

