-- ==== Sys2Proof/Machine/SlhDsa.lean ====
section
/-! DEFINITION. SLH-DSA-SHAKE-256s, the scheme of the device identity key and of the image signature (R47, R49, R50), as FIPS 205 gives it: hashes of 32 bytes, 8 layers of
trees of height 8, WOTS+ chains of 16, and 22 FORS trees of height 14 (log entry 93). -/

namespace Sys2Proof.Machine

/-- The three seeds of a key pair. -/
structure SlhKey where
  skSeed : List Byte
  skPrf : List Byte
  pkSeed : List Byte
  deriving DecidableEq, Repr

/-- Where a hash stands: its layer and tree, its type (0 WOTS+ chain, 1 WOTS+ key, 2 tree, 3 FORS tree, 4 FORS roots, 5 WOTS+ secret, 6 FORS
secret), and the three words that the type gives a meaning. -/
structure SlhAddr where
  layer : Nat
  tree : Nat
  kind : Nat
  pair : Nat
  height : Nat
  index : Nat
  deriving DecidableEq, Repr

/-- The 32 bytes of a hash address. -/
def SlhAddr.bytes (a : SlhAddr) : List Byte :=
  beBytes 4 a.layer ++ beBytes 12 a.tree ++ beBytes 4 a.kind ++ beBytes 4 a.pair ++ beBytes 4 a.height ++ beBytes 4 a.index

/-- The tweakable hash of the scheme. -/
def slhHash (k : SlhKey) (a : SlhAddr) (m : List Byte) : List Byte := shake256 32 (k.pkSeed ++ a.bytes ++ m)

/-- The first `count` digits of `b` bits of a number, the highest first. -/
def slhDigits (b count v : Nat) : List Nat := (List.range count).map (fun i => v / 2 ^ (b * (count - 1 - i)) % 2 ^ b)

/-- `n` steps of a WOTS+ chain, from step `i` on. -/
def wotsChain (k : SlhKey) (a : SlhAddr) : Nat → Nat → List Byte → List Byte
  | 0, _, x => x
  | n + 1, i, x => wotsChain k a n (i + 1) (slhHash k { a with index := i } x)

/-- The start of chain `j` of a WOTS+ key. -/
def wotsSecret (k : SlhKey) (layer tree leaf j : Nat) : List Byte := slhHash k ⟨layer, tree, 5, leaf, j, 0⟩ k.skSeed

/-- A WOTS+ public key. -/
def wotsKey (k : SlhKey) (layer tree leaf : Nat) : List Byte :=
  slhHash k ⟨layer, tree, 1, leaf, 0, 0⟩ ((List.range 67).flatMap (fun j =>
    wotsChain k ⟨layer, tree, 0, leaf, j, 0⟩ 15 0 (wotsSecret k layer tree leaf j)))

/-- The chain lengths of a 32-byte message: its digits and those of their checksum. -/
def wotsDigits (m : List Byte) : List Nat :=
  let d := slhDigits 4 64 (beNat m)
  d ++ slhDigits 4 3 (d.foldl (fun c x => c + (15 - x)) 0)

/-- A WOTS+ signature of a 32-byte message. -/
def wotsSign (k : SlhKey) (layer tree leaf : Nat) (m : List Byte) : List Byte :=
  (wotsDigits m).zipIdx.flatMap (fun e =>
    wotsChain k ⟨layer, tree, 0, leaf, e.2, 0⟩ e.1 0 (wotsSecret k layer tree leaf e.2))

/-- A node of a tree of WOTS+ keys, by its height and its place at it. -/
def treeNode (k : SlhKey) (layer tree : Nat) : Nat → Nat → List Byte
  | 0, i => wotsKey k layer tree i
  | z + 1, i => slhHash k ⟨layer, tree, 2, 0, z + 1, i⟩ (treeNode k layer tree z (2 * i) ++ treeNode k layer tree z (2 * i + 1))

/-- The signature of a 32-byte message by a leaf of a tree: that of the leaf, and the neighbours on the way to the root. -/
def treeSign (k : SlhKey) (layer tree leaf : Nat) (m : List Byte) : List Byte :=
  wotsSign k layer tree leaf m ++ (List.range 8).flatMap (fun j => treeNode k layer tree j (Nat.xor (leaf / 2 ^ j) 1))

/-- The signatures of the layers from one on: each signs the root below it. -/
def layersSign (k : SlhKey) : Nat → Nat → Nat → Nat → List Byte → List Byte
  | 0, _, _, _, _ => []
  | n + 1, layer, tree, leaf, m =>
    treeSign k layer tree leaf m ++ layersSign k n (layer + 1) (tree / 256) (tree % 256) (treeNode k layer tree 8 0)

/-- The secret of a FORS leaf. -/
def forsSecret (k : SlhKey) (tree leaf i : Nat) : List Byte := slhHash k ⟨0, tree, 6, leaf, 0, i⟩ k.skSeed

/-- A node of the FORS trees, by its height and its place at it. -/
def forsNode (k : SlhKey) (tree leaf : Nat) : Nat → Nat → List Byte
  | 0, i => slhHash k ⟨0, tree, 3, leaf, 0, i⟩ (forsSecret k tree leaf i)
  | z + 1, i => slhHash k ⟨0, tree, 3, leaf, z + 1, i⟩ (forsNode k tree leaf z (2 * i) ++ forsNode k tree leaf z (2 * i + 1))

/-- The FORS signature of the digits of a message: of each tree the secret of its leaf, and the neighbours on the way to the root. -/
def forsSign (k : SlhKey) (tree leaf : Nat) (ds : List Nat) : List Byte :=
  ds.zipIdx.flatMap (fun e =>
    forsSecret k tree leaf (e.2 * 2 ^ 14 + e.1)
      ++ (List.range 14).flatMap (fun j => forsNode k tree leaf j (e.2 * 2 ^ (14 - j) + Nat.xor (e.1 / 2 ^ j) 1)))

/-- The FORS public key. -/
def forsKey (k : SlhKey) (tree leaf : Nat) : List Byte :=
  slhHash k ⟨0, tree, 4, leaf, 0, 0⟩ ((List.range 22).flatMap (fun i => forsNode k tree leaf 14 i))

/-- The public key of a key pair: PK.seed and the root of the top layer. -/
def slhPublic (k : SlhKey) : List Byte := k.pkSeed ++ treeNode k 7 0 8 0

/-- The signature of a message, with the bytes of its randomiser. The message is signed with an empty context. -/
def slhSign (k : SlhKey) (rand msg : List Byte) : List Byte :=
  let m := 0 :: 0 :: msg
  let r := shake256 32 (k.skPrf ++ rand ++ m)
  let digest := shake256 47 (r ++ slhPublic k ++ m)
  let tree := beNat ((digest.drop 39).take 7)
  let leaf := beNat (digest.drop 46)
  r ++ forsSign k tree leaf (slhDigits 14 22 (beNat (digest.take 39) / 2 ^ 4)) ++ layersSign k 8 0 tree leaf (forsKey k tree leaf)

/-! Verification. -/

/-- The root above a leaf of a tree, from the leaf's hash and the neighbours on the way: heights from `z` on, whose next node is `i`. -/
def climb (node : Nat → Nat → List Byte → List Byte) : List (List Byte) → Nat → Nat → List Byte → List Byte
  | [], _, _, x => x
  | y :: ys, z, i, x => climb node ys (z + 1) (i / 2) (node (z + 1) (i / 2) (if i % 2 = 0 then x ++ y else y ++ x))

/-- The FORS public key that a signature of the digits of a message leads to. -/
def forsRecover (k : SlhKey) (tree leaf : Nat) (ds : List Nat) (sig : List Byte) : List Byte :=
  let node (z i : Nat) (m : List Byte) : List Byte := slhHash k ⟨0, tree, 3, leaf, z, i⟩ m
  slhHash k ⟨0, tree, 4, leaf, 0, 0⟩ (ds.zipIdx.flatMap (fun e =>
    let p := sig.drop (480 * e.2)
    let i := e.2 * 2 ^ 14 + e.1
    climb node (chunks 32 14 ((p.drop 32).take 448)) 0 i (node 0 i (p.take 32))))

/-- The WOTS+ public key that a signature of a 32-byte message leads to. -/
def wotsRecover (k : SlhKey) (layer tree leaf : Nat) (m sig : List Byte) : List Byte :=
  slhHash k ⟨layer, tree, 1, leaf, 0, 0⟩ ((wotsDigits m).zipIdx.flatMap (fun e =>
    wotsChain k ⟨layer, tree, 0, leaf, e.2, 0⟩ (15 - e.1) e.1 ((sig.drop (32 * e.2)).take 32)))

/-- The root that a leaf's signature of a 32-byte message leads to. -/
def treeRecover (k : SlhKey) (layer tree leaf : Nat) (m sig : List Byte) : List Byte :=
  climb (fun z i x => slhHash k ⟨layer, tree, 2, 0, z, i⟩ x) (chunks 32 8 ((sig.drop 2144).take 256)) 0 leaf
    (wotsRecover k layer tree leaf m sig)

/-- The top root that the layers' signatures lead to, from one layer on. -/
def layersRecover (k : SlhKey) : Nat → Nat → Nat → Nat → List Byte → List Byte → List Byte
  | 0, _, _, _, m, _ => m
  | n + 1, layer, tree, leaf, m, sig =>
    layersRecover k n (layer + 1) (tree / 256) (tree % 256) (treeRecover k layer tree leaf m sig) (sig.drop 2400)

/-- Whether a signature of a message verifies under a public key (R47): 64 bytes, PK.seed and the root of the top layer. -/
def slhVerify (pk msg sig : List Byte) : Bool :=
  let k : SlhKey := ⟨[], [], pk.take 32⟩
  let digest := shake256 47 (sig.take 32 ++ pk ++ (0 :: 0 :: msg))
  let tree := beNat ((digest.drop 39).take 7)
  let leaf := beNat (digest.drop 46)
  let fors := forsRecover k tree leaf (slhDigits 14 22 (beNat (digest.take 39) / 2 ^ 4)) (sig.drop 32)
  decide (pk.length = 64) && decide (sig.length = 29792) && decide (layersRecover k 8 0 tree leaf fors (sig.drop 10592) = pk.drop 32)

end Sys2Proof.Machine
end

