-- ==== Sys2Proof/Machine/System.lean ====
section
/-! DEFINITION. The system instructions (R402, R403, R417-R423): majors 0x6C, 0x6D and 0x70-0x79. -/

namespace Sys2Proof.Machine

/-! LIVE and HOME. -/

/-- The LIVEMASK that LIVE writes (R402). -/
def liveWord (remote : Bool) (kmask : BitVec 7) (v : Word) : Word :=
  word (bit remote * 2 ^ 63 + kmask.toNat * 2 ^ 56 + field v 1 55 * 2)

/-- LIVE (R402). -/
def execLive (remote : Bool) (kmask : BitVec 7) (a : SReg) (s : State) : Out :=
  coreOp s (fun s =>
    (readS a s).andThen (fun v s => .go () (retire (s.upd (fun x => { x with livemask := liveWord remote kmask v })))))

/-- HOME (R403): nothing on the origin tile, where R192 forbids migration, or once the owner has refused. -/
def execHome (s : State) : Out :=
  coreOp s (fun s0 =>
    if s0.me.origin = s0.here.tile then .go () (retire s0) else remoteRef s0 s0.me.origin (.go () (retire s0)))

/-! System registers. -/

/-- Whether a system register is closed to a PURE run (R148): TICK, BUDGET, EOLHOURS, LAP. -/
def pureClosed (r : Nat) : Bool := [0x014, 0x020, 0x044, 0x043].contains r

/-- Whether a system register is a QPOS register. -/
def isQpos (r : Nat) : Bool := decide (0x030 ≤ r) && decide (r ≤ 0x037)

/-- MFS (R417): it issues once every earlier instruction has retired; QPOS in a guest slot raises ACCESS (R346). -/
def execMfs (d : SReg) (r : Nat) (s : State) : Out :=
  coreOp s (fun s =>
    needs (s.me.allRipe s.cycle) .unit <|
    match (if pureClosed r then purityForbids s s.me else none) with
    | some c => .trap c
    | none =>
      trapsIf (isQpos r && isGuest s.here.slot) accessNoAddr
      (roomS d s
      (let v := sysRead s s.here.tile s.here.slot s.me r
       done d v.1 1 4 v.2)))

/-- MTS (R417): it issues once every earlier instruction has retired. -/
def execMts (r : Nat) (a : SReg) (s : State) : Out :=
  coreOp s (fun s =>
    needs (s.me.allRipe s.cycle) .unit <|
    (readS a s).andThen (fun v s =>
      match sysWrite s s.here.tile s.here.slot s.me.pl r v with
      | .done s' => .go () (retire s')
      | .privilege => .trap (trapOf .privilege (insnWord (.mts r a)) (word r))
      | .access => .trap accessNoAddr))

/-! Traps and returns. -/

/-- TRAP (R418): its operand's flit is not returned. -/
def execTrap (a : SReg) (s : State) : Out :=
  coreOp s (fun s0 =>
    (readS a s0).andThen (fun v s => .go () (trapAfter (trapOf .software v 0) s0.myNative.rep.active (retire s))))

/-- BRK (R418): under BRKHALT it halts the tile. -/
def execBrk (imm : BitVec 15) (s : State) : Out :=
  coreOp s (fun s => .go () (trapAfter (trapOf .brk (word imm.toNat) 0) s.myNative.rep.active (retire s)))

/-- ERET (R419). -/
def execEret (s : State) : Out := coreOp s (fun s => privileged 1 .eret 0 s (returnFromTrap s))

/-! Waiting and ending. -/

/-- WFE (R420): completes where EV is 1, and clears it. -/
def execWfe (s : State) : Out :=
  coreOp s (fun s => needs s.me.ev .wfe (.go () (retire (s.upd (fun x => { x with ev := false })))))

/-- YIELD (R420): the thread is not ready in the following cycle if another thread of the tile is. -/
def execYield (s : State) : Out := coreOp s (fun s => .go () (retire (s.upd (fun x => { x with yielded := s.cycle + 1 }))))

/-- Whether every copy and stream that a thread started has completed (R421). -/
def enginesDone (s : State) (x : Thread) : Bool :=
  x.awaited.isEmpty
    && !(s.copies.any (fun c => decide (c.who.uid = x.uid)))
    && !(s.edges.any (fun e => decide (e.who.uid = x.uid)))
    && !(s.traffic.any (fun p => match p.body with
      | .copy c => decide (c.who.uid = x.uid)
      | .stream e => decide (e.who.uid = x.uid)
      | .remoteCopy _ w _ _ _ _ _ _ => decide (w.uid = x.uid)
      | _ => false))

/-- HALT (R421). -/
def execHalt (s : State) : Out :=
  coreOp s (fun s => afterStores s (needs (enginesDone s s.me) .engines (.go () (endMe s))))

/-! Translation and fetch maintenance. -/

/-- A TLB entry that TLBINV of an operand leaves (R422): bit 0 names every entry. -/
def tlbKept (v : Word) (e : Nat × Nat × Nat × Word) : Bool :=
  !flag v 0 && decide (e.2.1 ≠ v.toNat % 2 ^ 48 / 2 ^ levelShift e.1)

/-- The entries of the tiles in a scope invalidated (R422). -/
def tlbDrop (v : Word) (c : Scope) (s : State) : State :=
  { s with tiles := s.tiles.map (fun e => if c.contains s e.1 then (e.1, { e.2 with tlb := e.2.tlb.filter (tlbKept v) }) else e) }

/-- TLBINV (R422): every walk of the model is one step, so that none is under way. -/
def execTlbinv (a b : SReg) (s : State) : Out :=
  coreOp s (fun s0 =>
    privileged 1 (.tlbinv a b) 0 s0
    ((readS a s0).andThen (fun v s =>
      (readS b s).andThen (fun w s =>
        scopeOperand w s (fun c =>
          trapsIf (decide (c.pkg ≠ pkgId s)) (trapOf .access w 0)
          (needs (s0.settled s0.here.tile s0.me.uid) .drain (.go () (retire (tlbDrop v c s)))))))))

/-- The instruction-cache lines that ICINV of an operand invalidates (R423): bit 0 names the whole cache. -/
def icacheDrop (t : Nat) (v : Word) (s : State) : State :=
  s.updTile t (fun x => { x with
    icache := if flag v 0 then [] else sparseClear x.icache (v.toNat / 64 * 16) (v.toNat / 64 * 16 + 16) })

/-- ICINV (R423). -/
def execIcinv (a : SReg) (s : State) : Out :=
  coreOp s (fun s0 =>
    (readS a s0).andThen (fun v s =>
      needs (s0.settled s0.here.tile s0.me.uid) .drain (.go () (retire (icacheDrop s.here.tile v s)))))

end Sys2Proof.Machine
end

