-- ==== Sys2Proof/Machine/Boot.lean ====
section
/-! DEFINITION. Reset, self-test, the verification of a firmware image and its start (R15, R47, R48), and attestation (R49-R51). -/

namespace Sys2Proof.Machine

/-! Reset and self-test. -/

/-- RESET (R15): the machine right after reset; what manufacture fixed stays, and the model's own counters go on (log entry 26). -/
def execReset (s : State) : Out :=
  .next { State.reset with
    part := s.part, hbm := s.hbm, free := s.free, nextId := s.nextId, here := s.here, agenda := s.agenda,
    mpts := State.reset.mpts, fuses := s.fuses }

/-- A column put into a rising list of columns. -/
def columnInsert (c : Nat) : List Nat → List Nat
  | [] => [c]
  | x :: xs => if c < x then c :: x :: xs else if c = x then x :: xs else x :: columnInsert c xs

/-- A die's defective columns in rising order. -/
def columnSort (cs : List Nat) : List Nat := cs.foldr columnInsert []

/-- The columns that a die's fuses record (R15): two at most, of its 34. -/
def fusedColumns (s : State) (d : Nat) : List Nat := (columnSort ((nth [] s.fuses d).filter (fun c => decide (c < 34)))).take 2

/-- A die's defective columns: those of its fuses and those that self-test has found. -/
def defectColumns (s : State) (found : List (List Nat)) (d : Nat) : List Nat :=
  columnSort (fusedColumns s d ++ (nth [] found d).filter (fun c => decide (c < 34)))

/-- Whether a die fails boot (R15, R47): it has more than two defective columns. -/
def dieFails (s : State) (found : List (List Nat)) (d : Nat) : Bool := decide (2 < (defectColumns s found d).length)

/-- The spare map of self-test (R15, R47): the defective columns of each die of the part, rising; where a die fails no map is fixed, and
the fuses' columns stand (log entry 90). -/
def spareMap (s : State) (found : List (List Nat)) : List (List Nat) :=
  let bad := (List.range s.part.dies).any (dieFails s found)
  (List.range s.part.dies).map (if bad then fusedColumns s else defectColumns s found)

/-- SELF_TEST_DONE (R47, R15, R445, R46): `found` is what self-test finds defective on each die. The ports come up, the spare map is fixed
and the tick starts at 0. -/
def execSelfTestDone (found : List (List Nat)) (hbm : Bool) (s : State) : Out :=
  if s.ep.boot ≠ .selfTest then .next s
  else
    let bad := (List.range s.part.dies).any (dieFails s found)
    let s : State := { s with
      tick := 0, hbm := hbm, ep := { s.ep with portsUp := true, spares := spareMap s found, failcode := if bad then 1 else 0 } }
    .next (s.enterBoot (if bad then .failed else .awaiting))

/-! Verification. -/

/-- The bytes of the staging window that are not zero, by offset (R47). -/
def stagedImage (s : State) : Sparse Byte :=
  s.mem.filterMap (fun e =>
    let m := (e.1 - 0x800000000000) / 0x1000000
    let o := e.1 % 0x1000000
    if 0x800000000000 ≤ e.1 ∧ m < 32 ∧ o < 0x100000 then some (m * 0x100000 + o, e.2) else none)

/-- BOOTCTL.GO (R47): the staged image latched, or nothing. -/
def bootGo (s : State) : State :=
  let go : Bool := match s.ep.boot with
    | .awaiting => true
    | .failed => decide (s.ep.failcode ≠ 1)
    | _ => false
  if go then
    let s : State := { s with ep := { s.ep with image := stagedImage s, failcode := 0 } }
    s.enterBoot .verifying
  else s

/-- BOOTCTL_GO (R47). -/
def execBootctlGo (s : State) : Out := .next (bootGo s)

/-- Whether the signature of an image over its body verifies under the key that it carries, and that key's SHAKE256 digest is the fused one
(R47). -/
def signatureOk (i : Sparse Byte) : Bool :=
  decide (shake256 32 (Config.imageKey i) = Config.keyDigest) && slhVerify (Config.imageKey i) (Config.imageBody i) (Config.imageSignature i)

/-- The first check of Verifying that an image fails, by its FAILCODE; 0 where it passes (R47). -/
def imageFault (i : Sparse Byte) : Nat :=
  if 0x2000000 < Config.imageLength i then 5
  else if !Config.imageHeaderOk i then 2
  else if !signatureOk i then 3
  else if (Config.imageSvn i).toNat < Config.minimumSvn.toNat then 4
  else 0

/-- The bytes of an image. -/
def imageBytes (i : Sparse Byte) : List Byte := (List.range (Config.imageLength i)).map (fun k => sparseGet 0 i k)

/-- The firmware's thread on a service tile (R260): slot 0, at D, where the image says. -/
def firmwareThread (i : Sparse Byte) (t uid : Nat) : Thread :=
  { Thread.fresh with pc := Config.firmwareEntry i t, root := Config.firmwareRoot i t, status := 2, origin := t, uid := uid,
                      left := 0xFFF }

/-- The firmware started on a service tile. -/
def startFirmware (s : State) (t : Nat) : State :=
  let u := s.fresh
  (u.2.updTile t (fun x => { x with root := Config.firmwareRoot s.ep.image t })).setThread t 0 (some (firmwareThread s.ep.image t u.1))

/-- IMAGE_VERIFY_COMPLETE (R47). -/
def execImageVerifyComplete (s : State) : Out :=
  if s.ep.boot ≠ .verifying then .next s
  else
    let i := s.ep.image
    let c := imageFault i
    if c ≠ 0 then
      let s : State := { s with ep := { s.ep with failcode := c } }
      .next (s.enterBoot .failed)
    else
      let s : State := { s with
        ep := { s.ep with meas := shake256 32 (imageBytes i), svn := Config.imageSvn i, fwver := Config.imageFwver i } }
      .next (s.part.service.foldl startFirmware (s.enterBoot .starting))

/-- FIRMWARE_STARTED (R47): the firmware has set SAVE to 1 MiB in every CARVE register before it reports Running (R271). -/
def execFirmwareStarted (s : State) : Out :=
  if s.ep.boot ≠ .starting then .next s
  else
    let s := (List.range s.part.mpts).foldl (fun s m => carveStore s m (setField ((s.mpt m).carve) 12 4 1)) s
    .next (s.enterBoot .running)

/-! Attestation. -/

/-- ATTCTL as it reads (R50): GO, whose reading the manual does not give, reads as 0 (log entry 94). -/
def attctlWord (s : State) : Word := word (s.ep.repgen.toNat * 2 ^ 32 + bit s.ep.busy * 2)

/-- ATTCTL.GO (R50): the nonce latched, unless signing is under way. -/
def attGo (s : State) : State :=
  if s.ep.busy then s
  else { s with ep := { s.ep with busy := true, nonce := (List.range 32).map (fun i => sparseGet 0 s.ep.attnonce i) } }

/-- ATTCTL_GO (R50). -/
def execAttctlGo (s : State) : Out := .next (attGo s)

/-- Exactly `n` bytes of a list, zeroes after its end. -/
def exactly (n : Nat) (b : List Byte) : List Byte := (List.range n).map (fun i => nth 0 b i)

/-- A die's four bytes of the hardware configuration message (R51). -/
def dieConfig (p : Part) (spares : List Nat) : List Byte :=
  [BitVec.ofNat 8 spares.length, BitVec.ofNat 8 (nth 0xFF spares 0), BitVec.ofNat 8 (nth 0xFF spares 1), BitVec.ofNat 8 p.columns]

/-- The hardware configuration message (R51). -/
def configMessage (s : State) : List Byte :=
  [0x5A, 0x4E, 0x2D, 0x48, 0x57, 0x43, 0x46, 0x01]
    ++ (List.range 4).flatMap (fun d =>
      if d < s.part.dies then dieConfig s.part (nth [] s.ep.spares d) else List.replicate 4 0xFF)
    ++ leBytes 8 s.ep.pkgid.toNat

/-- The device identity key (R49): its seeds are the 96 bytes of SHAKE256 over the device secret and `ZN-ID`. -/
def identityKey : SlhKey :=
  let x := shake256 96 ((List.range 32).map Config.deviceSecret ++ [0x5A, 0x4E, 0x2D, 0x49, 0x44])
  ⟨x.take 32, (x.drop 32).take 32, x.drop 64⟩

/-- Bytes 0 to 255 of a report (R50). Only the nonce is latched at GO: the rest is read when signing ends (log entry 94). -/
def reportBody (s : State) : List Byte :=
  leBytes 8 1 ++ exactly 32 s.ep.nonce ++ exactly 32 s.ep.meas ++ exactly 32 Config.romDigest ++ leBytes 8 s.bootstat.toNat
    ++ shake256 32 (configMessage s) ++ leBytes 8 s.tick.toNat ++ List.replicate 104 0

/-- Bytes whose values the spec leaves open, eight for each free value. -/
def freeBytes : Nat → State → List Byte × State
  | 0, s => ([], s)
  | n + 1, s =>
    let w := s.freeWord
    let r := freeBytes n w.2
    (leBytes 8 w.1.toNat ++ r.1, r.2)

/-- ATTEST_COMPLETE (R50): the signature is over bytes 0 to 255; its randomiser is a free value (log entry 93). -/
def execAttestComplete (s : State) : Out :=
  if !s.ep.busy then .next s
  else
    let body := reportBody s
    let r := freeBytes 4 s
    let s : State := { r.2 with ep := { r.2.ep with
      report := body ++ slhPublic identityKey ++ slhSign identityKey r.1 body,
      repgen := s.ep.repgen + 1, busy := false } }
    .next (s.hostEvent 5 (leBytes 8 (attctlWord s).toNat) [])

end Sys2Proof.Machine
end

