-- ==== Sys2Proof/Machine/Control.lean ====
section
/-! DEFINITION. Branches and jumps (R312-R316). In a follower of a gang chain they take the leader's direction, and write the
value that the leader wrote (R170). -/

namespace Sys2Proof.Machine

/-- Whether a branch is taken (R312). -/
def branchTaken (c : BrCond) (x y : Word) : Bool :=
  match c with
  | .eq => decide (x = y)
  | .ne => decide (x ≠ y)
  | .lt => decide (signed x < signed y)
  | .ge => decide (signed y ≤ signed x)
  | .ltn => decide (x < y)
  | .gen => decide (y ≤ x)

/-- The target of a 12-bit word offset (R280, R312). -/
def target12 (pc : Word) (off : BitVec 12) : Word := pc + wordOfInt (4 * sextInt off.toNat 12)

/-- The target of a 20-bit word offset (R288, R313). -/
def target20 (pc : Word) (off : BitVec 20) : Word := pc + wordOfInt (4 * sextInt off.toNat 20)

/-- A transfer that is taken jumps, one that is not goes on in order (R316). -/
def branchTo (taken : Bool) (target v : Word) (s : State) : State := if taken then jump target v s else retireV v s

/-- A follower's transfer (R170): it is taken where the leader's was, and its PC follows the leader's. -/
def followLeader (g : GangOp) (s : State) : State := branchTo g.jumped g.next g.value s

/-- BR (R312): pops a, then b. -/
def execBr (c : BrCond) (a b : SReg) (off : BitVec 12) (s : State) : Out :=
  coreOp s (fun s =>
    (readS a s).andThen (fun x s =>
      (readS b s).andThen (fun y s =>
        match gangStep s with
        | some g => .go () (followLeader g s)
        | none => .go () (branchTo (branchTaken c x y) (target12 s.me.pc off) 0 s))))

/-- JAL (R313): the link is PC + 4 of the jump. -/
def execJal (d : SReg) (off : BitVec 20) (s : State) : Out :=
  coreOp s (fun s =>
    roomS d s
    (match gangStep s with
    | some g => .go () (jump g.next g.value (writeS d g.value 1 s))
    | none =>
      let pc := s.me.pc
      .go () (jump (target20 pc off) (pc + 4) (writeS d (pc + 4) 1 s))))

/-- JALR (R313): the target is computed before d is written. -/
def execJalr (d a : SReg) (imm : BitVec 15) (s : State) : Out :=
  coreOp s (fun s =>
    roomS d s
    ((readS a s).andThen (fun x s =>
      match gangStep s with
      | some g => .go () (jump g.next g.value (writeS d g.value 1 s))
      | none =>
        let pc := s.me.pc
        .go () (jump (x + sext imm.toNat 15) (pc + 4) (writeS d (pc + 4) 1 s)))))

/-- LOOP (R314): a is read, decremented and written, and the branch is taken while the count is nonzero. -/
def execLoop (a : SReg) (off : BitVec 12) (s : State) : Out :=
  coreOp s (fun s =>
    roomS a s
    ((readS a s).andThen (fun x s =>
      match gangStep s with
      | some g => .go () (followLeader g (writeS a g.value 1 s))
      | none =>
        let v := x - 1
        .go () (branchTo (decide (v ≠ 0)) (target12 s.me.pc off) v (writeS a v 1 s)))))

end Sys2Proof.Machine
end

