-- ==== Sys2Proof/Machine/Fetching.lean ====
section
/-! DEFINITION. What a thread's fetch and decode come to when they fail (R279, R298): the traps taken at the fetch. -/

namespace Sys2Proof.Machine

/-- The cause of a code (R263). -/
def causeOf : Nat → Cause
  | 0x03 => .misalign
  | 0x04 => .page
  | 0x05 => .access
  | 0x10 => .ecc
  | 0x11 => .link
  | _ => .illegal

/-- ILLEGAL_INSTRUCTION (R298): ILLEGAL at decode, with the word. -/
def execIllegalInstruction (w : Word) (s : State) : Out := coreOp s (fun _ => .trap (trapOf .illegal w 0))

/-- INSTRUCTION_FETCH_FAULT (R279, R183, R204): taken at the fetch; TRAPPC is the instruction's address. A poison that the fetch is the first
to find sends its machine check (R270). -/
def execInstructionFetchFault (f : FetchFault) (s : State) : Out :=
  coreOp s (fun _ => .trap { trapOf (causeOf f.cause) f.val f.val2 with mark := match f.bad with
    | some k => .word k
    | none => .none })

end Sys2Proof.Machine
end

