-- ==== Sys2Proof/Machine/Launch.lean ====
section
/-! DEFINITION. LAUNCH and its forms (R395, R396): admission (R61), kill (R80), signature (R107), and the requests of pre-emption and
resumption (R272, R137). -/

namespace Sys2Proof.Machine

/-- What the Scheduler Unit answers to a request: an outcome, or ACCESS for another tenant's block (R395). -/
inductive Reply where
  | code (n : Nat) (s : State)
  | access
  deriving DecidableEq, Repr

/-- A request about a block whose chain is well formed, of the issuer's tenant where that is asked for (R395): a block of another tenant
raises ACCESS, malformed or not. -/
def withChain (a : Word) (anyTenant : Bool) (s : State) (f : List (Nat × List Word) → State → Reply) : Reply :=
  match blockChain a.toNat s with
  | (none, s) => if !anyTenant && foreignChain s a then .access else .code 1 s
  | (some c, s) => if !anyTenant && otherTenant s (chainTenant c) then .access else f c s

/-- A form of LAUNCH (R395, R396): checked, then sent once the thread's earlier stores are performed or sealed; the reply's writes are
acquired. -/
def launchOp (least : Nat) (i : Instr) (d a : SReg) (f : Word → State → Reply) (s : State) : Out :=
  coreOp s (fun s0 =>
    privileged least i 0 s0
    (roomS d s0
    ((readS a s0).andThen (fun v s =>
      match purityForbids s s.me with
      | some c => .trap c
      | none =>
        if !blockAddr s v then .trap (trapOf .access v 0)
        else afterStores s0
          (match f v s with
          | .access => .trap (trapOf .access v 0)
          | .code n s => done d (word n) 1 4 (dropLines s.here.tile s))))))

/-! Admission. -/

/-- An insertion that still runs for a DONE node about to be admitted again: R145 gives it no end, and the model completes its copy first
(log entry 115). -/
def settleInsert (s : State) (a : Nat) : State :=
  match s.node a with
  | some n => (match n.look with
    | some l => if l.st = .insert then completeInsert s n l else s
    | none => s)
  | none => s

/-- Every node of a walk admitted (R61), as one event. -/
def admitAll (die root : Nat) (fs : List Found) (s : State) : State :=
  let s := fs.foldl (fun s f => settleInsert s f.addr) s
  let new := fs.map (fun f => newNode s die (pendingCount fs root f.addr) f)
  new.foldl State.admitNode { s with nextId := s.nextId + 1 }

/-- The admission of a root node at a die (R61). -/
def admitRoot (die root : Nat) (s : State) : Nat × State :=
  let k := walkNodes 4096 ⟨[], [root], [root], false⟩ s
  let code := admitCode k.2 die k.1
  (code, if code = 0 then admitAll die root k.1.found k.2 else k.2)

/-- LAUNCH (R395). -/
def execLaunch (d a : SReg) (s : State) : Out :=
  launchOp 0 (.launch d a) d a (fun v s =>
    withChain v false s (fun _ s =>
      let r := admitRoot (dieOfTile s.here.tile) v.toNat s
      .code r.1 r.2)) s

/-! Kill and signature. -/

/-- LAUNCH.KILL (R395, R80). -/
def execLaunchKill (d a : SReg) (s : State) : Out :=
  launchOp 0 (.launchKill d a) d a (fun v s =>
    withChain v false s (fun _ s =>
      if (killTargets s v.toNat).isEmpty then .code 2 s else .code 0 (s.kill v.toNat))) s

/-- NMEM of the GANG node of a region, 1 without one (R106). -/
def regionMembers (s : State) (blk : Nat) : Nat :=
  match s.nodes.find? (fun n => decide (n.region = blk) && decide (n.kind = 3)) with
  | some n => memberCount n.blk
  | none => 1

/-- The signature form once its stores are checked (R395). -/
def sigGo (s0 : State) (d : SReg) (a : Word) (gs : List (Word × Target)) (s : State) : Act Unit :=
  match withChain a false s (fun c s => .code (if c.length = 3 then 0 else 1) s) with
  | .access => .trap (trapOf .access a 0)
  | .code 0 s =>
    match s.region a.toNat with
    | some r =>
      if r.on then storeOutcome s0 d 0 gs (signature s r (regionMembers s r.blk)) (dropLines s.here.tile s)
      else done d 2 1 4 (dropLines s.here.tile s)
    | none => done d 2 1 4 (dropLines s.here.tile s)
  | .code n s => done d (word n) 1 4 (dropLines s.here.tile s)

/-- LAUNCH.SIG (R395). -/
def execLaunchSig (d a b : SReg) (s : State) : Out :=
  replyOp s (fun s0 =>
    roomS d s0
    ((readS a s0).andThen (fun v s =>
      (readS b s).andThen (fun y s =>
        if y.toNat % 8 ≠ 0 then .trap (trapOf .misalign y 0)
        else match purityForbids s s.me with
          | some c => .trap c
          | none =>
            if !blockAddr s v then .trap (trapOf .access v 0)
            else withStores y s (fun gs s => afterStores s0 (sigGo s0 d v gs s))))))

/-! Pre-emption requests. -/

/-- The 1 MiB units of the SAVE areas that hold neither a header nor a tile record (R272), as numbers of `unitOf`. -/
def freeUnits (s : State) : List Nat :=
  let heads := (usedHeaders s).map (fun h => unitOf h.1 (h.2 / 16))
  let recs := recordUnits s
  (List.range s.part.mpts).flatMap (fun m =>
    ((List.range (carveBytes (s.mpt m).carve 12 / 0x100000)).map (unitOf m)).filter (fun u => !heads.contains u && !recs.contains u))

/-- Whether a rolling successor and its predecessor share a node's region now (R71, R272). -/
def rollingShare (s : State) (n : NodeRec) : Bool :=
  s.nodes.any (fun m => decide (m.region = n.region) && decide (m.addr ≠ n.addr)
    && (decide (m.state = .running) || (blockRoll m.blk && m.begun && decide (m.state = .ready))
      || (blockRoll m.blk && n.succs.contains m.addr && !m.state.terminal)))

/-- Whether a request of pre-emption is refused (R272). -/
def preemptRefused (s : State) (n : NodeRec) : Bool :=
  match s.region n.region with
  | none => true
  | some r =>
    decide (n.state ≠ .running) || decide (n.kind = 3) || rollingShare s n || decide (n.stop ≠ .no)
      || r.tiles.any (fun t => (s.tile t).halted || (s.tile t).halting) || decide ((freeUnits s).length < r.w * r.h)

/-- A tap held for a pre-emption (R137): one in CAPTURE finishes its layer, and none opens another window. -/
def holdTap (s : State) (t : Nat) : State :=
  let x := s.tap t
  if x.state = .armed then s.setTap t { x with state := .hold, mid := false }
  else if x.state = .capture then s.setTap t { x with state := .hold, mid := true }
  else s

/-- A request of pre-emption accepted (R272, R137): deferred while a tap of the region is in CAPTURE. -/
def beginPreempt (s : State) (n : NodeRec) : State :=
  match s.region n.region with
  | none => s
  | some r =>
    (r.tiles.foldl holdTap s).updNode n.addr (fun x =>
      { x with stop := if r.tiles.any (fun t => decide ((s.tap t).state = .capture)) then .deferred else .saving s.cycle })

/-- The node that a form 3 or 4 request names: none where the block is no launch node, or is not admitted (R395). -/
def requestNode (c : List (Nat × List Word)) (a : Word) (s : State) (f : NodeRec → Reply) : Reply :=
  if c.length ≠ 4 then .code 1 s
  else match s.node a.toNat with
    | some n => f n
    | none => .code 2 s

/-- LAUNCH.PRE (R395, R272). -/
def execLaunchPre (d a : SReg) (s : State) : Out :=
  launchOp 2 (.launchPre d a) d a (fun v s =>
    withChain v true s (fun c s =>
      requestNode c v s (fun n => if preemptRefused s n then .code 2 s else .code 0 (beginPreempt s n)))) s

/-- LAUNCH.RES (R395, R274). -/
def execLaunchRes (d a : SReg) (s : State) : Out :=
  launchOp 2 (.launchRes d a) d a (fun v s =>
    withChain v true s (fun c s =>
      requestNode c v s (fun n =>
        if n.state = .preempted then .code 0 (s.updNode n.addr (fun x => { x with resuming := true })) else .code 2 s))) s

end Sys2Proof.Machine
end

