-- ==== Sys2Proof/Machine/Sched.lean ====
section
/-! DEFINITION. The Scheduler Unit's own events: passes over the dispatch order and reservations (R65), node starts (R71, R72, R399),
ageing (R66), signals (R63), predicates (R74), retirement (R64), and drains and their certificates (R82, R83). -/

namespace Sys2Proof.Machine

/-! Start checks (R60). -/

/-- A block's CAPCYC, CAPBYTE and CAPARCH from its words 2 and 3 (R55). -/
def capsOf (b : Nat) (w2 w3 : Word) : Nat × Nat × Nat × Nat := (b, field w2 32 32, field w2 0 32, field w3 0 20)

/-- The caps of a node's path (R53): its own as its admission read them, its ancestors' as memory holds them now. -/
def pathCaps (n : NodeRec) (s : State) : List (Nat × Nat × Nat × Nat) × State :=
  (n.path.drop 1).foldl (fun r b =>
    let w := readPa (b + 16) 2 r.2
    (r.1 ++ [capsOf b (nth 0 w.1 0) (nth 0 w.1 1)], w.2)) ([capsOf n.addr (nth 0 n.blk 2) (nth 0 n.blk 3)], s)

/-- Whether the used amounts of a path are below its caps (R60, R55). CAPARCH bounds insertions alone, where R153 compares it (log entry 77). -/
def capsHold (s : State) (cs : List (Nat × Nat × Nat × Nat)) : Bool :=
  cs.all (fun c =>
    (decide (c.2.1 = 0) || decide (sparseGet 0 s.used (c.1 + 32) < c.2.1 * 2 ^ 20))
      && (decide (c.2.2.1 = 0) || decide (sparseGet 0 s.used (c.1 + 40) < c.2.2.1 * 2 ^ 20)))

/-- The start check of a node (R60): whether it passes; the Archive's caps are kept as they were read. -/
def startCheck (s : State) (n : NodeRec) : Bool × State :=
  let c := pathCaps n s
  (capsHold c.2 c.1,
   c.2.updNode n.addr (fun x => { x with arch := (c.1.filter (fun e => decide (e.2.2.2 ≠ 0))).map (fun e => (e.1, e.2.2.2)) }))

/-! Gang messages (R75, R76). -/

/-- A gang's record in a node updated. -/
def State.updGang (s : State) (a : Nat) (f : Gang → Gang) : State := s.updNode a (fun n => { n with gang := n.gang.map f })

/-- The member table of a GANG node (R57): package and node of each member, the home first. -/
def memberTable (n : NodeRec) (s : State) : List (Nat × Nat) × State :=
  let r := readPa (field (nth 0 n.blk 18) 8 44 * 256) (memberCount n.blk) s
  (r.1.map (fun w => (field w 0 8, field w 8 44 * 256)), r.2)

/-- Whether a member table has a reserved bit set (R8, R57). -/
def memberTableBad (n : NodeRec) (s : State) : Bool :=
  (readPa (field (nth 0 n.blk 18) 8 44 * 256) (memberCount n.blk) s).1.any (fun w => decide (field w 52 12 ≠ 0))

/-- A GANG node's launch begun at its home (R75): the other members are sent prepare. A table that is malformed fails the node (R8). -/
def beginGang (s : State) (n : NodeRec) : State :=
  if memberTableBad n s then s.endAll n.addr .failed codeMalformed .fail
  else
    let m := memberTable n s
    let g : Gang := ⟨m.1, [], [], s.tick.toNat, none, true⟩
    gangTellAll n g (.prepare n.addr) (m.2.updNode n.addr (fun x => { x with gang := some g }))

/-- Whether every member of a gang is ready (R75). -/
def gangAllReady (g : Gang) : Bool := (List.range g.members.length).all (fun i => g.readyAt.any (fun r => decide (r.1 = i)))

/-- start(T) sent once every member is ready (R75). -/
def gangTryStart (a : Nat) (s : State) : State :=
  match s.node a with
  | some n => (match n.gang with
    | some g =>
      if g.home && g.start.isNone && gangAllReady g then
        let t := (g.readyAt.map (fun r => r.2)).foldl max 0 + 1000 * field (nth 0 n.blk 17) 16 16
        gangTellAll n g (.start (word t)) (s.updGang a (fun g => { g with start := some t }))
      else s
    | none => s)
  | none => s

/-- A gang node whose region is placed and whose image is loaded (R75): ready at its current TICK. -/
def gangLoaded (s : State) (n : NodeRec) : State :=
  match n.gang with
  | some g =>
    if !g.readyAt.isEmpty && !g.home then s
    else if g.home then
      if g.readyAt.any (fun r => decide (r.1 = 0)) then s
      else gangTryStart n.addr (s.updGang n.addr (fun g => { g with readyAt := g.readyAt ++ [(0, s.tick.toNat)] }))
    else gangSend n (g.members.headD (0, 0)) (.ready s.tick) (s.updGang n.addr (fun g => { g with readyAt := [(0, s.tick.toNat)] }))
  | none => s

/-! Passes (R65). -/

/-- Whether a node comes before another in dispatch order (R65). -/
def dispatchBefore (a b : NodeRec) : Bool :=
  if a.prio ≠ b.prio then decide (b.prio < a.prio)
  else if a.prioAt ≠ b.prioAt then decide (a.prioAt < b.prioAt)
  else decide (a.addr < b.addr)

/-- A node put into its place of the dispatch order. -/
def dispatchInsert (x : NodeRec) : List NodeRec → List NodeRec
  | [] => [x]
  | y :: ys => if dispatchBefore x y then x :: y :: ys else y :: dispatchInsert x ys

/-- The dispatch order of a die (R65). -/
def dispatchOrder (s : State) (die : Nat) : List NodeRec :=
  (s.nodes.filter (fun n => decide (n.state = .ready) && decide (nodeDie s n = die))).foldr dispatchInsert []

/-- Whether another node keeps a placed region from a node (R65, R71): one that runs, is saved, drains or is about to start; a rolling
successor goes with its running predecessor. -/
def regionBusy (s : State) (n : NodeRec) : Bool :=
  s.nodes.any (fun m => decide (m.region = n.region) && decide (m.addr ≠ n.addr)
    && (decide (m.state = .preempted) || decide (m.state = .draining) || (decide (m.state = .ready) && m.begun)
      || (decide (m.state = .running) && !(blockRoll n.blk && m.succs.contains n.addr && decide (m.stop = .no)))))

/-- Whether a rolling successor waits for its predecessor to run (R72): one that is drained to run again has yet to. -/
def rollHeld (s : State) (n : NodeRec) : Bool :=
  blockRoll n.blk && s.nodes.any (fun m => m.succs.contains n.addr && decide (m.aid = n.aid) && !m.state.terminal && decide (m.state ≠ .running))

/-- A node placed, or its region reserved (R65). -/
def tryPlace (die : Nat) (s : State) (n : NodeRec) : State :=
  if rollHeld s n then s
  else match s.region n.region with
  | some r => if !r.on || regionBusy s n then s else s.updNode n.addr (fun x => { x with begun := true })
  | none =>
    let os := legalOrigins s.part n.rblk
    let spot := os.find? (fun o => rectFree s n.addr o.1 o.2 (blockW n.rblk) (blockH n.rblk))
    match spot, freeHeader s with
    | some o, some h => (placeRegion s n o.1 o.2 h).updNode n.addr (fun x => { x with begun := true })
    | _, _ =>
      if s.reserve.any (fun q => decide (q.die = die)) then s
      else match os with
        | o :: _ => { s with reserve := s.reserve ++ [⟨die, n.addr, o.1, o.2, blockW n.rblk, blockH n.rblk⟩] }
        | [] => s

/-- A node of a pass that passes its start check (R62, R65, R74, R75, R145). A GANG home that was HELD sends its prepares here, in the first
pass whose start check it passes, and none before: the model's choice (log entry 111). -/
def passNode (die : Nat) (s : State) (n : NodeRec) : State :=
  match n.kind with
  | 2 => s
  | 4 => s.endAll n.addr .done codeOk .done
  | 1 =>
    if n.impure then tryPlace die s n
    else match n.look with
      | none => armLookup s n
      | some l => if l.st = .run then tryPlace die s n else s
  | 3 =>
    let s := if n.gang.isNone then beginGang s n else s
    if (s.node n.addr).isSome then tryPlace die s n else s
  | _ => tryPlace die s n

/-- A READY node considered in a pass (R60, R65): one that fails its start check enters HELD. -/
def considerNode (die : Nat) (s : State) (a : Nat) : State :=
  match s.node a with
  | none => s
  | some n =>
    let delivering : Bool := match n.look with
      | some l => decide (l.st = .deliver)
      | none => false
    if n.state ≠ .ready ∨ n.begun ∨ delivering then s
    else
      let c := startCheck s n
      if c.1 then passNode die c.2 n
      else ((c.2.endLookup a).setNState a .held)

/-- SCHEDULER_PASS (R65): the reservation is recomputed. -/
def execSchedulerPass (s : State) : Out :=
  let die := s.here.item
  let order := (dispatchOrder s die).map (fun n => n.addr)
  let s : State := { s with reserve := s.reserve.filter (fun q => decide (q.die ≠ die)) }
  .next (order.foldl (considerNode die) s)

/-! Starts (R399, R72). -/

/-- A node that starts now (R399): a malformed image fails it. -/
def startNode (s : State) (n : NodeRec) (r : RegionRec) : State :=
  match readImage (blockCode n.blk) r.w r.h s with
  | (none, s) =>
    if n.state = .running then s.stopDrain n.addr codeMalformed .failed else s.endAll n.addr .failed codeMalformed .fail
  | (some i, s) =>
    if n.state = .running then startTiles n r i n.todo s
    else if n.kind = 3 then gangLoaded s n
    else beginRun n r i s

/-- NODE_START (R399, R72): a placed node starts; a rolling successor starts on the tiles that its predecessor has retired. -/
def execNodeStart (s : State) : Out :=
  match s.node s.here.item with
  | none => .next s
  | some n =>
    match s.region n.region with
    | none => .next s
    | some r =>
      if r.on && decide (n.stop = .no) && !rollHeld s n && ((decide (n.state = .ready) && n.begun && r.tiles.any (tileReady s))
          || (decide (n.state = .running) && n.todo.any (tileReady s))) then .next (startNode s n r)
      else .next s

/-! Ageing (R66). -/

/-- A READY node's effective priority at an ageing step (R66). -/
def agedNode (cycle : Nat) (n : NodeRec) : NodeRec :=
  if n.state = .ready then
    let p := min 7 (n.base + (cycle - n.readyAt) / 65536)
    if n.prio < p then { n with prio := p, prioAt := cycle } else n
  else n

/-- AGEING_STEP (R66): at a multiple of 65,536 cycles. -/
def execAgeingStep (s : State) : Out :=
  if s.cycle % 65536 ≠ 0 then .next s
  else
    let die := s.here.item
    let s : State := { s with nodes := s.nodes.map (fun n => if nodeDie s n = die then agedNode s.cycle n else n) }
    let held := (s.nodes.filter (fun n => decide (n.state = .held) && decide (nodeDie s n = die))).map (fun n => n.addr)
    .next (held.foldl (fun s a => match s.node a with
      | some n =>
        let c := startCheck s n
        if c.1 then c.2.enterReady a else c.2
      | none => s) s)

/-! Signals (R63). -/

/-- A FAIL signal at a node (R62, R73). -/
def signalFail (s : State) (n : NodeRec) : State :=
  match n.state with
  | .waiting => s.endAll n.addr .failed codePredfail .fail
  | .ready => if blockRoll n.blk then (s.endLookup n.addr).endAll n.addr .failed codePredfail .fail else s
  | .held => if blockRoll n.blk then (s.endLookup n.addr).endAll n.addr .failed codePredfail .fail else s
  | .running => if blockRoll n.blk then s.stopDrain n.addr codePredfail .failed else s
  | .preempted => if blockRoll n.blk then s.stopDrain n.addr codePredfail .failed else s
  | _ => s

/-- A DONE or SKIP signal at a node (R62, R63). -/
def signalCount (s : State) (n : NodeRec) (isDone : Bool) : State :=
  let s := s.updNode n.addr (fun x => { x with pending := x.pending - 1, sawDone := x.sawDone || isDone })
  if n.state = .waiting ∧ n.pending ≤ 1 then
    (if n.sawDone || isDone then s.enterReady n.addr else s.endAll n.addr .skipped codeOk .skip)
  else s

/-- NODE_SIGNAL (R63): the oldest signal to a node; one of another admission finds nothing. -/
def execNodeSignal (s : State) : Out :=
  match s.signals.find? (fun g => decide (g.succ = s.here.item)) with
  | none => .next s
  | some g =>
    let s : State := { s with signals := s.signals.erase g }
    match s.node g.succ with
    | some n =>
      if n.aid ≠ g.aid ∨ n.state.terminal then .next s
      else match g.sig with
        | .done => .next (signalCount s n true)
        | .skip => .next (signalCount s n false)
        | .fail => .next (signalFail s n)
    | none => .next s

/-! Predicates (R74). -/

/-- Whether a COND node's comparison holds (R57). -/
def condHolds (n : NodeRec) (v : Word) : Bool :=
  let p := nth 0 n.blk 15
  match field (nth 0 n.blk 16) 0 3 with
  | 0 => decide (v = p)
  | 1 => decide (v ≠ p)
  | 2 => decide (v.toNat < p.toNat)
  | 3 => decide (p.toNat ≤ v.toNat)
  | _ => decide (v &&& p ≠ 0)

/-- The signals of a COND node (R57, R63): DONE for each taken field, SKIP for each untaken one. -/
def condSignals (n : NodeRec) (holds : Bool) : List (Nat × Sig) :=
  ((blockSuccs n.blk).zipIdx.filter (fun e => decide (e.1 ≠ 0))).map (fun e => (e.1, if decide (e.2 < 2) = holds then .done else .skip))

/-- The predicate word of a COND node (R74): a free value where nothing is at its address, none where it is poisoned. -/
def predicateWord (n : NodeRec) (s : State) : Option Word × State :=
  let pa := field (nth 0 n.blk 14) 3 49 * 8
  let s := s.foldPa pa
  if (paKey s pa).isNone then
    let f := s.freeWord
    (some f.1, f.2)
  else if s.paPoisoned pa then (none, s)
  else (some (s.paWord pa), s)

/-- COND_EVALUATE (R74, R62). -/
def execCondEvaluate (s : State) : Out :=
  match s.node s.here.item with
  | none => .next s
  | some n =>
    if n.state ≠ .ready ∨ n.kind ≠ 2 then .next s
    else
      let c := startCheck s n
      if !c.1 then .next (c.2.setNState n.addr .held)
      else
        let p := predicateWord n c.2
        match p.1 with
        | none => .next (p.2.endAll n.addr .failed codePoison .fail)
        | some v => .next (p.2.endNode n.addr .done codeOk (condSignals n (condHolds n v)))

/-! Retirement (R64). -/

/-- TILE_RETIRE (R64, R62). -/
def execTileRetire (s : State) : Out :=
  let t := s.here.tile
  match (s.tile t).node with
  | none => .next s
  | some a =>
    match s.node a with
    | none => .next s
    | some n =>
      if n.state ≠ .running ∨ n.stop.saves ∨ (s.tile t).retired ∨ !tileDone s t then .next s
      else
        let s := retireTile s t n
        match s.region n.region with
        | some r => if nodeRetired s n r then .next (nodeDone s n) else .next s
        | none => .next s

/-! Drains (R82, R83). -/

/-- Whether an MPT awaits another package's acknowledgement of a write of a tag (R82). -/
def drainWaits (s : State) (m rid gen : Nat) : Bool :=
  s.traffic.any (fun p => decide (p.src = .mpt m) && match p.body with
    | .remoteCopy _ w _ _ _ _ _ _ => decide (w.rid = rid) && decide (w.gen = gen)
    | _ => false)

/-- The write of a tag that a packet brings to an MPT (R82): who issued it, where, and the operation. -/
def Packet.taggedWrite (p : Packet) (m rid gen : Nat) : Option (Who × Nat × Nat × MemOp) :=
  match p.body with
  | .access w tok _ a op => if p.dst = .mpt m ∧ w.rid = rid ∧ w.gen = gen ∧ op.writes then some (w, tok, a, op) else none
  | _ => none

/-- What becomes of writes at a drain (R82): how many are performed, and how many are discarded. -/
structure Drained where
  done : Nat
  gone : Nat
  deriving DecidableEq, Repr

/-- What becomes of an accepted write at a drain (R82): an ordered atomic that is performed or waits for its turn counts until it is dropped, one
that is answered STALE or refused writes nothing, a RED without a free slot is discarded, and one in a slot counts where the slot goes. -/
def drainFate (x : Who × Nat × Nat × MemOp) (s : State) : Drained :=
  match x.2.2.2 with
  | .amoord _ n _ _ =>
    let d := (n - cellNext (arrivalFold s x.2.2.1) x.2.2.1).toNat
    ⟨bit (decide (d = 0) || (decide (d ≤ 65535) && decide ((s.mpt (homeMpt s x.2.2.1)).ord.length < 63))), 0⟩
  | .red o _ _ det => if det && decide (o = .fadd) then (if redBlocked s x.1 x.2.2.1 x.2.2.2 then ⟨0, 1⟩ else ⟨0, 0⟩) else ⟨1, 0⟩
  | _ => ⟨1, 0⟩

/-- A write that an MPT has accepted performed at a drain (R82): an ordered atomic in turn, a RED where a slot is free. -/
def drainWrite (x : Who × Nat × Nat × MemOp) (r : Drained × State) : Drained × State :=
  let s := r.2.chargeNode (nodeOfWho r.2 x.1) x.2.2.2.moved
  let f := drainFate x s
  (⟨r.1.done + f.done, r.1.gone + f.gone⟩,
   match x.2.2.2 with
   | .amoord op n y det =>
     if (paKey s x.2.2.1).isSome || isConfig s x.2.2.1 then ordArrive s ⟨x.1, x.2.1, x.2.2.1, op, n, y, det⟩ else s
   | op => if redBlocked s x.1 x.2.2.1 op then s else ordAfter (s.performPa x.1 x.2.2.1 op).2 x.2.2.1 op)

/-- The pool words that a RID allocated at an MPT with their allocation bits cleared (R378). -/
def Mpt.freePool (x : Mpt) (rid : Nat) : Mpt :=
  (x.pool.filter (fun e => e.2.alloc && decide (e.2.rid = rid))).foldl
    (fun x e => poolSet x e.1 { e.2 with alloc := false, rid := 0 }) x

/-- The sealed slots of a RID at an MPT folded (R82, R104). -/
def foldRid (m rid : Nat) (s : State) : State :=
  ((s.mpt m).reds.filter (fun r => r.isSealed && decide (r.rid = rid))).foldl (fun s r => match paKey s r.addr with
    | some k => s.foldOf rid r.addr k
    | none => s) s

/-- The writes of a tag that an MPT has accepted, in the order in which it accepted them. -/
def acceptedWrites (s : State) (m rid gen : Nat) : List (Who × Nat × Nat × MemOp) := s.arrived.filterMap (fun p => p.taggedWrite m rid gen)

/-- Whether a slot is discarded at a drain (R82): an unsealed one, and one whose word is poisoned. -/
def slotLost (s : State) (r : RedSlot) : Bool := !r.isSealed || s.paPoisoned (r.addr / 8 * 8)

/-- A drain performed at an MPT (R82, R378): the state, and the counts of writes performed and discarded. A RED in a slot counts where its slot
goes (log entry 70); earlier ordered atomics of the RID that wait for their turn are dropped and discarded. -/
def drainMpt (m rid gen : Nat) (s : State) : State × Nat × Nat :=
  let ws := acceptedWrites s m rid gen
  let mine (s : State) : Nat := ((s.mpt m).ord.filter (fun q => decide (q.who.rid = rid))).length
  let held := mine s
  let s : State := { s with arrived := s.arrived.filter (fun p => (p.taggedWrite m rid gen).isNone) }
  let d := ws.foldl (fun r x => drainWrite x r) (⟨0, 0⟩, s)
  let slots := (d.2.mpt m).reds.filter (fun r => decide (r.rid = rid))
  let lost := (slots.filter (slotLost d.2)).length
  let drop := mine d.2
  let s := (foldRid m rid d.2).updMpt m (fun x => { x.freePool rid with
    reds := x.reds.filter (fun r => decide (r.rid ≠ rid)), ord := x.ord.filter (fun q => decide (q.who.rid ≠ rid)),
    live := sparseSet none x.live rid (some ((gen + 1) % 65536)) })
  (s, d.1.done + held - drop + (slots.length - lost), d.1.gone + drop + lost)

/-- MPT_DRAIN (R82). -/
def execMptDrain (s : State) : Out :=
  onPacket s (fun p s =>
    match p.body, p.dst with
    | .drain rid gen, .mpt m =>
      if drainWaits s m rid gen then none
      else
        let r := drainMpt m rid gen s
        some (r.1.send .rsp (.mpt m) p.src (.certificate m rid gen r.2.1 r.2.2))
    | _, _ => none)

/-- The nodes that drain with a region. -/
def drainingNodes (s : State) (blk : Nat) : List NodeRec := s.nodes.filter (fun n => decide (n.region = blk) && decide (n.state = .draining))

/-- A drained node's end (R62, R83, R77): KILLED or FAILED, or READY once more under RERUN. -/
def endDrained (s : State) (a : Nat) : State :=
  match s.node a with
  | none => s
  | some n =>
    let s := s.updNode a (fun x => { x with stop := .no, todo := [], begun := false })
    match n.stop with
    | .drain _ _ .ready =>
      (s.updNode a (fun x => { x with code := codeOk, tileX := 0xFF, tileY := 0xFF, detail := 0 })).enterReady a
    | _ => if n.code = codeKilled then s.endAll a .killed codeKilled .fail else s.endAll a .failed n.code .fail

/-- The end of a drain (R83): the rectangle is released, every node that drained becomes terminal, and one that was about to start there
waits for a place again (R72). -/
def finishDrain (s : State) (blk : Nat) : State :=
  let s := s.releaseRegion blk
  let s : State := { s with nodes := s.nodes.map (fun n => if n.region = blk ∧ n.state = .ready then { n with begun := false } else n) }
  ((drainingNodes s blk).map (fun n => n.addr)).foldl endDrained s

/-- DRAIN_CERTIFICATE (R83). -/
def execDrainCertificate (s : State) : Out :=
  onPacket s (fun p s =>
    match p.body with
    | .certificate m rid gen _ _ =>
      match s.regions.find? (fun r => decide (r.rid = rid) && decide (r.gen = gen)) with
      | none => some s
      | some r =>
        match s.nodes.find? (fun n => decide (n.region = r.blk) && match n.stop with
            | .drain _ _ _ => true
            | _ => false) with
        | none => some s
        | some n =>
          match n.stop with
          | .drain certs since final =>
            let left := keyErase certs m
            let s := s.updNode n.addr (fun x => { x with stop := .drain left since final })
            some (if left.isEmpty then finishDrain s r.blk else s)
          | _ => some s
    | _ => none)

/-- A rectangle that stays out of placement until reset (R83): its record names no block any more. -/
def State.strand (s : State) (blk : Nat) : State := s.updRegion blk (fun r => { r with blk := 2 ^ 64 + r.rid, on := false, dead := true })

/-- DRAIN_TIMEOUT (R83): 2^20 cycles after the drain. A node that drained for a fault keeps the tile and DETAIL that the fault gave, the model's
choice (log entry 87). -/
def execDrainTimeout (s : State) : Out :=
  match s.node s.here.item with
  | none => .next s
  | some n =>
    match n.stop with
    | .drain certs since _ =>
      if certs.isEmpty ∨ s.cycle < since + 2 ^ 20 then .next s
      else
        let lost := certs.headD 0
        let ns := (drainingNodes s n.region).map (fun m => m.addr)
        let s := s.strand n.region
        let s := ns.foldl (fun s a => (s.updNode a (fun x => { x with stop := .no })).endAll a .failed codeDraintime .fail) s
        .next (s.machineCheckAll 11 lost 0)
    | _ => .next s

end Sys2Proof.Machine
end

