-- ==== Sys2Proof/Machine/Preempt.lean ====
section
/-! DEFINITION. Pre-emption and resumption of a region (R137, R138, R271-R275). -/

namespace Sys2Proof.Machine

/-! Stopping (R272, steps 1 to 4). -/

/-- PREEMPT_PROCEED (R137): once no tap of the region takes a layer from the ring. -/
def execPreemptProceed (s : State) : Out :=
  match s.node s.here.item with
  | none => .next s
  | some n =>
    match s.region n.region with
    | none => .next s
    | some r =>
      if n.stop = .deferred ∧ !(r.tiles.any (fun t => (s.tap t).taking)) then
        .next ((r.tiles.foldl holdTap s).updNode n.addr (fun x => { x with stop := .saving s.cycle }))
      else .next s

/-- Whether an agent belongs to a region's placement, for its packets. -/
def bodyOf (r : RegionRec) (b : Body) : Bool :=
  match b with
  | .access w _ _ _ _ => ofRegion r w
  | .reply w _ _ _ => ofRegion r w
  | .refusal w _ _ => ofRegion r w
  | .sealed w => ofRegion r w
  | .migrate w => ofRegion r w
  | .grant w _ _ => ofRegion r w
  | .refuse w => ofRegion r w
  | .moved _ rid gen => decide (rid = r.rid) && decide (gen = r.gen)
  | .copy c => ofRegion r c.who
  | .stream e => ofRegion r e.who
  | .remoteCopy _ w _ _ _ _ _ _ => ofRegion r w
  | .stolen k _ => decide (k.rid = r.rid) && decide (k.gen = r.gen)
  | .stolenBack k => decide (k.rid = r.rid) && decide (k.gen = r.gen)
  | _ => false

/-- Whether a task in flight is still to land on a tile of a region (R272, step 4): one that is refused is not in flight. -/
def taskLands (s : State) (r : RegionRec) (p : Packet) : Bool :=
  match p.body, p.dst with
  | .task _, .tile t => r.has t && !refused s p
  | _, _ => false

/-- Whether a packet carries a request, reply or refusal of a thread's instruction. -/
def carries (x : Thread) (tok : Nat) (p : Packet) : Bool :=
  match p.body with
  | .access w k _ _ _ => decide (w.uid = x.uid) && decide (k = tok)
  | .reply w k _ _ => decide (w.uid = x.uid) && decide (k = tok)
  | .refusal w k _ => decide (w.uid = x.uid) && decide (k = tok)
  | _ => false

/-- Whether a thread has an access that is on its way, or one that is performed and not yet retired (R272, step 1): a load's, an atomic's,
a remote access's or an ordered atomic's. One that waits at its bank or unit is not on its way. -/
def awaitsReply (s : State) (x : Thread) : Bool :=
  !x.loads.isEmpty || match x.pend with
    | some p => decide (p.left = 0) || !p.todo.isEmpty || decide (x.wait = .global) || decide (x.wait = .remote) || s.traffic.any (carries x p.tok)
    | none => false

/-- Whether everything of a region that is in flight has landed (R272, steps 1, 3 and 4). -/
def regionLanded (s : State) (r : RegionRec) : Bool :=
  !(s.traffic.any (fun p => bodyOf r p.body || taskLands s r p)) && !(s.copies.any (fun c => ofRegion r c.who))
    && s.edges.all (fun e => !ofRegion r e.who || (e.bound && e.flits.isEmpty && e.got.isEmpty && !(s.traffic.any (fun p => p.engineOwn e.id))))
    && !(s.unacked.any (fun u => match u.who with
      | some w => ofRegion r w
      | none => false))
    && r.tiles.all (fun t => (liveThreads s t).all (fun e => !awaitsReply s e.2))

/-- A thread at its instruction boundary (R272, step 1): a wait for a full word, an arrival word or an ordered atomic's turn is given up,
a migration in WAIT is withdrawn. -/
def stopThread (t : Nat) (s : State) (k : Nat) : State :=
  match s.thread t k with
  | none => s
  | some x =>
    let s := withdraw t k s
    let s : State := { s with mpts := s.mpts.map (fun m => (m.1, { m.2 with ord := m.2.ord.filter (fun q => decide (q.who.uid ≠ x.uid)) })),
                              tiles := s.tiles.map (fun e => (e.1, { e.2 with inbound := e.2.inbound.filter (fun q => decide (q.1.uid ≠ x.uid)) })) }
    (s.setAhead t k none).updThread t k (fun y => if y.barPhase.isSome then y else { y with wait := .none, phase := 0, pend := none, dig := none })

/-! Saving (R273). -/

/-- The words of one key range among some, at their places in another. -/
def movedWords (src dst n : Nat) (ws : List Nat) : List Nat :=
  (ws.filter (fun w => decide (src / 8 ≤ w) && decide (w < (src + n) / 8))).map (fun w => w - src / 8 + dst / 8)

/-- Bytes of one key range moved to another. Reading them finds their errors (R33), and the words go on poisoned (R35). -/
def moveRange (src dst n : Nat) (s : State) : State :=
  let s := s.detect src n
  let bytes := s.mem.filter (fun e => decide (src ≤ e.1) && decide (e.1 < src + n))
  let bad := movedWords src dst n s.poison
  let s := s.blank dst (dst + n)
  { s with mem := bytes.foldl (fun m e => sparseSet blankByte m (e.1 - src + dst) e.2) s.mem,
           poison := bad.foldl keyInsert s.poison }

/-- The byte of F/E bits at an offset of their area (R273). -/
def fullByte (s : State) (t i : Nat) : Byte :=
  let x := s.tile t
  let b := i / 1024
  if roleOf x b = 1 ∨ roleOf x b = 2 then 0
  else BitVec.ofNat 8 ((List.range 8).map (fun j => if s.isFull t (8 * (8 * i + j)) then 2 ^ j else 0)).sum

/-- The F/E bits of a tile written into its record (R273): 12 KiB. -/
def saveFull (t k : Nat) (s : State) : State :=
  s.putBytes k ((List.range 12288).map (fullByte s t))

/-- The storage key of a 1 MiB unit (R272). -/
def unitKey (u : Nat) : Nat := areaKey .save (u / 16) (u % 16 * 0x100000)

/-- The bytes of a tile record (R273): banks, F/E bits and switch memory; the areas whose inner layout the spec does not give take free
values. -/
def saveBytes (t u : Nat) (s : State) : State :=
  let k := unitKey u
  let s := moveRange (sramKey t 0) k 0xC0000 s
  let s := saveFull t (k + 0xC0000) s
  let s := (List.range 2048).foldl (fun s i => s.putNat (k + 0xC3000 + 8 * i) 8 (sparseGet 0 (s.tile t).sw.mem i).toNat) s
  let s := putFree (k + 0xC7000) ((0xE5000 - 0xC7000) / 8) s
  s.blank (k + 0xE5000) (k + 0x100000)

/-- The position of the first released byte that has not been read (R138): the laps left in its window, the folio's index and the offset
in it; `n` bytes are unread, and the newest folio comes first. -/
def unreadAt : List (Nat × Nat × Nat) → Nat → Option (Nat × Nat × Nat)
  | [], _ => none
  | f :: fs, n =>
    if n = 0 then none
    else if n ≤ f.2.2 then some (f.1, f.2.1, f.2.2 - n)
    else unreadAt fs (n - f.2.2)

/-- A tap as a save records it (R138): the bytes it has released and q has not read are discarded, and the place is that of the first byte
q has not read, or the fault point where it has read them all. -/
def savedTap (x : Tap) : Tap :=
  let late := (x.waiting.map (fun e => e.2.2.2.length)).sum
  let x' : Tap := { x with bytes := [], waiting := [], folio := [], mid := false, rel := [], skip := x.skip - late }
  match unreadAt (x.rel ++ x.waiting.map (fun e => (e.2.1, e.2.2.1, e.2.2.2.length))).reverse (x.bytes.length + (late - x.skip)) with
  | some u => { x' with laps := u.1, resume := some u.2 }
  | none => x'

/-- A thread as a save records it, at its instruction boundary. -/
def savedThreads (s : State) (t : Nat) : List (Nat × Thread) := liveThreads s t

/-- The tile record of a tile (R273): `i` is its place in the rectangle, `u` its 1 MiB unit. `started` holds the cycles it has been
charged for so far (R60). -/
def tileRecord (s : State) (t i u : Nat) : SavedTile :=
  let x := s.tile t
  { offset := i, unit := u,
    tile := { x with
      sw := { x.sw with mem := [] }, tlb := [], icache := [], lines := [], started := s.cycle - x.started,
      tasks := x.tasks.map (fun k => k.aged s.cycle) },
    threads := savedThreads s t, natives := (List.range 4).map (fun k => (k, s.native t k)), tap := savedTap (s.tap t) }

/-- A region's paused streams written into its header (R271): records whose layout the spec does not give (log entry 1). -/
def savePaused (r : RegionRec) (s : State) : State :=
  let es := s.edges.filter (fun e => ofRegion r e.who)
  let s := putFree (areaKey .save r.header.1 (r.header.2 * 0x10000 + 0x8000)) (8 * min 512 es.length) s
  { s.updRegion r.blk (fun x => { x with streams := es }) with edges := s.edges.filter (fun e => !ofRegion r e.who) }

/-- A region saved and its rectangle released (R272, step 5; R137). -/
def saveRegion (s : State) (n : NodeRec) (r : RegionRec) : State :=
  let s := r.tiles.foldl (fun s t => (List.range 6).foldl (stopThread t) s) s
  let s := savePaused r s
  let pairs := r.tiles.zip (freeUnits s)
  let recs := pairs.zipIdx.map (fun e => tileRecord s e.1.1 e.2 e.1.2)
  let s := pairs.foldl (fun s e => saveBytes e.1 e.2 s) s
  let s := (s.updRegion r.blk (fun x => { x with saved := recs, on := false }))
  let s := r.tiles.foldl State.releaseTile s
  (s.updNode n.addr (fun x => { x with stop := .no })).setNState n.addr .preempted

/-- PREEMPT_SAVE (R272), once no tap of the region takes a layer (R137). -/
def execPreemptSave (s : State) : Out :=
  match s.node s.here.item with
  | none => .next s
  | some n =>
    match s.region n.region with
    | none => .next s
    | some r =>
      let ready : Bool := match n.stop with
        | .saving c => decide (c < s.cycle)
        | _ => false
      if n.state = .running ∧ ready ∧ regionLanded s r ∧ !(r.tiles.any (fun t => (s.tap t).taking)) ∧ r.w * r.h ≤ (freeUnits s).length then
        .next (saveRegion (serveSure (fun _ => true) s) n r)
      else .next s

/-! Resumption (R274, R138). -/

/-- The F/E bits of a tile restored from its record. -/
def restoreFull (t k : Nat) (s : State) : State :=
  (List.range 12288).foldl (fun s i =>
    let b := s.byteAt (k + i)
    (List.range 8).foldl (fun s j => if b.getLsbD j then s.setFull t (8 * (8 * i + j)) true else s) s) s

/-- A tap as it resumes (R138): ARMED again from now on, with a new arm notice. -/
def restoreTap (t : Nat) (x : Tap) (s : State) : State :=
  if x.state = .idle then s.setTap t x
  else
    let s := s.setTap t { x with state := .armed, armed := s.ring.step + 1, seen := seenNow s t, beatAt := [], starts := [],
                                 counted := true, slow := false, reason := 0, failed := 0, missedLap := none, missed := 0, checkSgen := x.opened || x.checkSgen, opened := false }
    s.armNotice t x.layer false

/-- A tile restored from its record (R274). -/
def restoreTile (r : RegionRec) (s : State) (x : SavedTile) : State :=
  let t := tileAt (r.x0 + x.offset % r.w) (r.y0 + x.offset / r.w)
  let k := unitKey x.unit
  let old := s.tile t
  let s := s.blankSram t 0 0xC0000
  let s := moveRange k (sramKey t 0) 0xC0000 s
  let s := restoreFull t (k + 0xC0000) s
  let mem := (List.range 2048).foldl (fun m i => sparseSet 0 m i (word (s.getNat (k + 0xC3000 + 8 * i) 8))) []
  let s := s.setTile t { x.tile with
    sw := { x.tile.sw with mem := mem, since := s.cycle }, started := s.cycle - x.tile.started, tasks := x.tile.tasks.map (fun k => k.aged s.cycle),
    idleFrom := s.cycle, probed := none,
    halting := old.halting, halted := old.halted, brkhalt := old.brkhalt, dbgsel := old.dbgsel, dbgreg := old.dbgreg, dbgdata := old.dbgdata }
  let s := x.threads.foldl (fun s e => s.setThread t e.1 (some { e.2 with since := s.cycle })) s
  let s := x.natives.foldl (fun s e => s.setNative t e.1 e.2) s
  restoreTap t x.tap s

/-- RESUME_PLACE (R274): at its own origin, once that is free; the refill period counts from now. -/
def execResumePlace (s : State) : Out :=
  match s.node s.here.item with
  | none => .next s
  | some n =>
    match s.region n.region with
    | none => .next s
    | some r =>
      if n.state = .preempted ∧ n.resuming ∧ !r.on ∧ rectFree s n.addr r.x0 r.y0 r.w r.h then
        let s := r.saved.foldl (restoreTile r) s
        let s : State := { s with edges := s.edges ++ r.streams }
        let s := s.updRegion r.blk (fun x => { x with on := true, saved := [], streams := [], base := s.cycle, quietFrom := some s.cycle })
        .next ((s.updNode n.addr (fun x => { x with resuming := false })).setNState n.addr .running)
      else .next s

end Sys2Proof.Machine
end

