-- ==== Sys2Proof/Machine/GangLaunch.lean ====
section
/-! DEFINITION. Gang launches: prepare, ready, start, abort, and the reports of members (R75, R76). -/

namespace Sys2Proof.Machine

/-- A gang message that has arrived for a node of a die: its sender's package, the node, the message, and the state without it. -/
def onGang (s : State) (f : Nat → Nat → GangMsg → Nat → State → Option State) : Out :=
  onPacket s (fun p s =>
    match p.body, p.dst with
    | .gangMsg pkg node m, .su d => f pkg node m d s
    | _, _ => none)

/-- Whether a launch node's block is one that a member admits (R75): a GANG block with every SUCC field zero. -/
def memberBlock (f : Found) : Bool := decide (blockKind f.blk = 3) && (blockSuccs f.blk).all (fun a => decide (a = 0))

/-- A member's node admitted as a root without a walk (R75): the outcome of R61, and the state. -/
def admitMember (die node : Nat) (s : State) : Nat × State :=
  match judgeNode node s with
  | (none, s) => (1, s)
  | (some f, s) =>
    if !memberBlock f then (1, s)
    else
      let code := admitCode s die ⟨[f], [], [node], false⟩
      (code, if code = 0 then admitAll die node [f] s else s)

/-- GANG_PREPARE (R75): admitted, to be placed and loaded, or refused. -/
def execGangPrepare (s : State) : Out :=
  onGang s (fun pkg node m d s =>
    match m with
    | .prepare home =>
      let r := admitMember d node s
      if r.1 = 0 then
        some (r.2.updNode node (fun n => { n with gang := some ⟨[(pkg, home)], [], [], s.tick.toNat, none, false⟩ }))
      else some (r.2.send .req (.su d) .outside (.gangMsg pkg home (.fail codeGangfail)))
    | _ => none)

/-- The place of a package in a gang's member table (R57). -/
def memberIndex (g : Gang) (pkg : Nat) : Option Nat :=
  (g.members.zipIdx.find? (fun e => decide (e.1.1 = pkg) && decide (e.2 ≠ 0))).map (fun e => e.2)

/-- The gang of a live node. -/
def gangOf (s : State) (node : Nat) : Option (NodeRec × Gang) :=
  match s.node node with
  | some n => if n.state.terminal then none else n.gang.map (fun g => (n, g))
  | none => none

/-- GANG_READY (R75). -/
def execGangReady (s : State) : Out :=
  onGang s (fun pkg node m _ s =>
    match m with
    | .ready tick =>
      (match gangOf s node with
      | some (n, g) =>
        (match g.home, memberIndex g pkg with
        | true, some i =>
          if g.readyAt.any (fun r => decide (r.1 = i)) then some s
          else some (gangTryStart n.addr (s.updGang n.addr (fun g => { g with readyAt := g.readyAt ++ [(i, tick.toNat)] })))
        | _, _ => some s)
      | none => some s)
    | _ => none)

/-- GANG_START_RECEIVE (R75, R76): LATE where TICK already exceeds T. -/
def execGangStartReceive (s : State) : Out :=
  onGang s (fun _ node m _ s =>
    match m with
    | .start t =>
      (match gangOf s node with
      | some (n, _) =>
        let s := s.updGang n.addr (fun g => { g with start := some t.toNat })
        some (s.updNode n.addr (fun n => { n with late := decide (t.toNat < s.tick.toNat) }))
      | none => some s)
    | _ => none)

/-- GANG_MEMBER_START (R75): in the first cycle whose TICK is at least T. A node that runs again under RERUN starts under its old start tick,
without a new prepare: the model's choice (log entry 111). -/
def execGangMemberStart (s : State) : Out :=
  match gangOf s s.here.item with
  | none => .next s
  | some (n, g) =>
    match g.start, s.region n.region with
    | some t, some r =>
      if n.state = .ready ∧ n.begun ∧ t ≤ s.tick.toNat then
        match readImage (blockCode n.blk) r.w r.h s with
        | (some i, s) => .next (beginRun n r i s)
        | (none, s) => .next (s.endAll n.addr .failed codeMalformed .fail)
      else .next s
    | _, _ => .next s

/-- A node that drained to run again and whose gang fails meanwhile (R76): it ends FAILED with GANGFAIL, naming no tile. -/
def NodeRec.gangfailDraining (n : NodeRec) (pkg : Nat) : NodeRec :=
  { n with code := codeGangfail, tileX := 0xFF, tileY := 0xFF, detail := pkg, stop := match n.stop with
      | .drain certs since _ => .drain certs since .failed
      | x => x }

/-- A gang node failed with GANGFAIL, naming a package (R76, R58): one that runs or is PREEMPTED drains first (R83); one that drains already ends
as it does, but it does not run again. -/
def gangFail (a pkg : Nat) (s : State) : State :=
  match s.node a with
  | none => s
  | some n =>
    let t := s.updNode a (fun n => { n with detail := pkg })
    if n.state = .running ∨ n.state = .preempted then t.stopDrain a codeGangfail .failed
    else if n.state = .draining then
      (if n.stop.reruns then (gangKill n s).updNode a (fun n => n.gangfailDraining pkg) else s)
    else t.endAll a .failed codeGangfail .fail

/-- A gang aborted by its home (R76): every member is told, and the home fails too. -/
def gangAbort (n : NodeRec) (g : Gang) (pkg : Nat) (s : State) : State :=
  gangFail n.addr pkg ((gangTellAll n g (.abort pkg) s).updNode n.addr (fun n => { n with gang := none }))

/-- The first member in table order that is not ready. -/
def firstSilent (g : Gang) : Nat :=
  ((List.range g.members.length).find? (fun i => !(g.readyAt.any (fun r => decide (r.1 = i))))).getD 0

/-- GANG_WAIT_TIMEOUT (R76): GWAIT microseconds after the prepare. -/
def execGangWaitTimeout (s : State) : Out :=
  match gangOf s s.here.item with
  | none => .next s
  | some (n, g) =>
    if g.home ∧ g.start.isNone ∧ g.began + 1000 * field (nth 0 n.blk 17) 0 16 ≤ s.tick.toNat then
      .next (gangAbort n g (nth (0, 0) g.members (firstSilent g)).1 s)
    else .next s

/-- GANG_ABORT (R76). -/
def execGangAbort (s : State) : Out :=
  onGang s (fun _ node m _ s =>
    match m with
    | .abort pkg =>
      (match gangOf s node with
      | some (n, _) => some (gangFail node pkg (s.updNode n.addr (fun n => { n with gang := none })))
      | none => some s)
    | _ => none)

/-- GANG_MEMBER_DONE (R76): the home reaches DONE once its own tiles have retired too. -/
def execGangMemberDone (s : State) : Out :=
  onGang s (fun pkg node m _ s =>
    match m with
    | .done =>
      (match gangOf s node with
      | some (n, g) =>
        (match g.home, memberIndex g pkg with
        | true, some i =>
          let s := s.updGang n.addr (fun g => { g with done := keyInsert g.done i })
          (match s.node n.addr, s.region n.region with
          | some n, some r => if n.state = .running ∧ nodeRetired s n r then some (nodeDone s n) else some s
          | _, _ => some s)
        | _, _ => some s)
      | none => some s)
    | _ => none)

/-- GANG_MEMBER_FAIL (R76): before the start a refusal, which aborts the gang; after it, every other member is killed. A
refusal ends the start at once and names its package, even while an earlier member of the table is silent: the model's choice, R76 gives no
order (log entry 111). -/
def execGangMemberFail (s : State) : Out :=
  onGang s (fun pkg node m _ s =>
    match m with
    | .fail _ =>
      (match gangOf s node with
      | some (n, g) =>
        if !g.home then some s
        else if g.start.isNone then some (gangAbort n g pkg s)
        else some (gangFail n.addr pkg s)
      | none => some s)
    | _ => none)

end Sys2Proof.Machine
end

