-- ==== Sys2Proof/Machine/Gcm.lean ====
section
/-! DEFINITION. MACsec's GCM-AES-XPN-256 (R36), as IEEE 802.1AE names it: AES-256 of FIPS 197 in the Galois/counter mode of NIST SP 800-38D,
with the packet number and the channel's SSCI mixed into the salt (log entry 118). -/

namespace Sys2Proof.Machine

/-- The bytes of two lists added bit by bit, as far as both go. -/
def xorBytes (a b : List Byte) : List Byte := List.zipWith (fun x y => x ^^^ y) a b

/-! AES-256. -/

/-- The S-box: 32 entries in each number, the first in its lowest byte. -/
def sboxRows : List Nat := [
  0xC072A49CAFA2D4ADF04759FA7DC982CA76ABD7FE2B670130C56F6BF27B777C63,
  0x75B227EBE28012079A059618C323C7041531D871F1E5A534CCF73F362693FDB7,
  0xCF584C4A39BECB6A5BB1FC20ED00D153842FE329B3D63B52A05A6E1B1A2C8309,
  0xD2F3FF1021DAB6BCF5389D928F40A351A89F3C507F02F94585334D43FBAAEFD0,
  0xDB0B5EDE14B8EE4688902A22DC4F816073195D643D7EA7C41744975FEC130CCD,
  0x08AE7A65EAF4566CA94ED58D6D37C8E779E4959162ACD3C25C2406490A3A32E0,
  0x9E1DC186B95735610EF6034866B53E708A8BBD4B1F74DDE8C6B4A61C2E2578BA,
  0x16BB54B00F2D99416842E6BF0D89A18CDF2855CEE9871E9B948ED9691198F8E1]

/-- A byte's substitute. -/
def subByte (b : Byte) : Byte := BitVec.ofNat 8 (nth 0 sboxRows (b.toNat / 32) >>> (8 * (b.toNat % 32)))

/-- A byte multiplied by x in the field of AES. -/
def xtime (b : Byte) : Byte := (b <<< (1 : Nat)) ^^^ (if b.getLsbD 7 then 0x1B else 0)

/-- A word of the key schedule from the one before it, that of eight words before, and its number. -/
def keyStep (i : Nat) (last back : List Byte) : List Byte :=
  let w :=
    if i % 8 = 0 then xorBytes ((last.drop 1 ++ last.take 1).map subByte) [BitVec.ofNat 8 (2 ^ (i / 8 - 1)), 0, 0, 0]
    else if i % 8 = 4 then last.map subByte
    else last
  xorBytes back w

/-- The key schedule's words, the newest first: `n` more after the first eight. -/
def keyWords (key : List Byte) : Nat → List (List Byte)
  | 0 => (chunks 4 8 key).reverse
  | n + 1 =>
    let ws := keyWords key n
    keyStep (n + 8) (nth [] ws 0) (nth [] ws 7) :: ws

/-- The fifteen round keys of AES-256. -/
def roundKeys (key : List Byte) : List (List Byte) := chunks 16 15 (keyWords key 52).reverse.flatten

/-- The rows of a block shifted: byte `i` is in row `i % 4`. -/
def shiftRows (b : List Byte) : List Byte := (List.range 16).map (fun i => nth 0 b ((i + 4 * (i % 4)) % 16))

/-- One column mixed. -/
def mixColumn (c : List Byte) : List Byte :=
  (List.range 4).map (fun i =>
    let a (j : Nat) : Byte := nth 0 c ((i + j) % 4)
    xtime (a 0) ^^^ (xtime (a 1) ^^^ a 1) ^^^ a 2 ^^^ a 3)

/-- A round before the last. -/
def aesRound (b k : List Byte) : List Byte := xorBytes ((chunks 4 4 (shiftRows (b.map subByte))).flatMap mixColumn) k

/-- A block under round keys. -/
def aesBlock (ks : List (List Byte)) (b : List Byte) : List Byte :=
  let b := ((ks.drop 1).take 13).foldl aesRound (xorBytes b (nth [] ks 0))
  xorBytes (shiftRows (b.map subByte)) (nth [] ks 14)

/-! Galois/counter mode. -/

/-- A product in the field of GHASH: bit 127 of a number is the block's first bit. -/
def ghashMul (x y : Nat) : Nat :=
  ((List.range 128).foldl (fun (r : Nat × Nat) i =>
    (if x.testBit (127 - i) then Nat.xor r.1 r.2 else r.1, if r.2 % 2 = 1 then Nat.xor (r.2 / 2) (0xE1 * 2 ^ 120) else r.2 / 2)) (0, y)).1

/-- Bytes cut into blocks of 16, the last padded with zeroes. -/
def gcmBlocks (b : List Byte) : List (List Byte) := (List.range ((b.length + 15) / 16)).map (fun i => takePad 0 16 (b.drop (16 * i)))

/-- GHASH of authenticated and secret bytes. -/
def ghash (h : Nat) (a c : List Byte) : Nat :=
  (gcmBlocks a ++ gcmBlocks c ++ [beBytes 8 (8 * a.length) ++ beBytes 8 (8 * c.length)]).foldl
    (fun y b => ghashMul (Nat.xor y (beNat b)) h) 0

/-- Bytes encrypted or decrypted: block `i` of the counter's stream is that of counter `i + 2`. -/
def gcmStream (ks : List (List Byte)) (iv b : List Byte) : List Byte :=
  (List.range ((b.length + 15) / 16)).flatMap (fun i => xorBytes ((b.drop (16 * i)).take 16) (aesBlock ks (iv ++ beBytes 4 (i + 2))))

/-- The tag of authenticated bytes and ciphertext, under an IV of 12 bytes. -/
def gcmTag (ks : List (List Byte)) (iv a c : List Byte) : List Byte :=
  xorBytes (aesBlock ks (iv ++ beBytes 4 1)) (beBytes 16 (ghash (beNat (aesBlock ks (List.replicate 16 0))) a c))

/-! MACsec. -/

/-- The IV of a packet number under XPN: the salt with the SSCI and the number's 64 bits. -/
def xpnIv (k : SecKey) (ssci : BitVec 32) (pn : Nat) : List Byte :=
  xorBytes (beBytes 12 k.salt.toNat) (beBytes 4 ssci.toNat ++ beBytes 8 pn)

/-- A SecTAG (R36): its TCI and AN, its short length, the packet number's low 32 bits, and the SCI where it is explicit. -/
structure SecTag where
  tci : Byte
  sl : Byte
  pn : BitVec 32
  sci : List Byte
  deriving DecidableEq, Repr

/-- The octets of a SecTAG, with its EtherType. -/
def SecTag.bytes (t : SecTag) : List Byte := [0x88, 0xE5, t.tci, t.sl] ++ beBytes 4 t.pn.toNat ++ t.sci

/-- The SecTAG at the head of a frame's octets after its addresses, and what follows it. -/
def readSecTag (b : List Byte) : Option (SecTag × List Byte) :=
  if beNat (b.take 2) ≠ 0x88E5 ∨ b.length < 8 then none
  else
    let tci := nth 0 b 2
    let n := if tci.getLsbD 5 then 8 else 0
    some (⟨tci, nth 0 b 3, BitVec.ofNat 32 (beNat ((b.drop 4).take 4)), (b.drop 8).take n⟩, b.drop (8 + n))

/-- The 64 bits of a packet number of which a SecTAG carries the low 32, where the next one expected is `next`. -/
def fullPn (next : Nat) (pn : BitVec 32) : Nat :=
  next / 2 ^ 32 * 2 ^ 32 + pn.toNat + (if pn.toNat + 2 ^ 31 ≤ next % 2 ^ 32 then 2 ^ 32 else 0)

/-- The secure data of a protected frame and its ICV: a short length tells the padding from them. -/
def secParts (t : SecTag) (b : List Byte) : List Byte × List Byte :=
  let n := if t.sl.toNat % 64 = 0 then b.length - 16 else t.sl.toNat % 64
  (b.take n, (b.drop n).take 16)

/-- A protected frame opened under a key: what it carries, and whether its ICV is right. Without encryption it is authenticated alone. -/
def openSecure (k : SecKey) (pn : Nat) (macs : List Byte) (t : SecTag) (data icv : List Byte) : List Byte × Bool :=
  let ks := roundKeys (beBytes 32 k.key.toNat)
  let iv := xpnIv k k.rxSsci pn
  let head := macs ++ t.bytes
  let good (a c : List Byte) : Bool := decide (gcmTag ks iv a c = icv) && decide (t.tci.toNat % 4 = k.an.toNat) && !t.tci.getLsbD 7
  if t.tci.getLsbD 3 then (gcmStream ks iv data, good head data) else (data, good (head ++ data) [])

/-- A frame's octets after its addresses protected under a key with a packet number: encrypted, with an explicit SCI. -/
def sealSecure (k : SecKey) (pn : Nat) (macs sci data : List Byte) : List Byte :=
  let ks := roundKeys (beBytes 32 k.key.toNat)
  let iv := xpnIv k k.txSsci pn
  let t : SecTag := ⟨BitVec.ofNat 8 (0x2C + k.an.toNat), BitVec.ofNat 8 (if data.length < 48 then data.length else 0), BitVec.ofNat 32 pn, sci⟩
  let c := gcmStream ks iv data
  t.bytes ++ c ++ gcmTag ks iv (macs ++ t.bytes) c

end Sys2Proof.Machine
end

