-- ==== Sys2Proof/Machine/Frames.lean ====
section
/-! DEFINITION. Frames at the host ports (R36-R38): FCS, MACsec, VLAN tags, IPv6, UDP and the header of the host protocol, as they come in
and as they leave. -/

namespace Sys2Proof.Machine

/-- A counter of dropped frames counted up, saturating (R44). -/
def dropUp (m : Sparse Nat) (port : Nat) : Sparse Nat := sparseSet 0 m port (min 0xFFFFFFFF (sparseGet 0 m port + 1))

/-! The FCS (R36). -/

/-- Eight bits of the division of CRC-32, the lowest first. -/
def fcsShift : Nat → Nat → Nat
  | 0, c => c
  | n + 1, c => fcsShift n (if c % 2 = 1 then Nat.xor (c / 2) 0xEDB88320 else c / 2)

/-- The four octets of the FCS of a frame's octets. -/
def fcsOf (b : List Byte) : List Byte :=
  leBytes 4 (Nat.xor (b.foldl (fun c x => fcsShift 8 (Nat.xor c x.toNat)) 0xFFFFFFFF) 0xFFFFFFFF)

/-- The octets of a frame without its FCS. -/
def frameBody (f : Frame) : List Byte := f.octets.take (f.octets.length - 4)

/-- Whether a frame's FCS is right (R37). -/
def fcsOk (f : Frame) : Bool := decide (18 ≤ f.octets.length) && decide (fcsOf (frameBody f) = f.octets.drop (f.octets.length - 4))

/-! MACsec (R36, R37). -/

/-- The two addresses at the head of a frame. -/
def frameMacs (f : Frame) : List Byte := (frameBody f).take 12

/-- What a protected frame carries and whether its ICV is right, under its port's key: none without a SecTAG, or without a key. -/
def openedFrame (s : State) (f : Frame) : Option (List Byte × Bool) :=
  match readSecTag ((frameBody f).drop 12), portChan s f.port with
  | some (t, b), some c =>
    let p := secParts t b
    some (openSecure c.key (fullPn c.rxPn t.pn) (frameMacs f) t p.1 p.2)
  | _, _ => none

/-- Whether a frame has MACsec protection with a right ICV (R37). -/
def secureFrame (s : State) (f : Frame) : Bool :=
  match openedFrame s f with
  | some r => r.2
  | none => false

/-- The octets of a frame after its addresses, without MACsec. -/
def frameData (s : State) (f : Frame) : List Byte :=
  match openedFrame s f with
  | some r => r.1
  | none => (frameBody f).drop 12

/-- The next packet number expected of a port after a protected frame that it takes (R36). -/
def countHeard (f : Frame) (s : State) : State :=
  match readSecTag ((frameBody f).drop 12), portChan s f.port with
  | some (t, _), some c =>
    { s with ep := { s.ep with chans := sparseSet none s.ep.chans f.port (some { c with rxPn := max c.rxPn (fullPn c.rxPn t.pn + 1) }) } }
  | _, _ => s

/-- The host writes the MACsec key of a port, or takes it away (R36): packet numbers begin at 1 under a new one. -/
def writeSecKey (p : Nat) (k : Option SecKey) (s : State) : State :=
  if p < 2 then { s with ep := { s.ep with chans := sparseSet none s.ep.chans p (k.map (fun k => ⟨k, 1, 1⟩)) } } else s

/-! What a frame carries (R36). -/

/-- The VIDs of the 802.1Q tags at the head of octets, 0 in a priority tag, at most `n`, and what follows them. -/
def readTags : Nat → List Byte → List (BitVec 12) × List Byte
  | 0, b => ([], b)
  | n + 1, b =>
    if beNat (b.take 2) = 0x8100 ∧ 4 ≤ b.length then
      let r := readTags n (b.drop 4)
      (BitVec.ofNat 12 (beNat ((b.drop 2).take 2)) :: r.1, r.2)
    else ([], b)

/-- What follows a chain of IPv6 headers: whether it has a fragment header, whether it has another one than hop-by-hop, and the octets of
UDP, if that ends it. At most `n` headers are read. -/
def readHeaders : Nat → Nat → List Byte → Bool × Bool × Option (List Byte)
  | 0, _, _ => (false, true, none)
  | n + 1, h, b =>
    let len := 8 * ((nth 0 b 1).toNat + 1)
    if h = 17 then (false, false, some b)
    else if h = 0 then readHeaders n (nth 0 b 0).toNat (b.drop len)
    else if h = 44 then (true, false, none)
    else if h = 43 ∨ h = 60 ∨ h = 135 ∨ h = 139 ∨ h = 140 then
      let r := readHeaders n (nth 0 b 0).toNat (b.drop len)
      (r.1, true, r.2.2)
    else if h = 51 then
      let r := readHeaders n (nth 0 b 0).toNat (b.drop (4 * ((nth 0 b 1).toNat + 2)))
      (r.1, true, r.2.2)
    else (false, decide (h = 50), none)

/-- What a frame carries: the VIDs of its tags, whether it is IPv6, from and to which address, with a fragment header or another extension
header than hop-by-hop, its UDP ports, source and destination, and the datagram. -/
structure Carried where
  tags : List (BitVec 12)
  ipv6 : Bool
  src : BitVec 128
  dst : BitVec 128
  fragment : Bool
  extension : Bool
  udp : Option (BitVec 16 × BitVec 16)
  datagram : List Byte
  deriving DecidableEq, Repr

/-- The UDP ports and the datagram of octets of UDP: LENGTH tells the datagram from what pads the frame. -/
def readUdp (b : List Byte) : Option ((BitVec 16 × BitVec 16) × List Byte) :=
  let n := beNat ((b.drop 4).take 2)
  if b.length < 8 ∨ n < 8 ∨ b.length < n then none
  else some ((BitVec.ofNat 16 (beNat (b.take 2)), BitVec.ofNat 16 (beNat ((b.drop 2).take 2))), (b.drop 8).take (n - 8))

/-- Octets after the addresses, read. -/
def frameCarried (b : List Byte) : Carried :=
  let t := readTags 4 b
  let p := t.2.drop 2
  if beNat (t.2.take 2) = 0x86DD ∧ 40 ≤ p.length ∧ (nth 0 p 0).toNat / 16 = 6 then
    let r := readHeaders 8 (nth 0 p 6).toNat ((p.drop 40).take (beNat ((p.drop 4).take 2)))
    let u := r.2.2.bind readUdp
    ⟨t.1, true, BitVec.ofNat 128 (beNat ((p.drop 8).take 16)), BitVec.ofNat 128 (beNat ((p.drop 24).take 16)), r.1, r.2.1,
     u.map (fun u => u.1), (u.map (fun u => u.2)).getD []⟩
  else ⟨t.1, false, 0, 0, false, false, none, []⟩

/-! Ports (R37). -/

/-- The link-local address of a port: the modified EUI-64 of its MAC address (R37). -/
def linkLocal (p : Nat) : BitVec 128 :=
  let m := (Config.portMac p).toNat
  BitVec.ofNat 128 (0xFE80 * 2 ^ 112 + Nat.xor (m / 2 ^ 24) (2 ^ 17) * 2 ^ 40 + 0xFFFE * 2 ^ 24 + m % 2 ^ 24)

/-- Whether an address is one of a port's (R37, R45). -/
def portAddress (s : State) (p : Nat) (a : BitVec 128) : Bool :=
  decide (a = linkLocal p)
    || (List.range 4).any (fun i => flag s.ep.epctl (8 + 4 * p + i) && decide (a = ipv6At s.ep.ipv6a (16 * (4 * p + i))))

/-! The host protocol's header (R38). -/

/-- Bytes of a datagram as a number (R5). -/
def bytesNat (b : List Byte) (o n : Nat) : Nat := leNat ((b.drop o).take n)

/-- The header and payload of a datagram that came by a port (R38): none where MAGIC, VER, KIND or reserved bits are wrong, or LENGTH is. -/
def parseDatagram (port : Nat) (f : Carried) : Option HostMsg :=
  let b := f.datagram
  let c := bytesNat b 3 1
  let k := c % 8
  if b.length < 32 ∨ bytesNat b 0 2 ≠ 0x5A4E ∨ bytesNat b 2 1 ≠ 1 ∨ 32 ≤ c ∨ bytesNat b 14 2 ≠ 0 ∨ k = 0 ∨ 4 < k
      ∨ bytesNat b 6 2 ≠ b.length - 32 then none
  else some
    { port := port, peer := (f.src, f.udp.elim 0 (fun u => u.1)), resp := decide (c / 8 % 2 = 1), kind := k,
      sync := decide (c / 16 = 1), session := BitVec.ofNat 16 (bytesNat b 4 2), seq := BitVec.ofNat 32 (bytesNat b 8 4),
      addr := word (bytesNat b 16 8), aux := word (bytesNat b 24 8), payload := b.drop 32 }

/-! What a port makes of a frame. -/

/-- What a port makes of a frame: dropped and counted, not for it, or a message. -/
inductive Heard where
  | dropped (why : FrameFault)
  | ignored
  | message (m : HostMsg)
  deriving DecidableEq, Repr

/-- Whether a frame of a length uses what a port does not support (R36): it goes no further, and nothing counts it (log entry 92). -/
def unsupported (s : State) (length : Nat) (c : Carried) : Bool :=
  decide (9216 < length) || decide (1 < c.tags.length) || !c.ipv6 || c.extension
    || match c.udp with
      | some u => decide (u.2.toNat ≠ field s.ep.hport 0 16)
      | none => true

/-- What a frame carries judged (R37, R38, R45): the first of its faults, in the order VLAN, address, fragment, header (log entry 92). A tag
of VID 0 is a priority tag. -/
def heardOf (s : State) (port length : Nat) (c : Carried) : Heard :=
  if c.tags.any (fun v => decide (v.toNat ≠ 0) && decide (v.toNat ≠ portVid s port)) then .dropped .vlan
  else if c.ipv6 && !portAddress s port c.dst then .dropped .address
  else if c.ipv6 && c.fragment then .dropped .fragment
  else if unsupported s length c then .ignored
  else (parseDatagram port c).elim (.dropped .header) .message

/-- A frame judged (R37, R38, R45): FCS and MACsec come before what it carries (log entry 92). -/
def heard (s : State) (f : Frame) : Heard :=
  if !portOpen s f.port then .ignored
  else if !fcsOk f then .dropped .fcs
  else if flag s.ep.epctl 3 && !secureFrame s f then .dropped .macsec
  else heardOf s f.port f.octets.length (frameCarried (frameData s f))

/-- A dropped frame counted (R37): nothing else changes. -/
def dropFrame (port : Nat) (why : FrameFault) (s : State) : State :=
  match why with
  | .fcs => { s with ep := { s.ep with dropfcs := dropUp s.ep.dropfcs port } }
  | .macsec => { s with ep := { s.ep with dropsec := dropUp s.ep.dropsec port } }
  | .vlan | .address | .fragment | .header => { s with ep := { s.ep with drophdr := dropUp s.ep.drophdr port } }

/-- A frame received: what its message does, if it carries one. -/
def takeFrame (f : Frame) (act : HostMsg → State → State) (s : State) : State :=
  match heard s f with
  | .dropped why => dropFrame f.port why s
  | .ignored => s
  | .message m => act m (countHeard f s)

/-! Frames that leave (R36, R38). -/

/-- The bytes of a message that the device sends (R38). -/
def Sent.bytes (r : Sent) : List Byte :=
  leBytes 2 0x5A4E ++ leBytes 1 1 ++ leBytes 1 (bit (!r.event) * 8 + r.kind % 8) ++ leBytes 2 r.session ++ leBytes 2 r.payload.length
    ++ leBytes 4 r.seq ++ leBytes 2 r.status ++ leBytes 2 0 ++ leBytes 8 r.addr.toNat ++ leBytes 8 r.aux.toNat ++ r.payload

/-- The one's-complement sum of octets taken in pairs. -/
def onesSum (b : List Byte) : Nat :=
  let n := ((chunks 2 b.length b).map (fun p => 256 * (nth 0 p 0).toNat + (nth 0 p 1).toNat)).sum
  let m := n / 65536 + n % 65536
  m / 65536 + m % 65536

/-- The octets of a datagram in UDP over IPv6, from an address and a UDP port of the device with a hop limit; what R36 does not give of them
is the caller's (log entry 118). -/
def udpOctets (src dst : BitVec 128) (sport dport : BitVec 16) (hops : Byte) (b : List Byte) : List Byte :=
  let len := beBytes 2 (8 + b.length)
  let ports := beBytes 2 sport.toNat ++ beBytes 2 dport.toNat
  let ends := beBytes 16 src.toNat ++ beBytes 16 dst.toNat
  let c := 65535 - onesSum (ends ++ [0, 0] ++ len ++ [0, 0, 0, 17] ++ ports ++ len ++ b)
  [0x60, 0, 0, 0] ++ len ++ [17, hops] ++ ends ++ ports ++ len ++ beBytes 2 (if c = 0 then 65535 else c) ++ b

/-- The octets of a frame that leaves with an IPv6 packet for a neighbour's address (R36): its tag where the port has a VLAN, MACsec where
it has a key, and the FCS. -/
def frameOctets (v : Via) (neighbour : BitVec 48) (packet : List Byte) : List Byte :=
  let mac := beBytes 6 (Config.portMac v.port).toNat
  let macs := beBytes 6 neighbour.toNat ++ mac
  let data := (if v.vid = 0 then [] else [0x81, 0x00] ++ beBytes 2 v.vid) ++ [0x86, 0xDD] ++ packet
  let rest := match v.sec with
    | some c => sealSecure c.key c.pn macs (mac ++ [0, 1]) data
    | none => data
  macs ++ rest ++ fcsOf (macs ++ rest)

/-- The octets of a frame with a message that the device has sent (R36, R38). -/
def Sent.octets (r : Sent) (neighbour : BitVec 48) (src : BitVec 128) (sport : BitVec 16) (hops : Byte) : List Byte :=
  frameOctets r.via neighbour (udpOctets src r.dest.1 sport r.dest.2 hops r.bytes)

end Sys2Proof.Machine
end

