-- ==== Sys2Proof/Machine/Power.lean ====
section
/-! DEFINITION. Time synchronisation (R46), power and heat (R29, R30), and wear (R31, R32). -/

namespace Sys2Proof.Machine

/-! The tick. -/

/-- PTPEN (R45). -/
def ptpEnabled (s : State) : Bool := flag s.ep.epctl 2

/-- What the best master clock algorithm compares of a data set, in its order (R46). -/
def masterRanks (g : Grandmaster) : List Nat :=
  [g.priority1.toNat, g.clockClass.toNat, g.accuracy.toNat, g.variance.toNat, g.priority2.toNat, g.identity.toNat]

/-- Whether the first difference of two lists is in favour of the first. -/
def ranksBefore : List Nat → List Nat → Bool
  | a :: as, b :: bs => if a = b then ranksBefore as bs else decide (a < b)
  | _, _ => false

/-- Whether a grandmaster is better than another (R46): one is never better than itself. -/
def betterMaster (a b : Grandmaster) : Bool := decide (a.identity ≠ b.identity) && ranksBefore (masterRanks a) (masterRanks b)

/-- The grandmaster of a port that is locked, and carries frames (R45, R46). -/
def ptpMaster (s : State) (p : Nat) : Option Grandmaster := if portOpen s p then sparseGet none s.ptp.locked p else none

/-- The port that disciplines the tick (R46): the better grandmaster, port 0 where they are equal. -/
def ptpPort (s : State) : Option Nat :=
  match ptpMaster s 0, ptpMaster s 1 with
  | some a, some b => if betterMaster b a then some 1 else some 0
  | some _, none => some 0
  | none, some _ => some 1
  | none, none => none

/-- The signed difference of two tick values. -/
def tickDiff (a b : Word) : Int := signed (a - b)

/-- A rate that the discipline may give the tick (R46): 100 ppm at most. -/
def rateWithin (x : Int) : Int := if x < -100000 then -100000 else if 100000 < x then 100000 else x

/-- The tick brought to a reference time (R46): stepped forward where `first` holds, otherwise slewed. How the discipline finds the rate
at which it then runs is not given, so that rate is a free value (log entry 89). -/
def discipline (first : Bool) (time : Word) (s : State) : State :=
  let r := s.freeWord
  let s : State := { r.2 with ptp := { r.2.ptp with rate := rateWithin (signed r.1), part := 0 } }
  if first && decide (0 ≤ tickDiff time s.tick) then { s with tick := time, ptp := { s.ptp with slew := 0, toward := 0 } }
  else { s with ptp := { s.ptp with slew := tickDiff time s.tick } }

/-- Whether this package has PTP lock. -/
def ptpLocked (s : State) : Bool := ptpEnabled s && (ptpPort s).isSome

/-- The least number of a list, none where it is empty. -/
def leastOf (l : List Nat) : Option Nat := l.foldl (fun m n => some (min n (m.getD n))) none

/-- The package that steers the tick (R46): of those with PTP lock the one with the lowest id, of all where none has lock. -/
def steering (s : State) : Nat :=
  let locked := (s.links.domain.filter (fun p => s.links.peerLock.contains p)) ++ (if ptpLocked s then [pkgId s] else [])
  ((leastOf locked).orElse (fun _ => leastOf s.links.domain)).elim (pkgId s) (fun p => if locked.isEmpty then min p (pkgId s) else p)

/-- A time that a Flaster link carries from a package (R46): it steers the tick where that package steers the domain. A package that has
had PTP lock, or has been steered before, is slewed and not stepped (log entry 89). -/
def steer (pkg : Nat) (time : Word) (s : State) : State :=
  if steering s = pkg ∧ pkg ≠ pkgId s then
    let s := discipline (!s.ptp.joined && !s.ptp.everLocked) time s
    { s with ptp := { s.ptp with joined := true } }
  else s

/-- Whether a port that is locked goes on with its grandmaster: a message of another one that is no better does not move it (R46). -/
def keepsMaster (s : State) (port : Nat) (g : Grandmaster) : Bool :=
  match ptpMaster s port with
  | some m => decide (m.identity ≠ g.identity) && !betterMaster g m
  | none => false

/-- PTP_MESSAGE (R46): `time` is the PTP time that the message gives for the present, `master` its grandmaster. A port follows the best
grandmaster that it has heard since it lost lock; the port of the better one disciplines the tick, where no other package of the
domain steers it. -/
def execPtpMessage (port : Nat) (time : Word) (master : Grandmaster) (s : State) : Out :=
  if !ptpEnabled s || !portOpen s port || keepsMaster s port master then .next s
  else
    let s : State := { s with ptp := { s.ptp with locked := sparseSet none s.ptp.locked port (some master) } }
    if ptpPort s = some port then
      let s := if steering s = pkgId s then discipline (!s.ptp.everLocked) time s else s
      .next { s with ptp := { s.ptp with everLocked := true } }
    else .next s

/-- PTP_LOCK_LOST (R46): the tick goes on at its last disciplined rate. -/
def execPtpLockLost (port : Nat) (s : State) : Out :=
  .next { s with ptp := { s.ptp with locked := sparseSet none s.ptp.locked port none } }

/-! Power. -/

/-- The package cap in watts (R29, R44). -/
def powerCap (s : State) : Nat := min 3000 (field s.ep.pwrcap 0 12)

/-- A condition's time in microseconds: it goes on while the condition holds. -/
def held (c : Bool) (before us : Nat) : Nat := if c then before + us else 0

/-- The conditions of R29 after a sample. -/
def powerHeld (s : State) (x : PowerSample) : Power :=
  let p := s.power
  let cap := powerCap s
  { p with aboveCap := held (decide (cap < x.power)) p.aboveCap x.us,
           below95 := held (decide (100 * x.power < 95 * cap)) p.below95 x.us,
           below90 := held (decide (100 * x.power < 90 * cap)) p.below90 x.us,
           lowCurrent := held (decide (x.current < 6000)) p.lowCurrent x.us,
           inStep1 := held (decide (p.step = 1) && decide (cap < x.power)) p.inStep1 x.us }

/-- The step that a sample leads to (R29): entry to step 3 is immediate, every other change is of one step. -/
def powerStep (p : Power) (x : PowerSample) : Nat :=
  if 1050 ≤ x.tj ∨ 6600 ≤ x.current then 3
  else match p.step with
    | 0 => if 950 ≤ x.tj ∨ 100 ≤ p.aboveCap then 1 else 0
    | 1 =>
      if 1000 ≤ x.tj ∨ 10000 ≤ p.inStep1 then 2
      else if x.tj < 920 ∧ 1000 ≤ p.below95 then 0
      else 1
    | 2 => if x.tj < 970 ∧ 1000 ≤ p.below90 then 1 else 2
    | _ => if x.tj < 1020 ∧ 1000 ≤ p.lowCurrent then 2 else 3

/-- A step taken: the time in step 1 counts from its entry. -/
def powerEnter (p : Power) (n : Nat) : Power := { p with step := n, inStep1 := if n = 1 ∧ p.step = 1 then p.inStep1 else 0 }

/-- The event of a Trip (R43): it is sent before the package halts, however many events are not acknowledged (log entry 92). -/
def tripEvent (x : PowerSample) (s : State) : State :=
  let e := nextEvent s 3 (leBytes 8 x.die) (leBytes 8 x.tj)
  sendEvents [e] { s with ep := { s.ep with unacked := s.ep.unacked ++ [e], seq := s.ep.seq + 1 } }

/-- THROTTLE_SAMPLE (R29, R30, R43): a Trip sends its event and holds the package until reset. -/
def execThrottleSample (x : PowerSample) (s : State) : Out :=
  if 1100 ≤ x.tj then
    let s := tripEvent x s
    .next { s with power := { s.power with tripped := true } }
  else
    let p := powerHeld s x
    .next { s with power := powerEnter p (powerStep p x) }

/-- CURRENT_EXCURSION (R29). -/
def execCurrentExcursion (amps : Nat) (s : State) : Out :=
  if 6600 ≤ amps then .next { s with power := powerEnter s.power 3 } else .next s

/-! Wear. -/

/-- A prediction of a die in the layout of EOLHOURS (R32). -/
def eolWord (die : Nat) (x : Nat × Nat) : Word := word (2 ^ 63 + x.2 % 4 * 2 ^ 60 + die % 4 * 2 ^ 58 + min x.1 0xFFFFFFFF)

/-- The first die with the least hours, of predictions numbered from a die on: R31 does not say which die EOLHOURS names where two share the
minimum, and the model names the lowest-numbered (log entry 116). -/
def eolLeast : Nat → List (Nat × Nat) → Option (Nat × (Nat × Nat))
  | _, [] => none
  | d, x :: xs =>
    match eolLeast (d + 1) xs with
    | some y => if y.2.1 < x.1 then some y else some (d, x)
    | none => some (d, x)

/-- EOL_RECOMPUTE (R31, R32): the hours and the worst contributor of each die, and their minimum. -/
def execEolRecompute (dies : List (Nat × Nat)) (s : State) : Out :=
  let ds := dies.take s.part.dies
  let s : State := { s with ep := { s.ep with
    eoldie := ds.zipIdx.foldl (fun m e => sparseSet 0 m e.2 (eolWord e.2 e.1)) s.ep.eoldie } }
  match eolLeast 0 ds with
  | some x => .next { s with eolhours := eolWord x.1 x.2 }
  | none => .next s

end Sys2Proof.Machine
end

