-- ==== Sys2Proof/Machine/HostIf.lean ====
section
/-! DEFINITION. The host's attachment over Ethernet: endpoint registers (R44, R45), sessions and messages (R38-R42), events (R43) and
frames (R36, R37). -/

namespace Sys2Proof.Machine

/-! Endpoint registers. -/

/-- The part code of EPID (R446). -/
def partCode (p : Part) : Nat :=
  match p with
  | .e768D => 0x0768
  | .e2688P => 0x2688
  | .e3072P => 0x3072
  | .e3072M => 0x3072

/-- EPID (R446): the serial is never 0. -/
def epidWord (s : State) : Word :=
  word (max 1 Config.serial.toNat * 2 ^ 32 + partCode s.part * 2 ^ 16 + Config.revision.toNat)

/-- A drop counter of both ports (R44). -/
def dropWord (m : Sparse Nat) : Word := word (sparseGet 0 m 1 * 2 ^ 32 + sparseGet 0 m 0)

/-- Eight bytes of a byte array from an offset. -/
def bytesWord (m : Sparse Byte) (o : Nat) : Word := word (leNat ((List.range 8).map (fun i => sparseGet 0 m (o + i))))

/-- Eight bytes of a byte array replaced. -/
def bytesPut (m : Sparse Byte) (o : Nat) (v : Word) : Sparse Byte :=
  (leBytes 8 v.toNat).zipIdx.foldl (fun m e => sparseSet 0 m (o + e.2) e.1) m

/-- Eight bytes of a list from an offset. -/
def listWord (b : List Byte) (o : Nat) : Word := word (leNat ((List.range 8).map (fun i => nth 0 b (o + i))))

/-- DROPFCS read, which clears it (R44). -/
def readDropfcs (s : State) : Word × State := (dropWord s.ep.dropfcs, { s with ep := { s.ep with dropfcs := [] } })

/-- DROPSEC read, which clears it (R44). -/
def readDropsec (s : State) : Word × State := (dropWord s.ep.dropsec, { s with ep := { s.ep with dropsec := [] } })

/-- DROPHDR read, which clears it (R44). -/
def readDrophdr (s : State) : Word × State := (dropWord s.ep.drophdr, { s with ep := { s.ep with drophdr := [] } })

/-- EVLOST read, which clears it (R44). -/
def readEvlost (s : State) : Word × State := (word s.ep.evlost, { s with ep := { s.ep with evlost := 0 } })

/-- An endpoint register read (R44): an offset that names none reads as zero. -/
def epRead (s : State) (o : Nat) : Word × State :=
  match o with
  | 0x0000 => (epidWord s, s)
  | 0x0008 => (s.ep.epctl, s)
  | 0x0010 => (s.ep.pkgid, s)
  | 0x0018 => (s.ep.pwrcap, s)
  | 0x0020 => (s.bootstat, s)
  | 0x0050 => readDropfcs s
  | 0x0058 => readDropsec s
  | 0x0060 => readDrophdr s
  | 0x0068 => readEvlost s
  | 0x0070 => (s.ep.hport, s)
  | 0x0078 => (s.ep.vlan, s)
  | 0x0220 => (attctlWord s, s)
  | _ =>
    if 0x0030 ≤ o ∧ o < 0x0050 then (sparseGet 0 s.ep.eoldie ((o - 0x0030) / 8), s)
    else if 0x0100 ≤ o ∧ o < 0x0180 then (bytesWord s.ep.ipv6a (o - 0x0100), s)
    else if 0x0200 ≤ o ∧ o < 0x0220 then (bytesWord s.ep.attnonce (o - 0x0200), s)
    else if 0x0300 ≤ o ∧ o < 0x0318 then (bytesWord s.ep.evdest (o - 0x0300), s)
    else if 0x0400 ≤ o ∧ o < 0x0420 then (listWord s.ep.meas (o - 0x0400), s)
    else if 0x1000 ≤ o ∧ o < 0x9000 then (listWord s.ep.report (o - 0x1000), s)
    else (0, s)

/-- EPCTL after a write (R45): clearing both port enables is ignored in that field. -/
def epctlWrite (old v : Word) : Word :=
  let ports := if field v 0 2 = 0 then field old 0 2 else field v 0 2
  word (field v 8 8 * 2 ^ 8 + field v 2 2 * 4 + ports)

/-- The endpoint with EPCTL written; without PTPEN the tick runs free at the nominal rate (R46). -/
def writeEpctl (s : State) (v : Word) : State :=
  let s : State := { s with ep := { s.ep with epctl := epctlWrite s.ep.epctl v } }
  if flag v 2 then s else { s with ptp := { s.ptp with locked := [], slew := 0, toward := 0, rate := 0, part := 0 } }

/-- An endpoint register written (R44): RO fields and offsets that name no register ignore it. -/
def epWrite (s : State) (o : Nat) (v : Word) : State :=
  let upd (f : Endpoint → Endpoint) : State := { s with ep := f s.ep }
  match o with
  | 0x0008 => writeEpctl s v
  | 0x0010 => upd (fun e => { e with pkgid := word (field v 0 8) })
  | 0x0018 => upd (fun e => { e with pwrcap := word (field v 0 12) })
  | 0x0028 => if flag v 0 then bootGo s else s
  | 0x0070 => upd (fun e => { e with hport := word (field v 0 16) })
  | 0x0078 => upd (fun e => { e with vlan := word (field v 16 12 * 2 ^ 16 + field v 0 12) })
  | 0x0220 => if flag v 0 then attGo s else s
  | 0x0310 => upd (fun e => { e with evdest := bytesPut e.evdest 16 (word (field v 0 16)) })
  | _ =>
    if 0x0100 ≤ o ∧ o < 0x0180 then upd (fun e => { e with ipv6a := bytesPut e.ipv6a (o - 0x0100) v })
    else if 0x0200 ≤ o ∧ o < 0x0220 then upd (fun e => { e with attnonce := bytesPut e.attnonce (o - 0x0200) v })
    else if 0x0300 ≤ o ∧ o < 0x0310 then upd (fun e => { e with evdest := bytesPut e.evdest (o - 0x0300) v })
    else s

/-- ENDPOINT_REG_WRITE (R44, R276): an aligned host write to a register by its physical address, or nothing. -/
def execEndpointRegWrite (addr : Nat) (value : Word) (s : State) : Out :=
  match paKind s (addr / 8 * 8) with
  | .endpoint o => .next (epWrite s o value)
  | .config m o => .next (configWrite (serveSure (fun _ => true) s) m o value)
  | _ => .next s

/-- A clearing register read by itself: `readback` holds what it returned. -/
def readClear (r : Word × State) : Out :=
  let s : State := r.2
  .next { s with ep := { s.ep with readback := r.1 } }

/-- DROPFCS_READ (R44). -/
def execDropfcsRead (s : State) : Out := readClear (readDropfcs s)

/-- DROPSEC_READ (R44). -/
def execDropsecRead (s : State) : Out := readClear (readDropsec s)

/-- DROPHDR_READ (R44). -/
def execDrophdrRead (s : State) : Out := readClear (readDrophdr s)

/-- EVLOST_READ (R44). -/
def execEvlostRead (s : State) : Out := readClear (readEvlost s)

/-- MCLOST_READ (R269). -/
def execMclostRead (die : Nat) (s : State) : Out := readClear (mclostGet s die)

/-- CARVE_WRITE (R200). -/
def execCarveWrite (mpt : Nat) (value : Word) (s : State) : Out :=
  if mpt < s.part.mpts then .next (carveStore (serveSure (fun _ => true) s) mpt value) else .next s

/-! Frames and ports (R36, R37). -/

/-- FRAME_DROP (R37, R38): a frame that comes in at a port; one that is not dropped is left to the row of its message. -/
def execFrameDrop (port : Nat) (f : Frame) (s : State) : Out := .next (takeFrame { f with port := port } (fun _ s => s) s)

/-- NEIGHBOUR_SOLICITATION (R36), in a frame that R37 does not drop: answered with an advertisement for the port's addresses. -/
def execNeighbourSolicitation (port : Nat) (addr : BitVec 128) (s : State) : Out :=
  if portOpen s port && portAddress s port addr then
    .next (countSent port { s with ep := { s.ep with adverts := s.ep.adverts ++ [(viaPort s port, addr)] } })
  else .next s

/-- HOST_PORT_LINK_UP (R36). -/
def execHostPortLinkUp (port : Nat) (s : State) : Out :=
  .next { s with ep := { s.ep with linkUp := sparseSet true s.ep.linkUp port true } }

/-- HOST_PORT_LINK_DOWN (R43): a LINKDOWN event of kind 2. -/
def execHostPortLinkDown (port : Nat) (s : State) : Out :=
  if s.ep.portsUp ∧ port < 2 ∧ sparseGet true s.ep.linkUp port then
    let s : State := { s with ep := { s.ep with linkUp := sparseSet true s.ep.linkUp port false } }
    .next (s.hostEvent 4 (leBytes 8 2) (leBytes 8 port))
  else .next s

/-! Events (R43). -/

/-- Queued events sent while fewer than 16 are unacknowledged. -/
def pumpEvents : Nat → State → State
  | 0, s => s
  | n + 1, s =>
    match s.ep.queued with
    | [] => s
    | e :: es =>
      if s.ep.unacked.length < 16 then
        pumpEvents n (sendEvents [e] { s with ep := { s.ep with queued := es, unacked := s.ep.unacked ++ [e] } })
      else s

/-- A response of the host on the event session (R43): it acknowledges the event of its SEQ. -/
def ackEvent (m : HostMsg) (s : State) : State :=
  if m.resp ∧ m.kind = 4 ∧ m.session = 0xFFFF then
    pumpEvents 16 { s with ep := { s.ep with unacked := s.ep.unacked.filter (fun e => decide (e.seq ≠ m.seq.toNat)) } }
  else s

/-- EVENT_ACK (R43). -/
def execEventAck (f : Frame) (s : State) : Out := .next (takeFrame f ackEvent s)

/-- The ring cycles of a millisecond: that clock runs at 1.7 GHz at every throttle step (R30, R109). -/
def ringMillisecond : Nat := 1700000

/-- EVENT_RETRANSMIT (R43): every 1 ms. -/
def execEventRetransmit (s : State) : Out :=
  if s.ep.resentAt + ringMillisecond ≤ s.ring.cycle then
    .next (sendEvents s.ep.unacked { s with ep := { s.ep with resentAt := s.ring.cycle } })
  else .next s

/-! Sessions (R40). -/

/-- The answer to a request: at once, with a status and a payload, or once its task has been judged (R42) or its words performed (R41). -/
inductive Answer where
  | now (status : Nat) (payload : List Byte)
  | later
  deriving DecidableEq, Repr

/-- The session of a number. -/
def sessionOf (s : State) (id : Nat) : Option Session := s.ep.sessions.find? (fun x => decide (x.id = id))

/-- The state with a session changed. -/
def updSession (s : State) (id : Nat) (f : Session → Session) : State :=
  { s with ep := { s.ep with sessions := s.ep.sessions.map (fun x => if x.id = id then f x else x) } }

/-- The session that has been idle longest. -/
def idlest : List Session → Option Session
  | [] => none
  | x :: xs =>
    match idlest xs with
    | some y => if y.last < x.last then some y else some x
    | none => some x

/-- Room for a new session (R40): none where 64 are known and none of them has been idle for 10 s. -/
def sessionRoom (s : State) : Option State :=
  if s.ep.sessions.length < 64 then some s
  else match idlest s.ep.sessions with
    | some x =>
      if x.last + 10000 * ringMillisecond ≤ s.ring.cycle then
        some { s with ep := { s.ep with sessions := s.ep.sessions.filter (fun y => decide (y.id ≠ x.id)) } }
      else none
    | none => none

/-- SYNC (R40): EXPECT takes SEQ and the cache is empty. -/
def syncSession (m : HostMsg) (s : State) : State :=
  let id := m.session.toNat
  match sessionOf s id with
  | some _ => updSession s id (fun x => { x with expect := m.seq, cache := [] })
  | none => { s with ep := { s.ep with sessions := s.ep.sessions ++ [⟨id, m.seq, [], s.ring.cycle⟩] } }

/-- The response to a request (R38): it repeats KIND, SESSION, SEQ and ADDR, and goes where the request came from. -/
def responseTo (kind : Nat) (m : HostMsg) (status : Nat) (payload : List Byte) : Sent :=
  ⟨.none, m.peer, false, kind, m.session.toNat, m.seq.toNat, status, m.addr, 0, payload⟩

/-- A request of a known session (R40): performed at EXPECT, answered again from the cache, or dropped and counted. -/
def inSession (kind : Nat) (m : HostMsg) (act : State → Answer × State) (x : Session) (s : State) : State :=
  let id := m.session.toNat
  let s := updSession s id (fun y => { y with last := s.ring.cycle })
  let back := (x.expect - m.seq).toNat
  if m.seq = x.expect then
    let r := act s
    let s := updSession r.2 id (fun y => { y with expect := y.expect + 1 })
    match r.1 with
    | .now st p => s.respond m.port id (responseTo kind m st p)
    | .later => s
  else
    match (if 1 ≤ back ∧ back ≤ 16 then x.cache.find? (fun r => decide (r.seq = m.seq.toNat)) else none) with
    | some r => sendAtPort m.port { r with dest := m.peer } s
    | none => dropFrame m.port .header s

/-- A request handled (R40). A request of the host on session 0xFFFF is served as one of any session (log entry 92). -/
def sequenced (kind : Nat) (m : HostMsg) (act : State → Answer × State) (s : State) : State :=
  let id := m.session.toNat
  let noSession := sendAtPort m.port (responseTo kind m 7 [])
  if m.sync && (sessionOf s id).isNone && (sessionRoom s).isNone then noSession s
  else
    let s := if m.sync then syncSession m (if (sessionOf s id).isNone then (sessionRoom s).getD s else s) else s
    match sessionOf s id with
    | some x => inSession kind m act x s
    | none => noSession s

/-! MWRITE and MREAD (R41). -/

/-- Whether a host access may reach a physical word (R197, R201). -/
def hostOpen (s : State) (pa : Nat) : Bool :=
  match paKind s pa with
  | .nothing => false
  | .staging _ => decide (bootCode s.ep.boot < 4)
  | _ => true

/-- Whether STATE is below 4, so that only two windows answer (R47). -/
def bootShut (s : State) (pa : Nat) : Bool :=
  decide (bootCode s.ep.boot < 4) && match paKind s pa with
    | .staging _ => false
    | .endpoint _ => false
    | _ => true

/-- The word addresses of an access. -/
def hostWords (addr : Word) (n : Nat) : List Nat := (List.range (n / 8)).map (fun i => addr.toNat + 8 * i)

/-- The status of a host access before its words are read (R39). -/
def hostStatus (s : State) (addr : Word) (n : Nat) : Nat :=
  if n = 0 ∨ 8192 < n then 3
  else if addr.toNat % 8 ≠ 0 ∨ n % 8 ≠ 0 then 2
  else if (hostWords addr n).any (bootShut s) then 8
  else if (hostWords addr n).any (fun pa => !hostOpen s pa) then 1
  else 0

/-- A word written by the host (R41): registers take it as they do, memory as any write. -/
def hostPut (s : State) (pa : Nat) (v : Word) : State :=
  match paKind s pa with
  | .endpoint o => epWrite s o v
  | .config m o => configWrite (serveSure (fun _ => true) s) m o v
  | _ => s.suWrite pa v

/-- A word read by the host (R41): its value, whether it is poisoned, and the state; an error that the read finds is reported (R270). -/
def hostGet (s : State) (pa : Nat) : (Word × Bool) × State :=
  match paKind s pa with
  | .endpoint o => let r := epRead s o; ((r.1, false), r.2)
  | .config m o => let r := configRead s m o; ((r.1, false), r.2)
  | _ =>
    match paKey s pa with
    | some k =>
      let s := (s.detect k 8).fold pa k
      ((s.paWord pa, s.paPoisoned pa), s)
    | none => ((0, false), s)

/-- The words of a payload. -/
def payloadWords (b : List Byte) : List Word := (List.range (b.length / 8)).map (fun i => listWord b (8 * i))

/-- The span of a session that is under way. -/
def spanOf (s : State) (id : Nat) : Option HostSpan := s.ep.spans.find? (fun x => decide (x.msg.session.toNat = id))

/-- The state without the span of a session. -/
def dropSpan (id : Nat) (s : State) : State :=
  { s with ep := { s.ep with spans := s.ep.spans.filter (fun x => decide (x.msg.session.toNat ≠ id)) } }

/-- The MPT of a host port (R36). -/
def hostPortMpt (p : Part) (port : Nat) : Nat := if port = 0 then 0 else if p.bare then 16 else 64

/-- Whether a module is down on the way from a host port to a word, which holds the access (R20). -/
def wordHeld (s : State) (port pa : Nat) : Bool :=
  match paKind s pa with
  | .endpoint _ => false
  | _ => (crossDown s (.mpt (hostPortMpt s.part port)) (.mpt (homeMpt s pa))).isSome

/-- Words of a span performed one after another, at most `n`, as far as the links go: those read are added to those read before. -/
def spanWords (m : HostMsg) : Nat → List (Word × Bool) → List (Nat × Word) → State → HostSpan × State
  | n + 1, got, e :: es, s =>
    if wordHeld s m.port e.1 then (⟨m, e :: es, got⟩, s)
    else if m.kind = 1 then spanWords m n got es (hostPut s e.1 e.2)
    else let r := hostGet s e.1; spanWords m n (got ++ [r.1]) es r.2
  | _, got, es, s => (⟨m, es, got⟩, s)

/-- The answer to a span whose words are all performed: a poisoned word of an MREAD is POISON with no payload (R41). -/
def spanAnswer (x : HostSpan) : Answer :=
  if x.got.any (fun e => e.2) then .now 6 [] else .now 0 (x.got.flatMap (fun e => leBytes 8 e.1.toNat))

/-- A span taken further, as far as the turn goes (R41, R210): other agents act between its words. -/
def spanGo (x : HostSpan) (s : State) : Answer × State :=
  let r := spanWords x.msg (s.piece x.todo.length) x.got x.todo s
  if r.1.todo.isEmpty then (spanAnswer r.1, r.2)
  else (.later, { r.2 with ep := { r.2.ep with spans := r.2.ep.spans ++ [r.1] } })

/-- A span that is under way taken further; its response follows its last word. -/
def spanOn (x : HostSpan) (s : State) : State :=
  let r := spanGo x (dropSpan x.msg.session.toNat s)
  match r.1 with
  | .now st b => r.2.respond x.msg.port x.msg.session.toNat (responseTo x.msg.kind x.msg st b)
  | .later => r.2

/-- The effect of an MWRITE. -/
def mwriteAct (m : HostMsg) (s : State) : Answer × State :=
  match hostStatus s m.addr m.payload.length with
  | 0 => spanGo ⟨m, (payloadWords m.payload).zipIdx.map (fun e => (m.addr.toNat + 8 * e.2, e.1)), []⟩ s
  | c => (.now c [], s)

/-- The effect of an MREAD. -/
def mreadAct (m : HostMsg) (s : State) : Answer × State :=
  match hostStatus s m.addr m.aux.toNat with
  | 0 => spanGo ⟨m, (hostWords m.addr m.aux.toNat).map (fun pa => (pa, 0)), []⟩ s
  | c => (.now c [], s)

/-- A request of a kind: messages of one session are performed one at a time, so that one behind a MSG that is still to be answered, or
behind a span that is still to be performed, stays where it is (R41). The spec gives no outcome for a request of KIND 4, nor for a response
that acknowledges no event: such a message has no effect, and nothing counts it (log entry 92). -/
def request (kind : Nat) (act : HostMsg → State → Answer × State) (m : HostMsg) (s : State) : State :=
  if m.resp ∨ m.kind ≠ kind ∨ s.ep.msgs.any (fun e => decide (e.1 = m.session.toNat)) then s
  else match spanOf s m.session.toNat with
    | some x => if x.msg.kind = kind ∧ x.msg.seq = m.seq then spanOn x s else s
    | none => sequenced kind m (act m) s

/-- A frame with a request of a kind. -/
def hostRequest (kind : Nat) (f : Frame) (act : HostMsg → State → Answer × State) (s : State) : Out :=
  .next (takeFrame f (request kind act) s)

/-- MWRITE (R41). -/
def execMwrite (f : Frame) (s : State) : Out := hostRequest 1 f mwriteAct s

/-- MREAD (R41). -/
def execMread (f : Frame) (s : State) : Out := hostRequest 2 f mreadAct s

/-! MSG (R42). -/

/-- The task of a MSG (R42, R84). -/
def msgTask (s : State) (m : HostMsg) : Task :=
  let ws := payloadWords m.payload
  let t := serviceTile (field m.addr 0 2)
  { rid := 0, gen := 0, srcPkg := pkgId s, srcIdx := 0, stolen := false, aff := false, prio := field m.addr 16 2,
    two := decide (ws.length = 2), label := field m.addr 8 7, dpkg := pkgId s, dx := tileX t, dy := tileY t, win := 0,
    key := 0xFFFFFFFF, cnt := m.seq, w0 := nth 0 ws 0, w1 := nth 0 ws 1, host := some (m.session.toNat, m.seq.toNat),
    check := false, since := 0 }

/-- The effect of a MSG: judged at once, or sent to its service tile to be judged there (R42, R90). -/
def msgAct (m : HostMsg) (s : State) : Answer × State :=
  if m.payload.length ≠ 8 ∧ m.payload.length ≠ 16 then (.now 3 [], s)
  else if s.ep.boot ≠ .running then (.now 8 [], s)
  else if s.part.dies ≤ field m.addr 0 2 ∨ field m.addr 2 6 ≠ 0 ∨ flag m.addr 15 ∨ field m.addr 18 46 ≠ 0 then (.now 1 [], s)
  else
    let s : State := { s with ep := { s.ep with msgs := s.ep.msgs ++ [(m.session.toNat, m.seq.toNat, m.addr, (m.port, m.peer))] } }
    (.later, s.sendTask (.mpt (hostPortMpt s.part m.port)) (msgTask s m))

/-- MSG (R42). -/
def execMsg (f : Frame) (s : State) : Out := hostRequest 3 f msgAct s

end Sys2Proof.Machine
end

