-- ==== Sys2Proof/Machine/Links.lean ====
section
/-! DEFINITION. Flaster ports (R25-R27, R75, R76, R382), UCIe replay (R20), the patrol scrub (R33, R35), the refill of energy budgets
(R159), gang chains (R169) and debug halts (R276-R278). -/

namespace Sys2Proof.Machine

/-! UCIe and Flaster links. -/

/-- UCIE_CRC_REPLAY (R20): the item is 0 for a flit's first failure and not 0 for that of a replay; after 8 failed replays the module goes
down. -/
def execUcieCrcReplay (xmodule : Nat) (s : State) : Out :=
  if s.part.bare || decide (176 ≤ xmodule) || s.links.moduleDown.contains xmodule then .next s
  else
    let n := if s.here.item = 0 then 0 else sparseGet 0 s.links.moduleRetry xmodule + 1
    let s : State := { s with links := { s.links with moduleRetry := sparseSet 0 s.links.moduleRetry xmodule n } }
    if n < 8 then .next s else .next (moduleGoesDown s xmodule)

/-- Whether the part has a Flaster port (R25, R28). -/
def hasFlaster (s : State) (port : Nat) : Bool := decide (port < 4 * s.part.dies)

/-- The copies that a port's loss ends: which of those on their way to other packages went through it is a free choice (log entry 27). -/
def portCopies (s : State) : List Nat := (s.copies.filter (fun c => c.begun && copyRemote c.req)).map (fun c => c.id)

/-- A copy on its way to another package ended with LINK (R27). -/
def loseRemote (id : Nat) (s : State) : State :=
  let mine (p : Packet) : Bool := match p.body with
    | .remoteCopy i _ _ _ _ _ _ _ => decide (i = id)
    | _ => false
  let s := copyLink id s
  { s with net := s.net.filter (fun p => !mine p), arrived := s.arrived.filter (fun p => !mine p) }

/-- A Flaster port gone down (R27, R43). -/
def portGoesDown (s : State) (port : Nat) : State :=
  let s : State := { s with links := { s.links with portDown := keyInsert s.links.portDown port } }
  let s := (s.machineCheckAll 8 port (word port)).hostEvent 4 (leBytes 8 1) (leBytes 8 port)
  (portCopies s).foldl (fun s id =>
    let b := s.freeBool
    if b.1 then loseRemote id b.2 else b.2) s

/-- FLASTER_CRC_REPLAY (R27): the item is as for UCIE_CRC_REPLAY; after 16 failed replays the port goes down. -/
def execFlasterCrcReplay (port : Nat) (s : State) : Out :=
  if !hasFlaster s port || s.links.portDown.contains port then .next s
  else
    let n := if s.here.item = 0 then 0 else sparseGet 0 s.links.portRetry port + 1
    let s : State := { s with links := { s.links with portRetry := sparseSet 0 s.links.portRetry port n } }
    if n < 16 then .next s else .next (portGoesDown s port)

/-- FLASTER_LINK_UP (R26, R46): `tick` is the package's time for the present. -/
def execFlasterLinkUp (port pkg : Nat) (tick : Word) (s : State) : Out :=
  if !hasFlaster s port || decide (256 ≤ pkg) then .next s
  else
    .next (steer pkg tick { s with
      links := { s.links with portDown := keyErase s.links.portDown port, portRetry := sparseSet 0 s.links.portRetry port 0,
                              domain := if pkg = pkgId s then s.links.domain else keyInsert s.links.domain pkg } })

/-- A timestamp of another package (R46), with whether it has PTP lock. -/
def flasterStamp (pkg : Nat) (locked : Bool) (time : Word) (s : State) : State :=
  steer pkg time { s with links := { s.links with
    peerLock := if locked then keyInsert s.links.peerLock pkg else keyErase s.links.peerLock pkg } }

/-- Who another package's accesses belong to: no tile of this one. -/
def outsider : Who := ⟨4096, 0, 0, 0, 0⟩

/-- Whether a packet of another package may reach a physical address: the memory that any privilege may reach (R197). -/
def flasterOpen (s : State) (pa : Nat) : Bool :=
  match paKind s pa with
  | .hbm => true
  | .direct _ _ => true
  | _ => false

/-- An access of another package performed: its result, or a free value where the spec gives the answer no form (log entry 28). -/
def flasterPerform (pa : Nat) (op : MemOp) (s : State) : Word × State :=
  let r := if flasterOpen s pa then s.performPa outsider pa op else (.access, s)
  let s := if op.writes then ordRejudge r.2 pa else r.2
  match r.1 with
  | .ok v => (v, s)
  | _ => s.freeWord

/-- An answer sent back to another package (R25), once the writes made since number `n` are acknowledged (R150). -/
def flasterReply (n port src tag : Nat) (v : Word) (s : State) : State :=
  s.sendAfter n .rsp (.mpt (flasterMpt port)) .outside (.remoteReply src tag v)

/-- Words stored one after another by another package. -/
def flasterStore (pa : Nat) (ws : List Word) (s : State) : State :=
  ws.zipIdx.foldl (fun s e => (flasterPerform (pa + 8 * e.2) (.store 8 e.1) s).2) s

/-- A copied word written, with its poison (R35, R383). -/
def putCopied (pa : Nat) (x : Word × Bool) (s : State) : State :=
  let s := match x.2, paKey s pa with
    | true, some k => s.beforePoison k
    | _, _ => s
  let s := (flasterPerform pa (.store 8 x.1) s).2
  match x.2, paKey s pa with
  | true, some k => s.poisonWord k
  | _, _ => s

/-- The arrival word of this package that another package's copy names by its physical address or handle (R381): 0 names none. -/
def farArrival (aw : Nat) (s : State) : Option Nat :=
  let v := word aw
  if aw = 0 then none
  else if isHandle v then (if poolAllocated s (field v 0 52) then some (field v 0 52) else none)
  else if flasterOpen s aw ∧ aw % 16 = 0 then some aw
  else none

/-- Written words counted at an arrival word (R375, R383): the state, and whether a count met poison. -/
def countWords (pa : Nat) : Nat → State → Bool × State
  | 0, s => (false, s)
  | n + 1, s =>
    match countWord s pa with
    | some s' => countWords pa n s'
    | none => (true, (countWords pa n s).2)

/-- A piece of a copy of another package performed here (R382, R383), answered in the layout of R384: nothing where a word of its whole
destination may not be reached. -/
def flasterCopy (port pa : Nat) (data : List (Word × Bool)) (aw src tag base words : Nat) (s : State) : State :=
  let far := farArrival aw s
  let bad := !((List.range words).all (fun i => flasterOpen s (base + 8 * i))) || (decide (aw ≠ 0) && far.isNone)
    || decide (pa < base) || decide (base + 8 * words < pa + 8 * data.length)
  if bad then flasterReply s.nextId port src tag (statusWord stAccess false 0) s
  else
    let t := data.zipIdx.foldl (fun s e => putCopied (pa + 8 * e.2) e.1 s) s
    let r : Bool × State := match far with
      | some w => countWords w data.length t
      | none => (false, t)
    flasterReply s.nextId port src tag (statusWord 0 r.1 (8 * data.length)) r.2

/-- A list without its first element that meets a condition. -/
def eraseFirst {α : Type} (f : α → Bool) : List α → List α
  | [] => []
  | x :: xs => if f x then xs else x :: eraseFirst f xs

/-- The earlier of two status codes in the order of the table, 0 being none (R384). -/
def firstCode (a b : Nat) : Nat := if a = 0 then b else if b = 0 then a else min a b

/-- The answer to a piece of a copy of this package (R383): its oldest packet is done with, and the status takes the answer's. -/
def remoteAck (id : Nat) (v : Word) (s : State) : State :=
  let mine (p : Packet) : Bool := match p.body with
    | .remoteCopy i _ _ _ _ _ _ _ => decide (i = id)
    | _ => false
  { s with net := eraseFirst mine s.net, arrived := s.arrived.filter (fun p => !mine p),
           copies := s.copies.map (fun c => if c.id = id then
             { c with code := firstCode c.code (field v 56 8), bytes := c.bytes + field v 0 48, poisoned := c.poisoned || flag v 55 } else c) }

/-- A value put into a collective in the order of the ranks; a rank counts once. -/
def rankInsert (r : Nat) (v : Option Word) : List (Nat × Option Word) → List (Nat × Option Word)
  | [] => [(r, v)]
  | x :: xs => if r < x.1 then (r, v) :: x :: xs else if r = x.1 then x :: xs else x :: rankInsert r v xs

/-- The result of a collective whose ranks have all come (R105): the tree of the values in rank order. -/
def Collective.result (c : Collective) : Word :=
  word (collective (if c.w32 then f32 else f64) (c.got.map (fun e => e.2.toList.map (fun v => v.toNat % 2 ^ (if c.w32 then 32 else 64)))))

/-- A rank's value of a DET collective (R97, R105): with the last one the result is stored (log entry 112). -/
def collectRank (w32 : Bool) (pa : Nat) (v : Word) (rank ranks : Nat) (leaves : Bool) (s : State) : State :=
  let mine (c : Collective) : Bool := decide (c.pa = pa) && decide (c.w32 = w32)
  let c := (s.collectives.find? mine).getD ⟨pa, w32, ranks, []⟩
  let c := { c with got := rankInsert rank (if leaves then some v else none) c.got }
  let rest := s.collectives.filter (fun c => !mine c)
  if c.got.length < c.ranks then { s with collectives := c :: rest }
  else (flasterPerform pa (.store (if w32 then 4 else 8) c.result) { s with collectives := rest }).2

/-- A reduction of another package (R25, R105): of a DET collective's floating-point sum in its ranks' order, any other one as it comes. -/
def flasterReduce (op : AmoOp) (w32 : Bool) (pa : Nat) (v : Word) (part : Option (Nat × Nat × Bool)) (s : State) : State :=
  match op, part with
  | .fadd, some p => if p.1 < p.2.1 ∧ flasterOpen s pa then collectRank w32 pa v p.1 p.2.1 p.2.2 s else s
  | _, _ => (flasterPerform pa (.red op w32 v false) s).2

/-- The answer to an arrival at a barrier of a gang's home (R372), kept for the thread that waits for it. -/
def barAnswered (node token : Nat) (refused : Word) (s : State) : State :=
  match s.node node with
  | some n => s.updRegion n.region (fun r => { r with barDone := r.barDone ++ [(token, refused)] })
  | none => s

/-- A gang message from another package (R75, R76, R372): a kill, an arrival at a barrier and its answer act at once, the others wait at the
Scheduler Unit. -/
def gangArrive (die pkg node : Nat) (m : GangMsg) (s : State) : State :=
  match m with
  | .kill => s.killNode node
  | .barArrive id scope need token =>
    (match s.node node with
    | some n => arriveFar pkg node n id scope need token s
    | none => s)
  | .barAnswer token refused => barAnswered node token refused s
  | m => { s with arrived := s.arrived ++ [⟨s.nextId, .req, .outside, .su die, 0, 0, .gangMsg pkg node m, []⟩], nextId := s.nextId + 1 }

/-- Whether a module that is down stands between a port's MPT and the home of one of `n` words (R20). -/
def flasterDown (s : State) (port pa n : Nat) : Bool :=
  (List.range n).any (fun i => (crossDown s (.mpt (flasterMpt port)) (.mpt (homeMpt s (pa + 8 * i)))).isSome)

/-- Whether a packet of another package is held on its way from its port (R20). -/
def flasterHeld (s : State) (port : Nat) (p : FlasterPkt) : Bool :=
  let copyHeld (id : Nat) : Bool := s.copies.any (fun c => decide (c.id = id)
    && (crossDown s (.mpt (flasterMpt port)) (.mpt c.engine)).isSome)
  match p with
  | .load pa _ _ _ => flasterDown s port pa 1
  | .store pa data _ _ => flasterDown s port pa data.length
  | .atomic _ _ pa _ _ _ => flasterDown s port pa 1
  | .copy pa data aw _ _ _ _ => flasterDown s port pa data.length || (farArrival aw s).any (fun a => flasterDown s port a 1)
  | .reduction _ _ pa _ _ => flasterDown s port pa 1
  | .ack id _ => copyHeld id
  | .linkFail id => copyHeld id
  | .gang die _ _ _ => (crossDown s (.mpt (flasterMpt port)) (.su die)).isSome
  | .stamp .. => false

/-- FLASTER_PACKET_ARRIVE (R25, R26). A packet beyond a module that is down is held, and changes nothing yet (R20). -/
def execFlasterPacketArrive (port : Nat) (p : FlasterPkt) (s : State) : Out :=
  if !hasFlaster s port || s.links.portDown.contains port || flasterHeld s port p then .next s
  else match p with
    | .load pa bytes src tag =>
      let r := flasterPerform pa (.load bytes) s
      .next (flasterReply s.nextId port src tag r.1 r.2)
    | .store pa data src tag => .next (flasterReply s.nextId port src tag 0 (flasterStore pa data s))
    | .atomic op w32 pa v src tag =>
      let r := flasterPerform pa (.amo op w32 v false) s
      .next (flasterReply s.nextId port src tag r.1 r.2)
    | .copy pa data aw src tag base words => .next (flasterCopy port pa data aw src tag base words s)
    | .reduction op w32 pa v part => .next (flasterReduce op w32 pa v part s)
    | .ack id v => .next (remoteAck id v s)
    | .linkFail id => .next (loseRemote id s)
    | .stamp pkg locked time => if inDomain s pkg then .next (flasterStamp pkg locked time s) else .next s
    | .gang die pkg node m => if die < s.part.dies then .next (gangArrive die pkg node m s) else .next s

/-! The patrol scrub. -/

/-- The word of an MPT's slice that its scrub comes to, by its storage key, and its physical address, 0 where it has none: a physical
address whose home the MPT is, or, from 2^52 up, an offset in the slice's SHELF and ARCH areas (R199, R201). -/
def scrubWord (s : State) (mpt pa : Nat) : Option (Nat × Word) :=
  let o := pa - 2 ^ 52
  let shelf := carveBytes (s.mpt mpt).carve 4
  if pa < 2 ^ 52 then (if homeMpt s pa = mpt then (paKey s pa).map (fun k => (k, word (pa / 8 * 8))) else none)
  else if s.part.mpts ≤ mpt then none
  else if o < shelf then some (areaKey .shelf mpt o, 0)
  else if o < shelf + carveBytes (s.mpt mpt).carve 8 then some (areaKey .arch mpt (o - shelf), 0)
  else none

/-- PATROL_SCRUB (R33, R35, R270): an uncorrectable word of the MPT's slice, one that nothing has found yet or one that the scrub finds
bad, is poisoned, and a machine check names it. -/
def execPatrolScrub (mpt pa : Nat) (bad : Bool) (s : State) : Out :=
  match scrubWord s mpt pa with
  | some k =>
    if s.latent.contains (k.1 / 8) || (bad && !s.isPoisoned k.1 1) then
      let s := s.beforePoison k.1
      .next (({ s.poisonWord k.1 with latent := keyErase s.latent (k.1 / 8), hbmBad := keyErase s.hbmBad (k.1 / 8) }).machineCheckAll 2 mpt
        k.2)
    else .next s
  | none => .next s

/-! Budgets and gang chains. -/

/-- A refill (R159, R161, R420): BUDGETCFG takes effect, every slot's LEFT is at its FILL, LEANCYC is 0, and an event is posted. -/
def refillTile (t : Nat) (s : State) : State :=
  let s := s.updTile t (fun x => { x with fills := x.budgetcfg })
  ((List.range 6).foldl (fun s k => s.updThread t k (fun x => { x with left := fillOf (s.tile t).fills k, lean := 0 })) s).postEvent t

/-- BUDGET_REFILL (R159): of the placed region of the item, at every 1024 cycles since its placement. -/
def execBudgetRefill (s : State) : Out :=
  match s.region s.here.item with
  | some r =>
    if r.on ∧ r.base < s.cycle ∧ (s.cycle - r.base) % 1024 = 0 then .next (r.tiles.foldl (fun s t => refillTile t s) s) else .next s
  | none => .next s

/-- GANG_CHAIN_ISSUE (R169): the leader's next instruction is due at a member. -/
def execGangChainIssue (s : State) : Out := .next (gangPull s.here.tile s)

/-! Debug halts. -/

/-- DEBUG_HALT (R276). -/
def execDebugHalt (s : State) : Out := .next (debugHaltTile s s.here.tile)

/-- A thread at an instruction boundary, its wait given up (R277, R272). -/
def haltThreads (t : Nat) (s : State) : State := (List.range 6).foldl (fun s k => stopThread t s k) s

/-- DEBUG_HALT_COMPLETE (R277): once every access of the tile's threads that is on its way has been answered. -/
def execDebugHaltComplete (s : State) : Out :=
  let t := s.here.tile
  if (s.tile t).halting ∧ (liveThreads s t).all (fun e => !awaitsReply s e.2) then
    .next ((haltThreads t s).updTile t (fun x => { x with halting := false, halted := true, stepOnce := none, sstep := false }))
  else .next s

/-- DEBUG_RESUME (R277). -/
def execDebugResume (s : State) : Out := .next (debugResumeTile s s.here.tile)

/-- DEBUG_STEP (R277). -/
def execDebugStep (s : State) : Out := .next (debugStepTile s s.here.tile)

/-- DEBUG_SSTEP (R277). -/
def execDebugSstep (s : State) : Out := .next (debugSstepTile s s.here.tile)

/-- DEBUG_REG_READ (R278). -/
def execDebugRegRead (sel : Word) (s : State) : Out := .next (debugRead s s.here.tile sel)

/-- DEBUG_REG_WRITE (R278). -/
def execDebugRegWrite (sel : Word) (s : State) : Out := .next (debugWrite s s.here.tile sel)

end Sys2Proof.Machine
end

