-- ==== Sys2Proof/Machine/Ring.lean ====
section
/-! DEFINITION. The Lantern ring's injectors: the shelf list and RPACE (R115-R119), presentation, hand-overs and laps (R120-R122), pace
(R130-R133), re-reads (R135) and a lane's restart (R21). -/

namespace Sys2Proof.Machine

/-! Lanes. -/

/-- A lane of the ring. -/
def State.lane (s : State) (l : Nat) : Lane := sparseGet Lane.silent s.ring.lanes l

/-- A lane of the ring changed. -/
def State.updLane (s : State) (l : Nat) (f : Lane → Lane) : State :=
  { s with ring := { s.ring with lanes := sparseSet Lane.silent s.ring.lanes l (f (s.lane l)) } }

/-- The layers of a lane in lap order (R115). -/
def laneLayers (x : Shelf) (l : Nat) : List Layer := x.layers.filter (fun y => decide (y.lane = l))

/-- The layers of a lane in the list in force. -/
def Lane.layers (x : Lane) (l : Nat) : List Layer :=
  match x.shelf with
  | some y => laneLayers y l
  | none => []

/-- The layer at a lane's present place. -/
def Lane.layer (x : Lane) (l : Nat) : Option Layer := (x.layers l)[x.layerPos]?

/-! Folios. -/

/-- The shelf copy of a folio (R119). -/
def shelfBytes (s : State) (home : Nat) (f : Folio) : List Byte := s.getBytes (areaKey .shelf home (f.coff * 256)) f.len

/-- Bytes cut into beats of 256, the last padded with zeroes (R112). -/
def payloadBeats (b : List Byte) : List (BeatKind × List Byte) :=
  (List.range ((b.length + 255) / 256)).map (fun i => (.payload, exactly 256 (b.drop (256 * i))))

/-- The beats of a folio (R112, R113, R114). -/
def folioBeats (h : FolioHeader) (payload : List Byte) : List (BeatKind × List Byte) :=
  let hb := h.bytes
  (.header, hb) :: payloadBeats payload ++ [(.trailer, leBytes 8 (crc64 (hb ++ payload)))]

/-- The header of folio `j` of a layer (R113). -/
def folioHeader (x : Lane) (l : Nat) (y : Layer) (j : Nat) (f : Folio) : FolioHeader :=
  { lap := x.lap % 2 ^ 32, index := j, layer := y.layer, fcount := y.folios.length, src := y.home, lane := l, ghost := false,
    last := decide (j + 1 = y.folios.length), suspect := f.suspect, poison := f.poison, len := f.len,
    sgen := match x.shelf with
      | some z => z.sgen
      | none => 0 }

/-- The ghost folio of a layer (R112, R132). -/
def ghostHeader (x : Lane) (l : Nat) (y : Layer) : FolioHeader :=
  { folioHeader x l y 0 ⟨0, 0, 0, false, false⟩ with ghost := true, last := true }

/-- Folio `j` of the present layer made ready to be presented from a step on. -/
def loadFolio (s : State) (l j at_ : Nat) : State :=
  let x := s.lane l
  match x.layer l with
  | some y =>
    (match y.folios[j]? with
    | some f => s.updLane l (fun x => { x with
        queue := folioBeats (folioHeader x l y j f) (shelfBytes s y.home f), folioPos := j, beatAt := at_ })
    | none => s)
  | none => s

/-! Hand-overs (R120). -/

/-- The step of the hand-over to a stop after a trailer presented at a stop in a step. -/
def handStep (p : Part) (step a b : Nat) : Nat := step + 4 + (if a = b then 0 else ringDist p a b)

/-- A lane before lap `n`, of which nothing has been presented: it changes to a list that waits for it (R118), or falls silent. -/
def lapTo (l n : Nat) (x : Lane) : Lane :=
  let y : Lane := { x with shelf := if x.next.isSome then x.next else x.shelf, next := none, layerPos := 0, lap := n, begun := false }
  if (y.layers l).isEmpty then { y with shelf := none, handAt := none, lap := n - 1 } else y

/-- A lane at the end of a lap (R118). Its lap boundary is the step of the lap's last trailer: a list whose fills end between that trailer
and the next hand-over waits one lap more (the model's choice, log entry 117). -/
def lapEnd (l : Nat) (x : Lane) : Lane := lapTo l (x.lap + 1) x

/-- The last trailer of a layer presented at a stop in a step: the place moves on, and the next hand-over is due. -/
def layerEnd (s : State) (l stop step : Nat) : State :=
  let x := s.lane l
  let y : Lane := if x.layerPos + 1 < (x.layers l).length then { x with layerPos := x.layerPos + 1 } else lapEnd l x
  s.updLane l (fun _ => { y with
    queue := [], handAt := (y.layer l).map (fun z => handStep s.part step stop (stopOfMpt z.home)) })

/-- Whether the hand-over to a lane's present layer is the trailer of another injector (R120, R122): an error in flight can hide it. -/
def fromAfar (x : Lane) (l : Nat) : Bool :=
  let ls := x.layers l
  let before := if x.layerPos = 0 then ls.getLast? else ls[x.layerPos - 1]?
  match before, x.layer l with
  | some y, some z => x.started && decide (y.home ≠ z.home)
  | _, _ => false

/-- Whether a folio of a layer is being re-read (R135). -/
def rereading (s : State) (layer : Nat) : Bool := s.ring.reread.any (fun e => decide (e.1 = layer))

/-- The arm count of a layer (R132). -/
def armCount (s : State) (layer : Nat) : Nat := sparseGet 0 s.ring.arms layer

/-- An arm count changed by a notice (R132). -/
def countArm (layer : Nat) (release : Bool) (s : State) : State :=
  let n := armCount s layer
  { s with ring := { s.ring with arms := sparseSet 0 s.ring.arms layer (if release then n - 1 else n + 1) } }

/-- Whether a notice cannot reach the MPT it is sent to (R21, R132). -/
def noticeBlocked (s : State) (p : Packet) : Bool :=
  match p.src, p.dst with
  | .tile t, .mpt m => sideBlocked s (stopOfTile t) (stopOfMpt m)
  | _, _ => false

/-- Whether a packet is a notice for a layer that has been under way for L + 32 steps by a step (R132). -/
def noticeDue (s : State) (layer h : Nat) (p : Packet) : Bool :=
  match p.body with
  | .arm y _ sent => decide (y = layer) && decide (sent + s.part.loop + 32 ≤ h) && !noticeBlocked s p
  | _ => false

/-- The notices for a layer that have reached its injector by a step (R132). -/
def takeNotices (layer h : Nat) (s : State) : State :=
  (s.traffic.filter (noticeDue s layer h)).foldl (fun s p => match p.body with
    | .arm y release _ => countArm y release ((s.dropPacket p.id).unsend p.id)
    | _ => s) s

/-- A hand-over of a layer in a step: folio 0, or under EXPRESS a ghost where no tap is armed (R120, R132). -/
def handOver (s : State) (l h : Nat) (y : Layer) : State :=
  let s := takeNotices y.layer h (s.updLane l (fun x => { x with handAt := none, begun := true, started := true }))
  if (s.ring.paceAt h).2 && decide (armCount s y.layer = 0) then
    s.updLane l (fun x => { x with queue := folioBeats (ghostHeader x l y) [], folioPos := y.folios.length - 1, beatAt := h + 1 })
  else loadFolio s l 0 (h + 1)

/-- HAND_OVER (R120, R132, R135): of the lane of the item, once its step has come and no folio of the layer is being re-read. The slot
tells that an error in flight hides it (R122). -/
def execHandOver (s : State) : Out :=
  let l := s.here.item
  let x := s.lane l
  match x.handAt, x.layer l with
  | some h, some y =>
    if s.ring.step < h ∨ x.down then .next s
    else if s.here.slot ≠ 0 ∧ fromAfar x l then .next (s.updLane l (fun x => { x with handAt := none }))
    else if rereading s y.layer then .next s
    else .next (handOver s l h y)
  | _, _ => .next s

/-! Presentation (R120). -/

/-- Whether a tap that takes or may take a layer has yet to see a beat. -/
def awaited (s : State) (b : Beat) : Bool :=
  s.taps.any (fun e => (decide (e.2.state = .armed) || decide (e.2.state = .capture) || decide (e.2.state = .hold))
    && b.arrived s (stopOfTile e.1) && decide (sparseGet 0 e.2.seen b.lane ≤ b.serial))

/-- The stop of a lane's first injector. -/
def firstStop (x : Lane) (l : Nat) : Option Nat := ((x.layers l).head?).map (fun y => stopOfMpt y.home)

/-- The step at which a beat of a lane last passed its first injector's stop (R122). -/
def lastPassed (s : State) (l stop : Nat) : Nat :=
  (s.ring.beats.filter (fun b => decide (b.lane = l))).foldl (fun m b =>
    let m := if b.stop = stop then max m b.step else m
    if b.arrived s stop then max m (b.arrival s.part stop) else m) (s.lane l).passedAt

/-- The headers of a lane that may be the last one presented at some stop, with one more taken off (R128): one that was lost at no crossing
was presented at every stop. -/
def goneHeader (b : Beat) (gone : List Beat) : List Beat := if b.lostAt.isNone then [b] else b :: gone

/-- The beats of a lane taken off by their injectors on their return: what is known of them stays (R122, R128). -/
def takeOff (s : State) (l : Nat) : State :=
  let off (b : Beat) : Bool := decide (b.lane = l) && decide (b.step + s.part.loop ≤ s.ring.step) && !awaited s b
  let gone := s.ring.beats.filter off
  if gone.isEmpty then s
  else
    let passed := match firstStop (s.lane l) l with
      | some stop => lastPassed s l stop
      | none => (s.lane l).passedAt
    let heads := gone.filter (fun b => decide (b.kind = .header))
    let s : State := { s with ring := { s.ring with beats := s.ring.beats.filter (fun b => !off b) } }
    s.updLane l (fun x => { x with passedAt := passed, gone := heads.foldl (fun g b => goneHeader b g) x.gone })

/-- A beat put on the ring in its step. -/
def putBeat (s : State) (l stop step : Nat) (first : Bool) (k : BeatKind) (d : List Byte) : State :=
  let x := s.lane l
  let s : State := { s with ring := { s.ring with beats := s.ring.beats ++ [⟨l, x.serial, k, stop, step, first, d, none⟩] } }
  s.updLane l (fun x => { x with serial := x.serial + 1, queue := x.queue.tail, beatAt := step + 1 })

/-- INJECT_BEAT (R120): the next beat of the lane of the item, in its step; after a folio's trailer the next folio follows without a gap,
and after a layer's last one the next hand-over is due. -/
def execInjectBeat (s : State) : Out :=
  let l := s.here.item
  let s := takeOff s l
  let x := s.lane l
  match x.queue, x.layer l with
  | (k, d) :: _, some y =>
    if s.ring.step < x.beatAt ∨ x.down then .next s
    else
      let step := x.beatAt
      let stop := stopOfMpt y.home
      let first := decide (k = .header) && decide (x.layerPos = 0) && decide ((headerOf d).index = 0)
      let s := putBeat s l stop step first k d
      if k ≠ .trailer then .next s
      else if x.folioPos + 1 < y.folios.length then .next (loadFolio s l (x.folioPos + 1) (step + 1))
      else .next (layerEnd s l stop step)
  | _, _ => .next s

/-! The shelf list (R115-R118). -/

/-- A word of the shelf list or a folio table as it stands. -/
def listAt (s : State) (pa : Nat) : Word := s.paWord pa

/-- The folio at an entry of a folio table (R116); its marks are cleared by the fill (R118). -/
def readFolio (s : State) (pa : Nat) : Folio × Bool :=
  let w0 := listAt s pa
  let w1 := listAt s (pa + 8)
  (⟨field w0 16 16, (field w0 0 10 + 1) * 64, field w1 8 44 * 256, false, false⟩,
   decide (field w0 32 30 = 0) && decide (field w0 10 6 = 0) && decide (field w1 52 12 = 0) && decide (field w1 0 8 = 0))

/-- The layer at an entry of the shelf list (R115), and whether its fields are legal (R117). -/
def readLayer (s : State) (pa : Nat) : Layer × Bool :=
  let w0 := listAt s pa
  let w1 := listAt s (pa + 8)
  let ftab := field w1 8 44 * 256
  let n := field w0 32 12
  let fs := (List.range n).map (fun j => readFolio s (ftab + 16 * j))
  (⟨field w0 0 16, field w0 24 7, field w0 16 3, ftab, fs.map (fun f => f.1)⟩,
   decide (n ≠ 0) && fs.all (fun f => f.2) && decide (field w0 44 20 = 0) && decide (field w0 31 1 = 0) && decide (field w0 19 5 = 0)
     && decide (field w1 52 12 = 0) && decide (field w1 0 8 = 0) && decide (field w0 24 7 < s.part.mpts)
     && decide ((fs.map (fun f => f.1.len)).sum ≤ 2 ^ 31))

/-- The shelf copies of a list: HOME, first byte and length. -/
def shelfCopies (ls : List Layer) : List (Nat × Nat × Nat) := ls.flatMap (fun y => y.folios.map (fun f => (y.home, f.coff * 256, f.len)))

/-- Whether no two copies in one shelf area overlap (R117). -/
def copiesApart : List (Nat × Nat × Nat) → Bool
  | [] => true
  | c :: cs =>
    cs.all (fun d => decide (d.1 ≠ c.1) || decide (d.2.1 + d.2.2 ≤ c.2.1) || decide (c.2.1 + c.2.2 ≤ d.2.1)) && copiesApart cs

/-- Whether no two layers share an id (R117). -/
def idsApart : List Layer → Bool
  | [] => true
  | y :: ys => ys.all (fun z => decide (z.layer ≠ y.layer)) && idsApart ys

/-- The shelf list at an address, none where it is malformed (R117). -/
def readShelf (s : State) (pa : Nat) : Option Shelf :=
  let w0 := listAt s pa
  let n := field w0 0 12
  let ls := (List.range n).map (fun i => readLayer s (pa + 64 + 16 * i))
  let layers := ls.map (fun e => e.1)
  let copies := shelfCopies layers
  let ok := decide (n ≠ 0) && decide (field w0 12 20 = 0) && (List.range 7).all (fun i => decide (listAt s (pa + 8 + 8 * i) = 0))
    && ls.all (fun e => e.2) && idsApart layers
    && copies.all (fun c => decide (c.2.1 + c.2.2 ≤ carveBytes (s.mpt c.1).carve 4)) && copiesApart copies
  if ok then some ⟨field w0 32 32, layers⟩ else none

/-- Whether a byte of a backing copy is poisoned, or lies at an address that holds no memory (log entry 29). -/
def backingBad (s : State) (f : Folio) : Bool := (List.range (f.len / 8)).any (fun i => (paKey s (f.back + 8 * i)).isNone || s.paPoisoned (f.back + 8 * i))

/-- Folds before each backing word is read (R104). -/
def foldBacking (f : Folio) (s : State) : State :=
  (List.range (f.len / 8)).foldl (fun s i => match paKey s (f.back + 8 * i) with
    | some k => s.fold (f.back + 8 * i) k
    | none => s) s

/-- A shelf copy filled from its backing bytes (R118, R119). -/
def fillCopy (home : Nat) (f : Folio) (s : State) : State :=
  let s := foldBacking f s
  let ws := (List.range (f.len / 8)).map (fun i => s.paWord (f.back + 8 * i))
  s.putBytes (areaKey .shelf home (f.coff * 256)) (ws.flatMap (fun w => leBytes 8 w.toNat))

/-- SUSPECT and POISON of a folio's entry in memory (R116): the entry is read, and folds first (R104). -/
def markEntry (y : Layer) (j : Nat) (suspect poison : Bool) (s : State) : State :=
  let pa := y.ftab + 16 * j
  let s := s.foldPa pa
  let w := s.paWord pa
  s.suWrite pa (setField w 62 2 (bit suspect * 2 + bit poison))

/-- A folio filled (R118): its marks, and the machine check of one whose backing is poisoned. -/
def fillFolio (y : Layer) (j : Nat) (f : Folio) (s : State) : Folio × State :=
  let s := fillCopy y.home f s
  let bad := backingBad s f
  let s := markEntry y j false bad s
  ({ f with suspect := false, poison := bad }, if bad then s.machineCheckAll 9 y.home (word f.back) else s)

/-- The folios of a layer filled, from folio `j` on. -/
def fillFolios (y : Layer) : List Folio → Nat → State → List Folio × State
  | [], _, s => ([], s)
  | f :: fs, j, s =>
    let r := fillFolio y j f s
    let q := fillFolios y fs (j + 1) r.2
    (r.1 :: q.1, q.2)

/-- The layers of a list filled. -/
def fillLayers : List Layer → State → List Layer × State
  | [], s => ([], s)
  | y :: ys, s =>
    let r := fillFolios y y.folios 0 s
    let q := fillLayers ys r.2
    ({ y with folios := r.1 } :: q.1, q.2)

/-- A list takes effect on a silent lane now, and waits for the lap boundary of another (R118, R120). The hand-over of its first layer is
this step, and the lap-0 header follows in the next one, which is step 0 of R440's table (log entry 31). -/
def offerList (x : Shelf) (s : State) (l : Nat) : State :=
  let y := s.lane l
  if y.shelf.isSome then s.updLane l (fun y => { y with next := some x })
  else if (laneLayers x l).isEmpty then s
  else s.updLane l (fun y => { y with
    shelf := some x, next := none, layerPos := 0, lap := if y.started then y.lap + 1 else 0, passedAt := s.ring.step,
    handAt := if y.down then none else some s.ring.step, begun := false, queue := [] })

/-- RPACE_LIST_FILL_COMPLETE (R118). -/
def execRpaceListFillComplete (s : State) : Out :=
  match s.ring.filling with
  | none => .next s
  | some x =>
    let r := fillLayers x.layers s
    let s : State := { r.2 with ring := { r.2.ring with filling := none } }
    .next ((List.range 8).foldl (offerList { x with layers := r.1 }) s)

/-- Words folded before they are read (R104). -/
def foldWords (pa n : Nat) (s : State) : State := (List.range n).foldl (fun s i => s.foldPa (pa + 8 * i)) s

/-- The shelf list at an address and its folio tables folded before they are read (R104, R118). -/
def foldShelf (pa : Nat) (s : State) : State :=
  let s := foldWords pa 8 s
  let n := field (listAt s pa) 0 12
  let s := foldWords (pa + 64) (2 * n) s
  (List.range n).foldl (fun s i =>
    let w0 := listAt s (pa + 64 + 16 * i)
    foldWords (field (listAt s (pa + 72 + 16 * i)) 8 44 * 256) (2 * field w0 32 12) s) s

/-- A LOAD of RPACE (R118): refused, or the list to be filled, which replaces one that a lane has not yet taken. -/
def loadShelf (pa : Nat) (s0 : State) : State :=
  let s := foldShelf pa s0
  match readShelf s pa with
  | some x =>
    let s : State := (List.range 8).foldl (fun s l => s.updLane l (fun y => { y with next := none })) s
    { s with ring := { s.ring with filling := some x } }
  | none =>
    let u := s.freeWord
    u.2.machineCheckAll 9 (field u.1 0 16) (word pa)

/-- The pace of an operand, to take effect in the next ring cycle (R118, R133). -/
def setPace (v : Word) (s : State) : State := { s with ring := { s.ring with pace := some (flag v 0, flag v 1) } }

/-- RPACE (R118, R424). The pace changes also where the LOAD is refused (the model's choice, log entry 117). -/
def execRpace (a : SReg) (s : State) : Out :=
  coreOp s (fun s0 =>
    privileged 2 (.rpace a) 0 s0
    ((readS a s0).andThen (fun v s =>
      needs (s0.settled s0.here.tile s0.me.uid) .drain
      (let s := setPace v s
       .go () (retire (if flag v 3 then loadShelf (field v 12 40 * 4096) s else s))))))

/-! Restarts (R21, R122). -/

/-- A lane's next lap begun at once (R122): what is left of the broken one is not presented. A lap of which nothing has been presented
is that next lap itself: its LAP was counted with the trailer before its hidden hand-over. -/
def restartLane (l : Nat) (s : State) : State :=
  s.updLane l (fun x =>
    let y := lapTo l (if x.begun then x.lap + 1 else x.lap) { x with queue := [] }
    { y with handAt := if (y.layers l).isEmpty then none else some s.ring.step, passedAt := s.ring.step })

/-- LANE_RESTART (R122): of the lane of the item. -/
def execLaneRestart (s : State) : Out :=
  let l := s.here.item
  let x := s.lane l
  match firstStop x l with
  | some stop =>
    if !x.down && x.started && decide (lastPassed s l stop + 2 * s.part.loop + 65536 ≤ s.ring.step) then
      .next ((restartLane l s).machineCheckAll 9 l (word l))
    else .next s
  | none => .next s

/-- Whether a module of a lane is down at some crossing (R21). -/
def laneCut (s : State) (l : Nat) : Bool :=
  s.links.moduleDown.any (fun m => match moduleLane m with
    | some x => decide (x.1 = l)
    | none => false)

/-- UCIE_RETRAIN_COMPLETE (R20, R21): a ring lane all of whose modules are up again restarts. -/
def execUcieRetrainComplete (xmodule : Nat) (s : State) : Out :=
  if !(s.links.moduleDown.contains xmodule) then .next s
  else
    let s : State := { s with links := { s.links with
      moduleDown := keyErase s.links.moduleDown xmodule, moduleRetry := sparseSet 0 s.links.moduleRetry xmodule 0 } }
    match moduleLane xmodule with
    | some x =>
      if laneCut s x.1 then .next s
      else
        let s := s.updLane x.1 (fun y => { y with down := false })
        if (s.lane x.1).shelf.isSome then .next (restartLane x.1 s) else .next s
    | none => .next s

/-! Notices and re-reads (R132, R135). -/

/-- ARM_NOTICE_ARRIVE (R132): within L + 32 steps; a hand-over after that finds it arrived. -/
def execArmNoticeArrive (s : State) : Out :=
  onPacket s (fun p s =>
    match p.body with
    | .arm layer release _ => if noticeBlocked s p then none else some (countArm layer release s)
    | _ => none)

/-- The layer of an id in the list in force of some lane. -/
def layerOf (s : State) (layer : Nat) : Option Layer :=
  (s.ring.lanes.flatMap (fun e => e.2.layers e.1)).find? (fun y => decide (y.layer = layer))

/-- A hand-over of a layer that came before this step, and is yet to be performed. -/
def overdue (layer : Nat) (s : State) (l : Nat) : State :=
  let x := s.lane l
  match x.handAt, x.layer l with
  | some h, some y =>
    if h < s.ring.step ∧ y.layer = layer ∧ !x.down ∧ !(rereading s layer) then handOver s l h y else s
  | _, _ => s

/-- TAP_REPORT (R135): the first report of a folio begins its re-read. A hand-over of its layer that came before is over. -/
def execTapReport (s : State) : Out :=
  onPacket s (fun p s =>
    match p.body, p.dst with
    | .report layer index _, .mpt m =>
      (match layerOf s layer with
      | some y =>
        if y.home = m ∧ index < y.folios.length ∧ !(s.ring.reread.contains (layer, index)) then
          let s := (List.range 8).foldl (overdue layer) s
          some { s with ring := { s.ring with reread := s.ring.reread ++ [(layer, index)] } }
        else some s
      | none => some s)
    | _, _ => none)

/-- A folio of a list in force changed. -/
def updFolio (layer j : Nat) (g : Folio) (x : Shelf) : Shelf :=
  { x with layers := x.layers.map (fun y => if y.layer = layer then { y with folios := y.folios.set j g } else y) }

/-- A re-read performed (R135): the copy, SUSPECT, and POISON where the backing is poisoned. -/
def rereadFolio (y : Layer) (j : Nat) (f : Folio) (s : State) : State :=
  let s := fillCopy y.home f s
  let bad := backingBad s f
  let g : Folio := { f with suspect := true, poison := f.poison || bad }
  let s := markEntry y j true g.poison s
  let s : State := { s with ring := { s.ring with
    lanes := s.ring.lanes.map (fun e => (e.1, { e.2 with shelf := e.2.shelf.map (updFolio y.layer j g) })) } }
  if bad then s.machineCheckAll 9 y.home (word f.back) else s

/-- A hand-over of a layer that came during its re-read takes place in the step in which the re-read ends (R135, R443). -/
def releaseWait (layer : Nat) (s : State) (l : Nat) : State :=
  let x := s.lane l
  match x.handAt, x.layer l with
  | some h, some y =>
    if h < s.ring.step ∧ y.layer = layer ∧ !(rereading s layer) then s.updLane l (fun x => { x with handAt := some s.ring.step }) else s
  | _, _ => s

/-- REREAD_COMPLETE (R135). -/
def execRereadComplete (layer index : Nat) (s : State) : Out :=
  if !(s.ring.reread.contains (layer, index)) then .next s
  else
    let s : State := { s with ring := { s.ring with reread := s.ring.reread.filter (fun e => decide (e ≠ (layer, index))) } }
    let s := match layerOf s layer with
      | some y => (match y.folios[index]? with
        | some f => rereadFolio y index f s
        | none => s)
      | none => s
    .next ((List.range 8).foldl (releaseWait layer) s)

end Sys2Proof.Machine
end

