-- ==== Sys2Proof/Machine/Scalar.lean ====
section
/-! DEFINITION. The scalar instructions (R304-R311): majors 0x01-0x0C and the wide constant loads. -/

namespace Sys2Proof.Machine

/-- ADD (R306). -/
def execAdd (d a b : SReg) (s : State) : Out := scalar3 d a b 1 (fun x y => .ok (x + y)) s

/-- SUB (R306). -/
def execSub (d a b : SReg) (s : State) : Out := scalar3 d a b 1 (fun x y => .ok (x - y)) s

/-- MUL (R306). -/
def execMul (d a b : SReg) (s : State) : Out := scalar3 d a b 3 (fun x y => .ok (x * y)) s

/-- MULH (R306). -/
def execMulh (d a b : SReg) (s : State) : Out := scalar3 d a b 3 (fun x y => .ok (wordOfInt (signed x * signed y / 2 ^ 64))) s

/-- MULHN (R306). -/
def execMulhn (d a b : SReg) (s : State) : Out := scalar3 d a b 3 (fun x y => .ok (word (x.toNat * y.toNat / 2 ^ 64))) s

/-- AND (R306). -/
def execAnd (d a b : SReg) (s : State) : Out := scalar3 d a b 1 (fun x y => .ok (x &&& y)) s

/-- OR (R306). -/
def execOr (d a b : SReg) (s : State) : Out := scalar3 d a b 1 (fun x y => .ok (x ||| y)) s

/-- XOR (R306). -/
def execXor (d a b : SReg) (s : State) : Out := scalar3 d a b 1 (fun x y => .ok (x ^^^ y)) s

/-- ANDN (R306). -/
def execAndn (d a b : SReg) (s : State) : Out := scalar3 d a b 1 (fun x y => .ok (x &&& ~~~y)) s

/-- ORN (R306). -/
def execOrn (d a b : SReg) (s : State) : Out := scalar3 d a b 1 (fun x y => .ok (x ||| ~~~y)) s

/-- SHL (R306): by B[5:0]. -/
def execShl (d a b : SReg) (s : State) : Out := scalar3 d a b 1 (fun x y => .ok (x <<< field y 0 6)) s

/-- SHR (R306): by B[5:0]. -/
def execShr (d a b : SReg) (s : State) : Out := scalar3 d a b 1 (fun x y => .ok (x >>> field y 0 6)) s

/-- SRA (R306): by B[5:0]. -/
def execSra (d a b : SReg) (s : State) : Out := scalar3 d a b 1 (fun x y => .ok (x.sshiftRight (field y 0 6))) s

/-- ROL (R306): by B[5:0]. -/
def execRol (d a b : SReg) (s : State) : Out := scalar3 d a b 1 (fun x y => .ok (x.rotateLeft (field y 0 6))) s

/-- MIN (R306): signed. -/
def execMin (d a b : SReg) (s : State) : Out := scalar3 d a b 1 (fun x y => .ok (if signed y < signed x then y else x)) s

/-- MAX (R306): signed. -/
def execMax (d a b : SReg) (s : State) : Out := scalar3 d a b 1 (fun x y => .ok (if signed x < signed y then y else x)) s

/-- MINN (R306): unsigned. -/
def execMinn (d a b : SReg) (s : State) : Out := scalar3 d a b 1 (fun x y => .ok (if y < x then y else x)) s

/-- MAXN (R306): unsigned. -/
def execMaxn (d a b : SReg) (s : State) : Out := scalar3 d a b 1 (fun x y => .ok (if x < y then y else x)) s

/-- SLT (R306): signed. -/
def execSlt (d a b : SReg) (s : State) : Out := scalar3 d a b 1 (fun x y => .ok (boolWord (decide (signed x < signed y)))) s

/-- SLTN (R306): unsigned. -/
def execSltn (d a b : SReg) (s : State) : Out := scalar3 d a b 1 (fun x y => .ok (boolWord (decide (x < y)))) s

/-- SEQ (R306). -/
def execSeq (d a b : SReg) (s : State) : Out := scalar3 d a b 1 (fun x y => .ok (boolWord (decide (x = y)))) s

/-- The quotient of R307: truncated towards zero, wrapping. -/
def quotWord (x y : Word) : Word := wordOfInt ((signed x).tdiv (signed y))

/-- The remainder of R307: with the sign of the dividend. -/
def remWord (x y : Word) : Word := wordOfInt (signed x - signed y * (signed x).tdiv (signed y))

/-- The division form (R305, R307): not ready while the divider is busy; a zero divisor raises ZERODIV and leaves the divider
free; otherwise the divider is busy for 24 cycles. -/
def divideOp (d a b : SReg) (f : Word → Word → Word) (s : State) : Out :=
  coreOp s (fun s =>
    needs (decide (s.hereTile.divUntil ≤ s.cycle)) .unit
    (roomS d s
    ((readS a s).andThen (fun x s =>
      (readS b s).andThen (fun y s =>
        trapsIf (decide (y = 0)) (trapOf .zerodiv 0 0)
        (done d (f x y) 24 4 (s.updHere (fun t => { t with divUntil := s.cycle + 24 }))))))))

/-- DIV (R307). -/
def execDiv (d a b : SReg) (s : State) : Out := divideOp d a b (fun x y => quotWord x y) s

/-- DIVN (R307). -/
def execDivn (d a b : SReg) (s : State) : Out := divideOp d a b (fun x y => word (x.toNat / y.toNat)) s

/-- REM (R307). -/
def execRem (d a b : SReg) (s : State) : Out := divideOp d a b (fun x y => remWord x y) s

/-- REMN (R307). -/
def execRemn (d a b : SReg) (s : State) : Out := divideOp d a b (fun x y => word (x.toNat % y.toNat)) s

/-- A signed result that must fit in 64 bits (R308). -/
def checkedWord (i : Int) : Val Word :=
  if i < -(2 ^ 63) ∨ 2 ^ 63 - 1 < i then .error (trapOf .overflow 0 0) else .ok (wordOfInt i)

/-- ADDV (R308). -/
def execAddv (d a b : SReg) (s : State) : Out := scalar3 d a b 1 (fun x y => checkedWord (signed x + signed y)) s

/-- SUBV (R308). -/
def execSubv (d a b : SReg) (s : State) : Out := scalar3 d a b 1 (fun x y => checkedWord (signed x - signed y)) s

/-- Leading zero bits of the low `n` bits (R306). -/
def clzFrom (x : Nat) : Nat → Nat
  | 0 => 0
  | n + 1 => if x / 2 ^ n % 2 = 1 then 0 else 1 + clzFrom x n

/-- Trailing zero bits of `n` bits (R306). -/
def ctzFrom (x : Nat) : Nat → Nat
  | 0 => 0
  | n + 1 => if x % 2 = 1 then 0 else 1 + ctzFrom (x / 2) n

/-- One bits of `n` bits (R306). -/
def popFrom (x : Nat) : Nat → Nat
  | 0 => 0
  | n + 1 => x % 2 + popFrom (x / 2) n

/-- CLZ (R306): 64 when A is 0. -/
def execClz (d a : SReg) (s : State) : Out := scalar2 d a (fun x => word (clzFrom x.toNat 64)) s

/-- CTZ (R306): 64 when A is 0. -/
def execCtz (d a : SReg) (s : State) : Out := scalar2 d a (fun x => word (ctzFrom x.toNat 64)) s

/-- POPC (R306). -/
def execPopc (d a : SReg) (s : State) : Out := scalar2 d a (fun x => word (popFrom x.toNat 64)) s

/-- SEL (R306): A if bit 0 of the predicate is 1, else B. -/
def execSel (d a b : SReg) (k : Nat) (s : State) : Out :=
  coreOp s (fun s =>
    roomS d s
    ((readS a s).andThen (fun x s =>
      (readS b s).andThen (fun y s =>
        (readK k s).andThen (fun m s => done d (if flag m 0 then x else y) 1 4 s)))))

/-- The field that BFX extracts (R310). -/
def bfxWord (x : Word) (p n : Nat) : Word := word (field x p n)

/-- The value that BFI writes (R310): `n` low bits of A put at position `p` of the old value. -/
def bfiWord (x old : Word) (p n : Nat) : Word :=
  let mask := word ((2 ^ n - 1) * 2 ^ p)
  (old &&& ~~~mask) ||| word (field x 0 n * 2 ^ p)

/-- BFX (R310). -/
def execBfx (d a : SReg) (p n : Nat) (s : State) : Out := scalar2 d a (fun x => bfxWord x p n) s

/-- BFI (R310): d is read after a, then written. -/
def execBfi (d a : SReg) (p n : Nat) (s : State) : Out :=
  coreOp s (fun s => roomS d s ((readS a s).andThen (fun x s => readWrite d (fun old => bfiWord x old p n) 4 s)))

/-- A sign-extended 15-bit immediate (R287). -/
def simm15 (imm : BitVec 15) : Word := sext imm.toNat 15

/-- A zero-extended 15-bit immediate (R287). -/
def zimm15 (imm : BitVec 15) : Word := word imm.toNat

/-- ADDI (R309). -/
def execAddi (d a : SReg) (imm : BitVec 15) (s : State) : Out := scalar2 d a (fun x => x + simm15 imm) s

/-- ANDI (R309): a sign-extended mask. -/
def execAndi (d a : SReg) (imm : BitVec 15) (s : State) : Out := scalar2 d a (fun x => x &&& simm15 imm) s

/-- ORI (R309): a zero-extended mask. -/
def execOri (d a : SReg) (imm : BitVec 15) (s : State) : Out := scalar2 d a (fun x => x ||| zimm15 imm) s

/-- XORI (R309): a zero-extended mask. -/
def execXori (d a : SReg) (imm : BitVec 15) (s : State) : Out := scalar2 d a (fun x => x ^^^ zimm15 imm) s

/-- SHLI (R309). -/
def execShli (d a : SReg) (n : BitVec 6) (s : State) : Out := scalar2 d a (fun x => x <<< n.toNat) s

/-- SHRI (R309). -/
def execShri (d a : SReg) (n : BitVec 6) (s : State) : Out := scalar2 d a (fun x => x >>> n.toNat) s

/-- SRAI (R309). -/
def execSrai (d a : SReg) (n : BitVec 6) (s : State) : Out := scalar2 d a (fun x => x.sshiftRight n.toNat) s

/-- SLTI (R309). -/
def execSlti (d a : SReg) (imm : BitVec 15) (s : State) : Out :=
  scalar2 d a (fun x => boolWord (decide (signed x < signed (simm15 imm)))) s

/-- The 20-bit value of a J-format constant, times 2^12 (R287). -/
def upper20 (off : BitVec 20) : Word := wordOfInt (sextInt off.toNat 20 * 4096)

/-- LUI (R309). -/
def execLui (d : SReg) (off : BitVec 20) (s : State) : Out := scalar1 d 4 (fun _ => upper20 off) s

/-- ADDPC (R309): relative to its own address. -/
def execAddpc (d : SReg) (off : BitVec 20) (s : State) : Out := scalar1 d 4 (fun s => s.me.pc + upper20 off) s

/-- LI (R311): two words long. -/
def execLi (d : SReg) (imm : BitVec 32) (s : State) : Out := scalar1 d 8 (fun _ => sext imm.toNat 32) s

/-- The value that LIH writes (R311): the old low half under a new high half. -/
def lihWord (old : Word) (imm : BitVec 32) : Word := word (field old 0 32 + imm.toNat * 2 ^ 32)

/-- LIH (R311): two words long; d is read, then written. -/
def execLih (d : SReg) (imm : BitVec 32) (s : State) : Out :=
  coreOp s (fun s => roomS d s (readWrite d (fun old => lihWord old imm) 8 s))

end Sys2Proof.Machine
end

