-- ==== Sys2Proof/Machine/Taps.lean ====
section
/-! DEFINITION. Ring taps: windows and folios as they pass (R123-R129, R136), the ring's stall (R130, R131), check failures (R134, R135)
and lanes that fall silent or go down (R21, R127). -/

namespace Sys2Proof.Machine

/-! Faults (R134, R135). -/

/-- The index of the folio that fails under a tap: the one under way, else the next of its window, else folio 0 of the next window. -/
def Tap.failsAt (x : Tap) : Nat := if !x.taking then 0 else if x.folio.isEmpty then x.index + 1 else x.index

/-- A tap faulted at a folio: the folio under way is dropped, and what it has released stays to be read. The fault point is where a
save would have the tap resume (R138). One in HOLD is saved and never faults for its thread (R129): it stays in HOLD, takes no further
folio, and q waits beyond its released bytes. -/
def Tap.fault (x : Tap) (reason : Nat) (w0 : Word) (at_ : Nat) : Tap :=
  { x with
    state := if x.state = .hold then .hold else .faulted, reason := reason, failed := w0, folio := [], mid := false,
    resume := if x.resume.isSome then x.resume else some (at_, 0) }

/-- A tap faulted for a reason that names no header: the one of the folio under way, else a free value (log entry 1). -/
def faultUnder (t reason : Nat) (s : State) : State :=
  let x := s.tap t
  if x.folio.isEmpty then
    let r := s.freeWord
    r.2.placeTap t (x.fault reason r.1 x.failsAt)
  else s.placeTap t (x.fault reason (headerWord x.folio 0) x.failsAt)

/-- A tap faulted with CRC or SEQ, and its report to an MPT (R135): LAYER, INDEX and LAP of the header that W0 begins. -/
def faultReport (t reason : Nat) (w0 : Word) (src : Nat) (s : State) : State :=
  let s := s.placeTap t ((s.tap t).fault reason w0 (s.tap t).failsAt)
  s.send .req (.tile t) (.mpt src) (.report (field w0 0 16) (field w0 16 16) (field w0 32 32))

/-- Whether no beat has arrived at a tap's stop on a lane for 2^20 steps since its arm instant (R127). -/
def laneQuiet (s : State) (t l : Nat) : Bool :=
  let x := s.tap t
  decide (max (sparseGet 0 x.beatAt l) x.armed + 2 ^ 20 ≤ s.ring.step)
    && !(s.ring.beats.any (fun b => decide (b.lane = l) && decide (sparseGet 0 x.seen l ≤ b.serial) && b.arrived s (stopOfTile t)))

/-- Whether a tap treats a lane as passed (R127). -/
def lanePassed (s : State) (t l : Nat) : Bool := decide (2 ≤ sparseGet 0 (s.tap t).starts l) || laneQuiet s t l

/-- ABSENT for a tap that is ARMED with every lane passed (R127, R134). -/
def absentCheck (t : Nat) (s : State) : State :=
  let x := s.tap t
  if decide (x.state = .armed) && (List.range 8).all (lanePassed s t) then
    s.placeTap t (x.fault 6 (word (0xFFFF * 2 ^ 16 + x.layer)) 0)
  else s

/-! Beats as they arrive. -/

/-- Whether a tap follows the beats of its stop. -/
def Tap.follows (x : Tap) : Bool := decide (x.state = .armed) || decide (x.state = .capture) || decide (x.state = .hold)

/-- The next beat of a lane that has arrived at a tap's stop. -/
def nextBeat (s : State) (t l : Nat) : Option Beat :=
  if (s.tap t).follows then
    s.ring.beats.find? (fun b => decide (b.lane = l) && decide (sparseGet 0 (s.tap t).seen l ≤ b.serial) && b.arrived s (stopOfTile t))
  else none

/-- A beat that has arrived in a step counted: its place on the lane, when it came, and a lap start after the arm instant (R127). -/
def sawBeat (x : Tap) (b : Beat) (h : Nat) : Tap :=
  { x with
    seen := sparseSet 0 x.seen b.lane (b.serial + 1), beatAt := sparseSet 0 x.beatAt b.lane h,
    starts := if b.first && decide (x.state = .armed) && decide (x.armed ≤ h) then
      sparseSet 0 x.starts b.lane (sparseGet 0 x.starts b.lane + 1) else x.starts }

/-- An event of a beat of a kind on the lane of the item at the tap of its tile, with the step in which it arrived. -/
def onBeat (k : BeatKind) (s : State) (f : Beat → Nat → State → State) : Out :=
  let t := s.here.tile
  match nextBeat s t s.here.item with
  | none => .next s
  | some b =>
    if b.kind ≠ k then .next s
    else
      let h := b.arrival s.part (stopOfTile t)
      .next (absentCheck t (f b h (s.placeTap t (sawBeat (s.tap t) b h))))

/-! Headers (R124, R129). -/

/-- A folio begun in a step: its SGEN where a resumed tap compares it (R138), POISON (R135), and room for it but under pacing (R130, R131). -/
def beginFolio (t h : Nat) (hd : FolioHeader) (d : List Byte) (s : State) : State :=
  let x := s.tap t
  let w0 := headerWord d 0
  if x.checkSgen && decide (x.sgen ≠ hd.sgen) then s.placeTap t (x.fault 7 w0 hd.index)
  else if hd.poison then s.placeTap t (x.fault 5 w0 hd.index)
  else if !(s.ring.paceAt h).1 && decide (x.freeBeats < (hd.len + 255) / 256) then s.placeTap t (x.fault 3 w0 hd.index)
  else s.placeTap t { x with
    index := hd.index, len := hd.len, last := hd.last, src := hd.src, sgen := hd.sgen, folio := d.take 64 }

/-- The window opened in a step (R124, R129). -/
def openWindow (t h l : Nat) (hd : FolioHeader) (d : List Byte) (s : State) : State :=
  let x := s.tap t
  beginFolio t h hd d (s.setTap t { x with
    state := .capture, lane := l, lap := hd.lap, opened := true, frel := 0, checkSgen := x.checkSgen && !x.opened })

/-- A window missed (R124, R125): once for its lap of its lane. -/
def missWindow (t l lap : Nat) (s : State) : State :=
  let x := s.tap t
  if x.missedLap = some (l, lap) then s else s.setTap t { x with missed := x.missed + 1, missedLap := some (l, lap) }

/-- A header at an ARMED tap, in a step (R124, R129, R132). -/
def armedHeader (t h : Nat) (b : Beat) (s : State) : State :=
  let x := s.tap t
  let hd := headerOf b.data
  if hd.layer ≠ x.layer ∨ h < x.armed ∨ (x.opened ∧ b.lane ≠ x.lane) then s
  else if hd.ghost ∨ hd.index ≠ 0 then missWindow t b.lane hd.lap s
  else openWindow t h b.lane hd b.data s

/-- A header on the lane of a tap in CAPTURE, in a step (R129): the next folio of its window, or SEQ, reported to the MPT `src`. -/
def nextHeader (t h : Nat) (b : Beat) (src : Nat) (s : State) : State :=
  let x := s.tap t
  let hd := headerOf b.data
  if hd.layer = x.layer ∧ hd.index = x.index + 1 ∧ hd.lap = x.lap ∧ !hd.ghost then beginFolio t h hd b.data s
  else faultReport t 2 (headerWord b.data 0) src s

/-- A header beat whose LAYER, INDEX and LAP an error in flight has altered (R136): free values (log entry 1). -/
def alteredBeat (b : Beat) (s : State) : Beat × State :=
  let r := s.freeWord
  ({ b with data := leBytes 8 r.1.toNat ++ b.data.drop 8 }, r.2)

/-- TAP_HEADER (R124, R129, R136): of the lane of the item; the slot tells that an error in flight has altered the header, which the
tap takes as it finds it: the folio's CRC or the next header tells. -/
def execTapHeader (s : State) : Out :=
  onBeat .header s (fun b h s =>
    let t := s.here.tile
    let x := s.tap t
    let r := if s.here.slot = 0 then (b, s) else alteredBeat b s
    if x.taking then
      if b.lane ≠ x.lane then s else nextHeader t h r.1 (if s.here.slot = 0 then (headerOf b.data).src else x.src) r.2
    else if x.state = .armed then armedHeader t h r.1 r.2
    else s)

/-- Whether a tap's buffer has no room for the next beat of the folio under way (R126). -/
def Tap.noRoom (x : Tap) : Bool := decide (x.freeBeats = 0) && decide ((x.folio.length - 64) % 256 = 0)

/-- Whether a tap without room leaves the next payload beat of a lane on the ring, which has stalled for it (R131). -/
def beatHeld (s : State) (t l : Nat) : Bool :=
  let x := s.tap t
  match nextBeat s t l with
  | some b => decide (b.kind = .payload) && x.taking && decide (l = x.lane) && !x.folio.isEmpty && x.noRoom
      && (s.ring.paceAt (b.arrival s.part (stopOfTile t))).1
  | none => false

/-- TAP_PAYLOAD_BEAT (R126): the folio's bytes without the padding. A tap never lacks room under pacing (R131); a folio that a change of
pace leaves without room is dropped (R130, R133). -/
def execTapPayloadBeat (s : State) : Out :=
  if beatHeld s s.here.tile s.here.item then .next s
  else
    onBeat .payload s (fun b _ s =>
      let t := s.here.tile
      let x := s.tap t
      if x.taking && decide (b.lane = x.lane) && !x.folio.isEmpty then
        if x.noRoom then faultUnder t 3 s
        else s.placeTap t { x with folio := x.folio ++ b.data.take (x.len + 64 - x.folio.length) }
      else s)

/-! Trailers and releases (R126, R129, R138). -/

/-- A folio whose CRC is good: it waits for its release; after a resume those before the saved place are discarded (R138). -/
def goodFolio (h : Nat) (x : Tap) : Tap :=
  let e := (h + 2, x.laps, x.index, x.folio.drop 64)
  match x.resume with
  | some (i, off) =>
    if x.index < i then { x with folio := [] }
    else { x with folio := [], resume := none, skip := x.skip + off, waiting := x.waiting ++ [e] }
  | none => { x with folio := [], waiting := x.waiting ++ [e] }

/-- The end of a window (R129, R132): ARMED for the next, or DONE with the release notice; one in HOLD opens none. -/
def windowEnd (t : Nat) (s : State) : State :=
  let x := s.tap t
  if x.laps = 0 then
    let s := s.placeTap t { x with state := .done, mid := false, counted := false }
    if x.counted then s.armNotice t x.layer true else s
  else if x.state = .hold then s.placeTap t { x with mid := false, laps := x.laps - 1 }
  else s.placeTap t { x with state := .armed, laps := x.laps - 1, starts := [] }

/-- TAP_TRAILER (R114, R129): of the lane of the item; the slot tells that an error in flight has altered the folio. -/
def execTapTrailer (s : State) : Out :=
  onBeat .trailer s (fun b h s =>
    let t := s.here.tile
    let x := s.tap t
    if !(x.taking && decide (b.lane = x.lane)) || x.folio.isEmpty then s
    else if decide (s.here.slot = 0) && decide (crc64 x.folio = leNat (b.data.take 8)) then
      let s := s.placeTap t (goodFolio h x)
      if x.last then windowEnd t s else s
    else faultReport t 1 (headerWord x.folio 0) x.src s)

/-- The released folios of which a byte is unread, the newest first; `n` bytes are. -/
def unreadFolios : List (Nat × Nat × Nat) → Nat → List (Nat × Nat × Nat)
  | [], _ => []
  | f :: fs, n => if n = 0 then [] else f :: unreadFolios fs (n - f.2.2)

/-- A folio released to q, but for the bytes that QADV has skipped (R126, R346). -/
def releaseFolio (x : Tap) (e : Nat × Nat × Nat × List Byte) (rest : List (Nat × Nat × Nat × List Byte)) : Tap :=
  let p := e.2.2.2
  let bytes := x.bytes ++ p.drop x.skip
  { x with waiting := rest, bytes := bytes, skip := x.skip - p.length, frel := x.frel + 1,
           rel := (unreadFolios ((e.2.1, e.2.2.1, p.length) :: x.rel.reverse) bytes.length).reverse }

/-- FOLIO_RELEASE (R126): the oldest folio of the tap of the tile, 2 steps after its trailer. -/
def execFolioRelease (s : State) : Out :=
  let t := s.here.tile
  let x := s.tap t
  match x.waiting with
  | e :: es => if e.1 ≤ s.ring.step then .next (tapFinish (s.placeTap t (releaseFolio x e es)) t) else .next s
  | [] => .next s

/-! Lanes that fall silent or go down (R21, R127). -/

/-- TAP_LANE_SILENT (R21, R127): the lane of the item, at the tap of the tile. -/
def execTapLaneSilent (s : State) : Out :=
  let t := s.here.tile
  let x := s.tap t
  if laneQuiet s t s.here.item then
    if x.taking && decide (x.lane = s.here.item) then .next (faultUnder t 8 s) else .next (absentCheck t s)
  else .next s

/-- Whether the layer that a tap is armed for lies on a lane in the list in force (R21). -/
def armedOn (s : State) (x : Tap) (l : Nat) : Bool :=
  decide (x.state = .armed) && ((s.lane l).layers l).any (fun y => decide (y.layer = x.layer))

/-- LANE_DOWN_NOTICE (R21): of the lane of the item, at the tap of the tile, within L + 32 steps; it crosses no crossing
whose modules are all down. -/
def execLaneDownNotice (s : State) : Out :=
  let t := s.here.tile
  let l := s.here.item
  let x := s.tap t
  let y := s.lane l
  if y.down && decide (s.ring.step ≤ y.downAt + s.part.loop + 32) && !sideBlocked s (Config.sequencerStop % s.part.stops) (stopOfTile t) && ((x.taking && decide (x.lane = l)) || armedOn s x l) then
    .next (faultUnder t 8 s)
  else .next s

/-! The stall (R131). -/

/-- RING_STALL_START (R131). -/
def execRingStallStart (s : State) : Out :=
  if s.ring.slowFrom.isSome then .next { s with ring := { s.ring with stalled := true } } else .next s

/-- RING_STALL_END (R131). -/
def execRingStallEnd (s : State) : Out :=
  if s.ring.slowFrom.isNone then .next { s with ring := { s.ring with stalled := false } } else .next s

/-- The taps that assert SLOW. -/
def slowTaps (s : State) : List Nat := (s.taps.filter (fun e => e.2.slow)).map (fun e => e.1)

/-- SLOW_STALL_TIMEOUT (R131): after 2^22 ring cycles of SLOW every tap that asserts it faults with STALL, and the ring moves on. -/
def execSlowStallTimeout (s : State) : Out :=
  match s.ring.slowFrom with
  | none => .next s
  | some c =>
    if s.ring.cycle < c + 2 ^ 22 then .next s
    else
      let s := (slowTaps s).foldl (fun s t => faultUnder t 4 s) s
      .next { s with ring := { s.ring with stalled := false } }

end Sys2Proof.Machine
end

