-- ==== Sys2Proof/Machine/VectorInt.lean ====
section
/-! DEFINITION. Integer arithmetic, moves, predicates, permutes, integer reductions and joins of the vector unit (R318-R331,
R338). -/

namespace Sys2Proof.Machine

/-- Element by element on the values of an integer type, modulo 2^w (R322). -/
def intLanes (t : ITy) (keep : Vec) (x y : Vec) (m : Word) (f : Int → Int → Int) : Vec :=
  let w := ityWidth t
  maskedElems w m keep (fun j => ityBits t (f (ityVal t (elemAt x w j)) (ityVal t (elemAt y w j))))

/-- Element by element on patterns (R322). -/
def bitLanes (t : ITy) (keep : Vec) (x y : Vec) (m : Word) (f : Nat → Nat → Nat) : Vec :=
  let w := ityWidth t
  maskedElems w m keep (fun j => f (elemAt x w j) (elemAt y w j))

/-- An instruction of major 0x30 on values. -/
def vecInt (t : ITy) (d a b : VReg) (k lat : Nat) (f : Int → Int → Int) (s : State) : Out :=
  vector3 d a b k lat (fun s x y m => intLanes t (keepOf d s) x y m f) s

/-- An instruction of major 0x30 on patterns. -/
def vecBit (t : ITy) (d a b : VReg) (k : Nat) (f : Nat → Nat → Nat) (s : State) : Out :=
  vector3 d a b k 2 (fun s x y m => bitLanes t (keepOf d s) x y m f) s

/-- VADD (R322). -/
def execVadd (t : ITy) (d a b : VReg) (k : Nat) (s : State) : Out := vecInt t d a b k 2 (fun x y => x + y) s

/-- VSUB (R322). -/
def execVsub (t : ITy) (d a b : VReg) (k : Nat) (s : State) : Out := vecInt t d a b k 2 (fun x y => x - y) s

/-- VMUL (R322). -/
def execVmul (t : ITy) (d a b : VReg) (k : Nat) (s : State) : Out := vecInt t d a b k 4 (fun x y => x * y) s

/-- VMULH (R322): the product over 2^w, rounded down. -/
def execVmulh (t : ITy) (d a b : VReg) (k : Nat) (s : State) : Out :=
  vecInt t d a b k 4 (fun x y => x * y / (2 ^ ityWidth t : Nat)) s

/-- VMIN (R322). -/
def execVmin (t : ITy) (d a b : VReg) (k : Nat) (s : State) : Out := vecInt t d a b k 2 (fun x y => if y < x then y else x) s

/-- VMAX (R322). -/
def execVmax (t : ITy) (d a b : VReg) (k : Nat) (s : State) : Out := vecInt t d a b k 2 (fun x y => if x < y then y else x) s

/-- VAND (R322). -/
def execVand (t : ITy) (d a b : VReg) (k : Nat) (s : State) : Out := vecBit t d a b k Nat.land s

/-- VOR (R322). -/
def execVor (t : ITy) (d a b : VReg) (k : Nat) (s : State) : Out := vecBit t d a b k Nat.lor s

/-- VXOR (R322). -/
def execVxor (t : ITy) (d a b : VReg) (k : Nat) (s : State) : Out := vecBit t d a b k Nat.xor s

/-- VANDN (R322). -/
def execVandn (t : ITy) (d a b : VReg) (k : Nat) (s : State) : Out :=
  vecBit t d a b k (fun x y => Nat.land x (2 ^ ityWidth t - 1 - y)) s

/-- VSHL (R322): by y mod w. -/
def execVshl (t : ITy) (d a b : VReg) (k : Nat) (s : State) : Out := vecBit t d a b k (fun x y => x * 2 ^ (y % ityWidth t)) s

/-- VSHR (R322): logical. -/
def execVshr (t : ITy) (d a b : VReg) (k : Nat) (s : State) : Out := vecBit t d a b k (fun x y => x / 2 ^ (y % ityWidth t)) s

/-- VSRA (R322): arithmetic whatever the signedness. -/
def execVsra (t : ITy) (d a b : VReg) (k : Nat) (s : State) : Out :=
  vecBit t d a b k (fun x y => ityBits t (sextInt x (ityWidth t) / (2 ^ (y % ityWidth t) : Nat))) s

/-- VADDS (R322): clamped. -/
def execVadds (t : ITy) (d a b : VReg) (k : Nat) (s : State) : Out := vecInt t d a b k 2 (fun x y => ityClamp t (x + y)) s

/-- VSUBS (R322): clamped. -/
def execVsubs (t : ITy) (d a b : VReg) (k : Nat) (s : State) : Out := vecInt t d a b k 2 (fun x y => ityClamp t (x - y)) s

/-- VAVG (R322): rounded up. -/
def execVavg (t : ITy) (d a b : VReg) (k : Nat) (s : State) : Out := vecInt t d a b k 2 (fun x y => (x + y + 1) / 2) s

/-- VABS (R323). -/
def execVabs (t : ITy) (d a : VReg) (k : Nat) (s : State) : Out :=
  vector2 d a k 2 (fun s x m => intLanes t (keepOf d s) x x m (fun x _ => (x.natAbs : Int))) s

/-- The relation of VCMP (R324). -/
def intRel (c : ICond) (x y : Int) : Bool :=
  match c with
  | .eq => decide (x = y)
  | .ne => decide (x ≠ y)
  | .lt => decide (x < y)
  | .le => decide (x ≤ y)
  | .gt => decide (y < x)
  | .ge => decide (y ≤ x)

/-- VCMP (R324). -/
def execVcmp (c : ICond) (t : ITy) (kd : Nat) (a b : VReg) (k : Nat) (s : State) : Out :=
  let w := ityWidth t
  vectorPred kd a b k (fun x y m => maskedPred w m (fun j => intRel c (ityVal t (elemAt x w j)) (ityVal t (elemAt y w j)))) s

/-- VSEL (R325): a selector; every element is written. -/
def execVsel (t : ITy) (d a b : VReg) (k : Nat) (s : State) : Out :=
  vector3 d a b k 2 (fun _ x y m => maskedElems (ityWidth t) m y (elemAt x (ityWidth t))) s

/-- VMOV (R325). -/
def execVmov (t : ITy) (d a : VReg) (k : Nat) (s : State) : Out :=
  vector2 d a k 2 (fun s x m => maskedElems (ityWidth t) m (keepOf d s) (elemAt x (ityWidth t))) s

/-- VBCAST (R325). -/
def execVbcast (t : ITy) (d : VReg) (a : SReg) (k : Nat) (s : State) : Out :=
  coreOp s (fun s =>
    roomV d s
    ((readS a s).andThen (fun x s =>
      (readK k s).andThen (fun m s => doneV d (maskedElems (ityWidth t) m (keepOf d s) (fun _ => x.toNat)) 2 s))))

/-- The element that VEXT reads (R325): extended by the type, zero where it is inactive. -/
def extractElem (t : ITy) (v : Vec) (i m : Word) : Word :=
  let w := ityWidth t
  let j := i.toNat % lanesOf w
  if activeElem m (w / 8) j then wordOfInt (ityVal t (elemAt v w j)) else 0

/-- VEXT (R325). -/
def execVext (t : ITy) (d : SReg) (a : VReg) (b : SReg) (k : Nat) (s : State) : Out :=
  coreOp s (fun s =>
    roomS d s
    ((readV a s).andThen (fun v s =>
      (readS b s).andThen (fun i s =>
        (readK k s).andThen (fun m s => done d (extractElem t v i m) 2 4 s)))))

/-- The vector that VINS writes (R325). -/
def insertElem (t : ITy) (v : Vec) (x i m : Word) : Vec :=
  let w := ityWidth t
  let j := i.toNat % lanesOf w
  packElems w ((List.range (lanesOf w)).map (fun n =>
    if decide (n = j) && activeElem m (w / 8) n then x.toNat else elemAt v w n))

/-- VINS (R325): d is read after a and b. -/
def execVins (t : ITy) (d : VReg) (a b : SReg) (k : Nat) (s : State) : Out :=
  coreOp s (fun s =>
    roomV d s
    ((readS a s).andThen (fun x s =>
      (readS b s).andThen (fun i s =>
        (readV d s).andThen (fun v s =>
          (readK k s).andThen (fun m s => doneV d (insertElem t v x i m) 2 s))))))

/-- Two predicates combined (R326). -/
def predOp (kd ka kb : Nat) (f : Word → Word → Word) (s : State) : Out :=
  coreOp s (fun s => (readK ka s).andThen (fun x s => (readK kb s).andThen (fun y s => doneK kd (f x y) 2 s)))

/-- KAND (R326). -/
def execKand (kd ka kb : Nat) (s : State) : Out := predOp kd ka kb (fun x y => x &&& y) s

/-- KOR (R326). -/
def execKor (kd ka kb : Nat) (s : State) : Out := predOp kd ka kb (fun x y => x ||| y) s

/-- KXOR (R326). -/
def execKxor (kd ka kb : Nat) (s : State) : Out := predOp kd ka kb (fun x y => x ^^^ y) s

/-- KNOT (R326). -/
def execKnot (kd ka : Nat) (s : State) : Out := coreOp s (fun s => (readK ka s).andThen (fun x s => doneK kd (~~~x) 2 s))

/-- The one bits of a number, of `n` bits. -/
def countOnes (x : Nat) : Nat → Nat
  | 0 => 0
  | n + 1 => countOnes x n + x / 2 ^ n % 2

/-- The lowest one bit of a number from bit `i` on; `i + n` where there is none. -/
def lowestOne (x : Nat) : Nat → Nat → Nat
  | 0, i => i
  | n + 1, i => if x / 2 ^ i % 2 = 1 then i else lowestOne x n (i + 1)

/-- A predicate counted into a scalar field (R326). -/
def predCount (d : SReg) (ka : Nat) (f : Nat → Nat) (s : State) : Out :=
  coreOp s (fun s => roomS d s ((readK ka s).andThen (fun x s => done d (word (f x.toNat)) 2 4 s)))

/-- KPOPC (R326). -/
def execKpopc (d : SReg) (ka : Nat) (s : State) : Out := predCount d ka (fun x => countOnes x 64) s

/-- KFIRST (R326): 64 for an empty predicate. -/
def execKfirst (d : SReg) (ka : Nat) (s : State) : Out := predCount d ka (fun x => lowestOne x 64 0) s

/-- A byte looked up in the table of its 128-bit segment (R327). -/
def segmentByte (v : Vec) (i idx : Nat) : Nat := elemAt v 8 (16 * (i / 16) + idx)

/-- VPERM.BYTE (R327): bit 7 of an index gives zero. -/
def execVpermByte (d a b : VReg) (k : Nat) (s : State) : Out :=
  vector3 d a b k 2 (fun s x y m =>
    maskedElems 8 m (keepOf d s) (fun i => if 128 ≤ elemAt y 8 i then 0 else segmentByte x i (elemAt y 8 i % 16))) s

/-- VPERM.NIB (R327): the high nibble is the index. -/
def execVpermNib (d a b : VReg) (k : Nat) (s : State) : Out :=
  vector3 d a b k 2 (fun s x y m => maskedElems 8 m (keepOf d s) (fun i => segmentByte x i (elemAt y 8 i / 16))) s

/-- A permute of major 0x35 under a mask: `f` gives element j (R328). -/
def vecPerm (t : ITy) (d a b : VReg) (k : Nat) (f : Nat → Nat → Vec → Vec → Nat → Nat) (s : State) : Out :=
  let w := ityWidth t
  vector3 d a b k 2 (fun s x y m => maskedElems w m (keepOf d s) (f w (lanesOf w) x y)) s

/-- VPERMX (R328). -/
def execVpermx (t : ITy) (d a b : VReg) (k : Nat) (s : State) : Out :=
  vecPerm t d a b k (fun w l x y j => if elemAt y w j < l then elemAt x w (elemAt y w j) else 0) s

/-- VZIP (R328). -/
def execVzip (t : ITy) (d a b : VReg) (k : Nat) (s : State) : Out :=
  vecPerm t d a b k (fun w _ x y j => if j % 2 = 0 then elemAt x w (j / 2) else elemAt y w (j / 2)) s

/-- VUNZIP (R328). -/
def execVunzip (t : ITy) (d a b : VReg) (k : Nat) (s : State) : Out :=
  vecPerm t d a b k (fun w l x y j => if j < l / 2 then elemAt x w (2 * j) else elemAt y w (2 * (j - l / 2))) s

/-- The elements of VCOMP (R329). -/
def compElems (w : Nat) (x y : Vec) (m : Word) : List Nat :=
  let act := activeElems m (w / 8)
  act.map (elemAt x w) ++ ((List.range (lanesOf w)).drop act.length).map (elemAt y w)

/-- VCOMP (R329). -/
def execVcomp (t : ITy) (d a b : VReg) (k : Nat) (s : State) : Out :=
  vector3 d a b k 2 (fun _ x y m => packElems (ityWidth t) (compElems (ityWidth t) x y m)) s

/-- How many active elements lie below an index (R329). -/
def activeBelow (m : Word) (size j : Nat) : Nat := ((List.range j).filter (activeElem m size)).length

/-- VEXPD (R329). -/
def execVexpd (t : ITy) (d a b : VReg) (k : Nat) (s : State) : Out :=
  let w := ityWidth t
  vector3 d a b k 2 (fun _ x y m => maskedElems w m y (fun j => elemAt x w (activeBelow m (w / 8) j))) s

/-- VIOTA (R329): every element is written. -/
def execViota (t : ITy) (d : VReg) (k : Nat) (s : State) : Out :=
  let w := ityWidth t
  coreOp s (fun s =>
    roomV d s
    ((readK k s).andThen (fun m s => doneV d (packElems w ((List.range (lanesOf w)).map (activeBelow m (w / 8)))) 2 s)))

/-- VSLIDE by `n` elements (R330). -/
def execVslide (t : ITy) (d a b : VReg) (n : Nat) (k : Nat) (s : State) : Out :=
  vecPerm t d a b k (fun w l x y j => if n ≤ j then elemAt x w (j - n) else elemAt y w (l - n + j)) s

/-- VJOIN's lists: the active nonzero elements (R338). -/
def joinList (t : ITy) (v : Vec) (m : Word) : List Int :=
  ((activeElems m (ityWidth t / 8)).map (fun j => ityVal t (elemAt v (ityWidth t) j))).filter (fun x => decide (x ≠ 0))

/-- The loop of VJOIN (R338): the elements it writes, `room` of them left, and its comparisons. `fuel` bounds its passes. -/
def joinLoop (union : Bool) : Nat → Nat → List Int → List Int → List Int × Nat
  | fuel + 1, room + 1, a :: as, b :: bs =>
    if a = b then
      let r := joinLoop union fuel room as bs
      (a :: r.1, r.2 + 1)
    else if a < b then
      let r := joinLoop union fuel (if union then room else room + 1) as (b :: bs)
      (if union then a :: r.1 else r.1, r.2 + 1)
    else
      let r := joinLoop union fuel (if union then room else room + 1) (a :: as) bs
      (if union then b :: r.1 else r.1, r.2 + 1)
  | _, room, as, bs => (if union then (as ++ bs).take room else [], 0)

/-- VJOIN (R338, R321): the ordering unit is busy for one cycle more than the comparisons. -/
def joinOp (union : Bool) (t : ITy) (d a b : VReg) (k : Nat) (s : State) : Out :=
  coreOp s (fun s =>
    needs (decide (s.hereTile.ordUntil ≤ s.cycle)) .unit
    (roomV d s
    ((readV a s).andThen (fun x s =>
      (readV b s).andThen (fun y s =>
        (readK k s).andThen (fun m s =>
          let r := joinLoop union 128 (lanesOf (ityWidth t)) (joinList t x m) (joinList t y m)
          let v := packElems (ityWidth t) (r.1.map (ityBits t))
          doneV d v (3 + r.2) (s.updHere (fun z => { z with ordUntil := s.cycle + r.2 + 1 }))))))))

/-- VJOIN.PAIR (R338). -/
def execVjoinPair (t : ITy) (d a b : VReg) (k : Nat) (s : State) : Out := joinOp false t d a b k s

/-- VJOIN.UNION (R338). -/
def execVjoinUnion (t : ITy) (d a b : VReg) (k : Nat) (s : State) : Out := joinOp true t d a b k s

end Sys2Proof.Machine
end

