-- ==== Sys2Proof/Machine/VectorFp.lean ====
section
/-! DEFINITION. Floating-point vector instructions, VRED, conversions, special functions and sorting (R331-R337). -/

namespace Sys2Proof.Machine

/-- VFADD (R332). -/
def execVfadd (t : FTy) (d a b : VReg) (k : Nat) (s : State) : Out := fpVector3 t d a b k 4 id Fmt.add s

/-- VFSUB (R332). -/
def execVfsub (t : FTy) (d a b : VReg) (k : Nat) (s : State) : Out := fpVector3 t d a b k 4 id Fmt.sub s

/-- VFMUL (R332). -/
def execVfmul (t : FTy) (d a b : VReg) (k : Nat) (s : State) : Out := fpVector3 t d a b k 4 id Fmt.mul s

/-- The state with the vector divide unit busy for 16 cycles (R321). -/
def vdivBusy (s : State) : State := s.updHere (fun z => { z with vdivUntil := s.cycle + 16 })

/-- VFDIV (R332, R321). -/
def execVfdiv (t : FTy) (d a b : VReg) (k : Nat) (s : State) : Out :=
  vdivUnit s (fun s => fpVector3 t d a b k 20 vdivBusy Fmt.div s)

/-- VFMIN (R332, R245). -/
def execVfmin (t : FTy) (d a b : VReg) (k : Nat) (s : State) : Out :=
  fpVector3 t d a b k 4 id (fun f _ => f.minmax (detHere s) false) s

/-- VFMAX (R332, R245). -/
def execVfmax (t : FTy) (d a b : VReg) (k : Nat) (s : State) : Out :=
  fpVector3 t d a b k 4 id (fun f _ => f.minmax (detHere s) true) s

/-- VFSQRT (R332, R321). -/
def execVfsqrt (t : FTy) (d a : VReg) (k : Nat) (s : State) : Out :=
  vdivUnit s (fun s => fpVector2 t d a k 20 vdivBusy Fmt.sqrt s)

/-- The class code of a pattern (R332). -/
def Fmt.classOf (f : Fmt) (x : Nat) : Nat :=
  match f.val x with
  | .nan true => 8
  | .nan false => 9
  | .inf true => 0
  | .inf false => 7
  | .fin neg m _ =>
    let sub := decide (m < 2 ^ f.frac)
    if m = 0 then (if neg then 3 else 4) else if sub then (if neg then 2 else 5) else (if neg then 1 else 6)

/-- VFCLASS (R332): no flag and no trap. -/
def execVfclass (t : FTy) (d a : VReg) (k : Nat) (s : State) : Out :=
  let f := fmtOf t
  vector2 d a k 4 (fun s x m => maskedElems f.width m (keepOf d s) (fun j => f.classOf (elemAt x f.width j))) s

/-- VRND (R332). -/
def execVrnd (t : FTy) (d a : VReg) (k : Nat) (s : State) : Out := fpVector2 t d a k 4 id Fmt.rnd s

/-- VFMA (R333). -/
def execVfma (t : FTy) (d a b : VReg) (k : Nat) (s : State) : Out := fpVector4 t d a b k 5 (fun f r => f.fma r false) s

/-- VFMS (R333). -/
def execVfms (t : FTy) (d a b : VReg) (k : Nat) (s : State) : Out := fpVector4 t d a b k 5 (fun f r => f.fma r true) s

/-- The lane of a comparison (R334): its truth as a result of one bit. -/
def compareLane (f : Fmt) (c : FCond) (x y : Nat) : FRes := ⟨bit (f.fcmp c x y).1, (f.fcmp c x y).2⟩

/-- VFCMP (R334). -/
def execVfcmp (c : FCond) (t : FTy) (kd : Nat) (a b : VReg) (k : Nat) (s : State) : Out :=
  let f := fmtOf t
  coreOp s (fun s =>
    (readV a s).andThen (fun x s =>
      (readV b s).andThen (fun y s =>
        (readK k s).andThen (fun m s =>
          let lane (j : Nat) : Nat × FpLane :=
            lane2 f s.me.fpcsr (compareLane f c) (elemAt x f.width j) (elemAt y f.width j) j
          withFlags elementBits (activeLanes f.width m lane) s (fun s =>
            doneK kd (maskedPred f.width m (fun j => decide ((lane j).1 = 1))) 4 s)))))

/-- The width of one side of a conversion. -/
def cvtWidth : CvtTy → Nat
  | .int t => ityWidth t
  | .flt t => (fmtOf t).width

/-- One element converted (R335, R239-R241). -/
def convertElem (sat : Bool) (dt st : CvtTy) (fpcsr : Word) (x j : Nat) : Nat × FpLane :=
  match dt, st with
  | .flt d, .flt c => lane1 (fmtOf c) fpcsr (cvtFF (fmtOf c) (fmtOf d) (rmOf fpcsr) sat) x j
  | .int d, .flt c => lane1 (fmtOf c) fpcsr (cvtFI (fmtOf c) d (rmOf fpcsr)) x j
  | .flt d, .int c => let r := cvtIF c (fmtOf d) (rmOf fpcsr) sat x; (r.bits, ⟨j, r.fl, false⟩)
  | .int _, .int _ => (x, ⟨j, 0, false⟩)

/-- The elements that a conversion writes (R335): those from n on are zero whatever the mask. -/
def convertedElems (sat : Bool) (dt st : CvtTy) (fpcsr : Word) (keep x : Vec) (m : Word) : Vec :=
  let wd := cvtWidth dt
  let ws := cvtWidth st
  packElems wd ((List.range (lanesOf wd)).map (fun j =>
    if lanesOf ws ≤ j then 0
    else if activeElem m (wd / 8) j then (convertElem sat dt st fpcsr (elemAt x ws j) j).1
    else elemAt keep wd j))

/-- VCVT (R335). -/
def execVcvt (sat : Bool) (dt st : CvtTy) (d a : VReg) (k : Nat) (s : State) : Out :=
  coreOp s (fun s =>
    roomV d s
    ((readV a s).andThen (fun x s =>
      (readK k s).andThen (fun m s =>
        let wd := cvtWidth dt
        let ws := cvtWidth st
        let c := s.me.fpcsr
        let act := (activeElems m (wd / 8)).filter (fun j => decide (j < lanesOf ws))
        withFlags elementBits (act.map (fun j => (convertElem sat dt st c (elemAt x ws j) j).2)) s (fun s =>
          doneV d (convertedElems sat dt st c (keepOf d s) x m) 4 s)))))

/-- The format of a special function's type (R336). -/
def specialTy : SpTy → FTy
  | .bf16 => .bf16
  | .f16 => .f16
  | .f32 => .f32
  | .f64 => .f64

/-- The fixed choice of a neighbour for an f64 operand (R246). -/
def nearOf (t : SpTy) (choice : BitVec 64 → Bool) (x : Nat) : Option Bool :=
  match t with
  | .f64 => some (choice (word x))
  | _ => none

/-- VEXP2 (R336, R246, R247). -/
def execVexp2 (t : SpTy) (d a : VReg) (k : Nat) (s : State) : Out :=
  fpVector2 (specialTy t) d a k 12 id (fun f r x => f.exp2 r (nearOf t Config.exp2Upper x) x) s

/-- VLOG2 (R336, R246, R247). -/
def execVlog2 (t : SpTy) (d a : VReg) (k : Nat) (s : State) : Out :=
  fpVector2 (specialTy t) d a k 12 id (fun f r x => f.log2 r (nearOf t Config.log2Upper x) x) s

/-- VRCP (R336, R246, R247). -/
def execVrcp (t : SpTy) (d a : VReg) (k : Nat) (s : State) : Out := fpVector2 (specialTy t) d a k 12 id Fmt.rcp s

/-- VRSQ (R336, R246, R247). -/
def execVrsq (t : SpTy) (d a : VReg) (k : Nat) (s : State) : Out := fpVector2 (specialTy t) d a k 12 id Fmt.rsq s

/-- The integer that VTORD writes (R337): minus one, zero or one. -/
def orderCode (f : Fmt) (x y : Nat) : Nat :=
  if f.key x < f.key y then 2 ^ f.width - 1 else if f.key x = f.key y then 0 else 1

/-- VTORD (R337). -/
def execVtord (t : FTy) (d a b : VReg) (k : Nat) (s : State) : Out :=
  let f := fmtOf t
  vector3 d a b k 2 (fun s x y m =>
    maskedElems f.width m (keepOf d s) (fun j => orderCode f (elemAt x f.width j) (elemAt y f.width j))) s

/-- An index put into its place behind equal keys (R337). -/
def sortInsert (key : Nat → Nat) (j : Nat) : List Nat → List Nat
  | [] => [j]
  | i :: is => if key i ≤ key j then i :: sortInsert key j is else j :: i :: is

/-- Indices stably sorted by key (R337). -/
def sortIdx (key : Nat → Nat) (xs : List Nat) : List Nat := xs.foldl (fun acc j => sortInsert key j acc) []

/-- The elements that VSORT writes (R337). -/
def sortedElems (f : Fmt) (x y : Vec) (m : Word) : List Nat :=
  let w := f.width
  let idle := (List.range (lanesOf w)).filter (fun j => !activeElem m (w / 8) j)
  (sortIdx (fun j => f.key (elemAt x w j)) (activeElems m (w / 8)) ++ idle).map (elemAt y w)

/-- VSORT (R337, R321). -/
def execVsort (t : FTy) (d a b : VReg) (k : Nat) (s : State) : Out :=
  let f := fmtOf t
  coreOp s (fun s =>
    needs (decide (s.hereTile.ordUntil ≤ s.cycle)) .unit
    (roomV d s
    ((readV a s).andThen (fun x s =>
      (readV b s).andThen (fun y s =>
        (readK k s).andThen (fun m s =>
          doneV d (packElems f.width (sortedElems f x y m)) 12 (s.updHere (fun z => { z with ordUntil := s.cycle + 8 }))))))))

/-- An integer reduction (R331). -/
def reduceInt (t : ITy) (op : Int → Int → Int) (e : Int) (xs : List Nat) : Nat :=
  ityBits t (xs.foldl (fun a x => op a (ityVal t x)) e)

/-- A bitwise reduction (R331). -/
def reduceBits (op : Nat → Nat → Nat) (e : Nat) (xs : List Nat) : Nat := xs.foldl op e

/-- A floating-point reduction (R331): `empty` is the result of no element; of one, that element or the default NaN. -/
def reduceFp (f : Fmt) (op : Nat → Nat → FRes) (empty : Nat) (xs : List Nat) : FRes :=
  match xs with
  | [] => ⟨empty, 0⟩
  | [x] => if (f.val x).isNan then ⟨f.defaultNan, snanFlag [f.val x]⟩ else ⟨x, 0⟩
  | xs => treeFold op 6 xs

/-- The integer result of VRED, or its floating-point format, combination and empty result (R331). -/
def reduceOf (op : RedOp) (rm : Rm) (xs : Nat → List Nat) : Nat × Nat ⊕ Fmt × FRes :=
  match op with
  | .add t => .inl (ityWidth t, reduceInt t (fun a x => a + x) 0 (xs (ityWidth t)))
  | .min t => .inl (ityWidth t, reduceInt t (fun a x => if x < a then x else a) (ityGreatest t) (xs (ityWidth t)))
  | .max t => .inl (ityWidth t, reduceInt t (fun a x => if a < x then x else a) (ityLeast t) (xs (ityWidth t)))
  | .and t => .inl (ityWidth t, reduceBits Nat.land (2 ^ ityWidth t - 1) (xs (ityWidth t)))
  | .or t => .inl (ityWidth t, reduceBits Nat.lor 0 (xs (ityWidth t)))
  | .xor t => .inl (ityWidth t, reduceBits Nat.xor 0 (xs (ityWidth t)))
  | .fadd t => let f := fmtOf t; .inr (f, reduceFp f (f.add rm) 0 (xs f.width))
  | .fmin t => let f := fmtOf t; .inr (f, reduceFp f (f.minmaxNum false) f.defaultNan (xs f.width))
  | .fmax t => let f := fmtOf t; .inr (f, reduceFp f (f.minmaxNum true) f.defaultNan (xs f.width))

/-- The element width of a reduction. -/
def redWidth : RedOp → Nat
  | .add t => ityWidth t
  | .min t => ityWidth t
  | .max t => ityWidth t
  | .and t => ityWidth t
  | .or t => ityWidth t
  | .xor t => ityWidth t
  | .fadd t => (fmtOf t).width
  | .fmin t => (fmtOf t).width
  | .fmax t => (fmtOf t).width

/-- An element as a reduction's flags see it (R242). -/
def redOperand (op : RedOp) (fpcsr : Word) (y : Nat) : Nat :=
  match op with
  | .fadd t => (fmtOf t).operand fpcsr y
  | .fmin t => (fmtOf t).operand fpcsr y
  | .fmax t => (fmtOf t).operand fpcsr y
  | _ => y

/-- The lanes of a floating-point reduction (R331): the flags stand at element 0, the signalling operands at their own. -/
def reduceLanes (f : Fmt) (r : FRes) (act : List Nat) (v : Vec) : List FpLane :=
  ⟨0, r.fl, false⟩ :: (act.filter (fun j => (f.val (elemAt v f.width j)).isSnan)).map (fun j => ⟨j, 0, true⟩)

/-- VRED (R331): the result in element 0, zero elsewhere. -/
def execVred (op : RedOp) (d a : VReg) (k : Nat) (s : State) : Out :=
  coreOp s (fun s =>
    roomV d s
    ((readV a s).andThen (fun x s =>
      (readK k s).andThen (fun m s =>
        let act := activeElems m (redWidth op / 8)
        let c := s.me.fpcsr
        match reduceOf op (rmOf c) (fun w => act.map (fun j => redOperand op c (elemAt x w j))) with
        | .inl r => doneV d (packElems r.1 [r.2]) 4 s
        | .inr r => withFlags elementBits (reduceLanes r.1 r.2 act x) s (fun s => doneV d (packElems r.1.width [r.2.bits]) 10 s)))))

end Sys2Proof.Machine
end

