-- ==== Sys2Proof/Machine/Dispatch.lean ====
section
/-! DEFINITION. One arm per constructor of Instr: the meaning it calls. -/

namespace Sys2Proof.Machine

def exec (i : Instr) (s : State) : Host.Outcome State Fault Refusal :=
  match i with
  | .selfTestDone defects hbm => Sys2Proof.Machine.execSelfTestDone defects hbm s
  | .frameDrop port f => Sys2Proof.Machine.execFrameDrop port f s
  | .mwrite f => Sys2Proof.Machine.execMwrite f s
  | .mread f => Sys2Proof.Machine.execMread f s
  | .msg f => Sys2Proof.Machine.execMsg f s
  | .eventAck f => Sys2Proof.Machine.execEventAck f s
  | .endpointRegWrite addr value => Sys2Proof.Machine.execEndpointRegWrite addr value s
  | .mclostRead die => Sys2Proof.Machine.execMclostRead die s
  | .carveWrite mpt value => Sys2Proof.Machine.execCarveWrite mpt value s
  | .ptpMessage port time rank => Sys2Proof.Machine.execPtpMessage port time rank s
  | .ptpLockLost port => Sys2Proof.Machine.execPtpLockLost port s
  | .throttleSample p => Sys2Proof.Machine.execThrottleSample p s
  | .currentExcursion amps => Sys2Proof.Machine.execCurrentExcursion amps s
  | .eolRecompute dies => Sys2Proof.Machine.execEolRecompute dies s
  | .ucieCrcReplay xmodule => Sys2Proof.Machine.execUcieCrcReplay xmodule s
  | .ucieRetrainComplete xmodule => Sys2Proof.Machine.execUcieRetrainComplete xmodule s
  | .flasterCrcReplay port => Sys2Proof.Machine.execFlasterCrcReplay port s
  | .flasterPacketArrive port p => Sys2Proof.Machine.execFlasterPacketArrive port p s
  | .hostPortLinkDown port => Sys2Proof.Machine.execHostPortLinkDown port s
  | .patrolScrub mpt pa bad => Sys2Proof.Machine.execPatrolScrub mpt pa bad s
  | .streamLookaheadFill q n => Sys2Proof.Machine.execStreamLookaheadFill q n s
  | .rereadComplete layer index => Sys2Proof.Machine.execRereadComplete layer index s
  | .routerPowerDown net router => Sys2Proof.Machine.execRouterPowerDown net router s
  | .routerWake net router => Sys2Proof.Machine.execRouterWake net router s
  | .debugRegRead sel => Sys2Proof.Machine.execDebugRegRead sel s
  | .debugRegWrite sel => Sys2Proof.Machine.execDebugRegWrite sel s
  | .add d a b => Sys2Proof.Machine.execAdd d a b s
  | .sub d a b => Sys2Proof.Machine.execSub d a b s
  | .mul d a b => Sys2Proof.Machine.execMul d a b s
  | .mulh d a b => Sys2Proof.Machine.execMulh d a b s
  | .mulhn d a b => Sys2Proof.Machine.execMulhn d a b s
  | .div d a b => Sys2Proof.Machine.execDiv d a b s
  | .divn d a b => Sys2Proof.Machine.execDivn d a b s
  | .rem d a b => Sys2Proof.Machine.execRem d a b s
  | .remn d a b => Sys2Proof.Machine.execRemn d a b s
  | .and d a b => Sys2Proof.Machine.execAnd d a b s
  | .or d a b => Sys2Proof.Machine.execOr d a b s
  | .xor d a b => Sys2Proof.Machine.execXor d a b s
  | .andn d a b => Sys2Proof.Machine.execAndn d a b s
  | .orn d a b => Sys2Proof.Machine.execOrn d a b s
  | .shl d a b => Sys2Proof.Machine.execShl d a b s
  | .shr d a b => Sys2Proof.Machine.execShr d a b s
  | .sra d a b => Sys2Proof.Machine.execSra d a b s
  | .rol d a b => Sys2Proof.Machine.execRol d a b s
  | .min d a b => Sys2Proof.Machine.execMin d a b s
  | .max d a b => Sys2Proof.Machine.execMax d a b s
  | .minn d a b => Sys2Proof.Machine.execMinn d a b s
  | .maxn d a b => Sys2Proof.Machine.execMaxn d a b s
  | .slt d a b => Sys2Proof.Machine.execSlt d a b s
  | .sltn d a b => Sys2Proof.Machine.execSltn d a b s
  | .seq d a b => Sys2Proof.Machine.execSeq d a b s
  | .addv d a b => Sys2Proof.Machine.execAddv d a b s
  | .subv d a b => Sys2Proof.Machine.execSubv d a b s
  | .clz d a => Sys2Proof.Machine.execClz d a s
  | .ctz d a => Sys2Proof.Machine.execCtz d a s
  | .popc d a => Sys2Proof.Machine.execPopc d a s
  | .sel d a b k => Sys2Proof.Machine.execSel d a b k s
  | .bfx d a p n => Sys2Proof.Machine.execBfx d a p n s
  | .bfi d a p n => Sys2Proof.Machine.execBfi d a p n s
  | .addi d a imm => Sys2Proof.Machine.execAddi d a imm s
  | .andi d a imm => Sys2Proof.Machine.execAndi d a imm s
  | .ori d a imm => Sys2Proof.Machine.execOri d a imm s
  | .xori d a imm => Sys2Proof.Machine.execXori d a imm s
  | .shli d a n => Sys2Proof.Machine.execShli d a n s
  | .shri d a n => Sys2Proof.Machine.execShri d a n s
  | .srai d a n => Sys2Proof.Machine.execSrai d a n s
  | .slti d a imm => Sys2Proof.Machine.execSlti d a imm s
  | .lui d off => Sys2Proof.Machine.execLui d off s
  | .addpc d off => Sys2Proof.Machine.execAddpc d off s
  | .li d imm => Sys2Proof.Machine.execLi d imm s
  | .lih d imm => Sys2Proof.Machine.execLih d imm s
  | .br c a b off => Sys2Proof.Machine.execBr c a b off s
  | .jal d off => Sys2Proof.Machine.execJal d off s
  | .jalr d a imm => Sys2Proof.Machine.execJalr d a imm s
  | .loop a off => Sys2Proof.Machine.execLoop a off s
  | .ld w d a off => Sys2Proof.Machine.execLd w d a off s
  | .st w a b off => Sys2Proof.Machine.execSt w a b off s
  | .ldAcq w d a b => Sys2Proof.Machine.execLdAcq w d a b s
  | .stRel w d a b => Sys2Proof.Machine.execStRel w d a b s
  | .ldv d a b k => Sys2Proof.Machine.execLdv d a b k s
  | .stv d a b k => Sys2Proof.Machine.execStv d a b k s
  | .ldg w d a b k => Sys2Proof.Machine.execLdg w d a b k s
  | .stg w d a b k => Sys2Proof.Machine.execStg w d a b k s
  | .ldw d a imm => Sys2Proof.Machine.execLdw d a imm s
  | .ldwe d a imm => Sys2Proof.Machine.execLdwe d a imm s
  | .stf a b imm => Sys2Proof.Machine.execStf a b imm s
  | .feset a b imm => Sys2Proof.Machine.execFeset a b imm s
  | .fetest d a imm => Sys2Proof.Machine.execFetest d a imm s
  | .pfetch a imm => Sys2Proof.Machine.execPfetch a imm s
  | .cflush a imm => Sys2Proof.Machine.execCflush a imm s
  | .cinv a imm => Sys2Proof.Machine.execCinv a imm s
  | .amo op ord w32 d a b => Sys2Proof.Machine.execAmo op ord w32 d a b s
  | .cas ord w32 d a b f => Sys2Proof.Machine.execCas ord w32 d a b f s
  | .amoord op d a b f => Sys2Proof.Machine.execAmoord op d a b f s
  | .red op w32 a b => Sys2Proof.Machine.execRed op w32 a b s
  | .fence a => Sys2Proof.Machine.execFence a s
  | .fencesc a => Sys2Proof.Machine.execFencesc a s
  | .bar a b => Sys2Proof.Machine.execBar a b s
  | .aexp a b => Sys2Proof.Machine.execAexp a b s
  | .await d a b => Sys2Proof.Machine.execAwait d a b s
  | .aalloc d k => Sys2Proof.Machine.execAalloc d k s
  | .afree a => Sys2Proof.Machine.execAfree a s
  | .vadd t d a b k => Sys2Proof.Machine.execVadd t d a b k s
  | .vsub t d a b k => Sys2Proof.Machine.execVsub t d a b k s
  | .vmul t d a b k => Sys2Proof.Machine.execVmul t d a b k s
  | .vmulh t d a b k => Sys2Proof.Machine.execVmulh t d a b k s
  | .vmin t d a b k => Sys2Proof.Machine.execVmin t d a b k s
  | .vmax t d a b k => Sys2Proof.Machine.execVmax t d a b k s
  | .vand t d a b k => Sys2Proof.Machine.execVand t d a b k s
  | .vor t d a b k => Sys2Proof.Machine.execVor t d a b k s
  | .vxor t d a b k => Sys2Proof.Machine.execVxor t d a b k s
  | .vandn t d a b k => Sys2Proof.Machine.execVandn t d a b k s
  | .vshl t d a b k => Sys2Proof.Machine.execVshl t d a b k s
  | .vshr t d a b k => Sys2Proof.Machine.execVshr t d a b k s
  | .vsra t d a b k => Sys2Proof.Machine.execVsra t d a b k s
  | .vadds t d a b k => Sys2Proof.Machine.execVadds t d a b k s
  | .vsubs t d a b k => Sys2Proof.Machine.execVsubs t d a b k s
  | .vavg t d a b k => Sys2Proof.Machine.execVavg t d a b k s
  | .vabs t d a k => Sys2Proof.Machine.execVabs t d a k s
  | .vcmp c t kd a b k => Sys2Proof.Machine.execVcmp c t kd a b k s
  | .vsel t d a b k => Sys2Proof.Machine.execVsel t d a b k s
  | .vmov t d a k => Sys2Proof.Machine.execVmov t d a k s
  | .vbcast t d a k => Sys2Proof.Machine.execVbcast t d a k s
  | .vext t d a b k => Sys2Proof.Machine.execVext t d a b k s
  | .vins t d a b k => Sys2Proof.Machine.execVins t d a b k s
  | .kand kd ka kb => Sys2Proof.Machine.execKand kd ka kb s
  | .kor kd ka kb => Sys2Proof.Machine.execKor kd ka kb s
  | .kxor kd ka kb => Sys2Proof.Machine.execKxor kd ka kb s
  | .knot kd ka => Sys2Proof.Machine.execKnot kd ka s
  | .kpopc d ka => Sys2Proof.Machine.execKpopc d ka s
  | .kfirst d ka => Sys2Proof.Machine.execKfirst d ka s
  | .vpermByte d a b k => Sys2Proof.Machine.execVpermByte d a b k s
  | .vpermNib d a b k => Sys2Proof.Machine.execVpermNib d a b k s
  | .vpermx t d a b k => Sys2Proof.Machine.execVpermx t d a b k s
  | .vzip t d a b k => Sys2Proof.Machine.execVzip t d a b k s
  | .vunzip t d a b k => Sys2Proof.Machine.execVunzip t d a b k s
  | .vcomp t d a b k => Sys2Proof.Machine.execVcomp t d a b k s
  | .vexpd t d a b k => Sys2Proof.Machine.execVexpd t d a b k s
  | .viota t d k => Sys2Proof.Machine.execViota t d k s
  | .vslide t d a b n k => Sys2Proof.Machine.execVslide t d a b n k s
  | .vred op d a k => Sys2Proof.Machine.execVred op d a k s
  | .vfadd t d a b k => Sys2Proof.Machine.execVfadd t d a b k s
  | .vfsub t d a b k => Sys2Proof.Machine.execVfsub t d a b k s
  | .vfmul t d a b k => Sys2Proof.Machine.execVfmul t d a b k s
  | .vfdiv t d a b k => Sys2Proof.Machine.execVfdiv t d a b k s
  | .vfmin t d a b k => Sys2Proof.Machine.execVfmin t d a b k s
  | .vfmax t d a b k => Sys2Proof.Machine.execVfmax t d a b k s
  | .vfsqrt t d a k => Sys2Proof.Machine.execVfsqrt t d a k s
  | .vfclass t d a k => Sys2Proof.Machine.execVfclass t d a k s
  | .vrnd t d a k => Sys2Proof.Machine.execVrnd t d a k s
  | .vfma t d a b k => Sys2Proof.Machine.execVfma t d a b k s
  | .vfms t d a b k => Sys2Proof.Machine.execVfms t d a b k s
  | .vfcmp c t kd a b k => Sys2Proof.Machine.execVfcmp c t kd a b k s
  | .vcvt sat dt st d a k => Sys2Proof.Machine.execVcvt sat dt st d a k s
  | .vexp2 t d a k => Sys2Proof.Machine.execVexp2 t d a k s
  | .vlog2 t d a k => Sys2Proof.Machine.execVlog2 t d a k s
  | .vrcp t d a k => Sys2Proof.Machine.execVrcp t d a k s
  | .vrsq t d a k => Sys2Proof.Machine.execVrsq t d a k s
  | .vtord t d a b k => Sys2Proof.Machine.execVtord t d a b k s
  | .vsort t d a b k => Sys2Proof.Machine.execVsort t d a b k s
  | .vjoinPair t d a b k => Sys2Proof.Machine.execVjoinPair t d a b k s
  | .vjoinUnion t d a b k => Sys2Proof.Machine.execVjoinUnion t d a b k s
  | .rep a n => Sys2Proof.Machine.execRep a n s
  | .qset q v => Sys2Proof.Machine.execQset q v s
  | .qadv q c => Sys2Proof.Machine.execQadv q c s
  | .qpos q c => Sys2Proof.Machine.execQpos q c s
  | .dot t m qa qb => Sys2Proof.Machine.execDot t m qa qb s
  | .dotmx t m qa qb qsa qsb => Sys2Proof.Machine.execDotmx t m qa qb qsa qsb s
  | .mzero m => Sys2Proof.Machine.execMzero m s
  | .mld m c => Sys2Proof.Machine.execMld m c s
  | .mst m c => Sys2Proof.Machine.execMst m c s
  | .mout o bias act quant i32 m qa qb => Sys2Proof.Machine.execMout o bias act quant i32 m qa qb s
  | .actld c => Sys2Proof.Machine.execActld c s
  | .split cols n qa qb => Sys2Proof.Machine.execSplit cols n qa qb s
  | .merge n m qa qb => Sys2Proof.Machine.execMerge n m qa qb s
  | .cpy d a => Sys2Proof.Machine.execCpy d a s
  | .strm d a => Sys2Proof.Machine.execStrm d a s
  | .strb a => Sys2Proof.Machine.execStrb a s
  | .leave q => Sys2Proof.Machine.execLeave q s
  | .rstat d => Sys2Proof.Machine.execRstat d s
  | .board q layer laps => Sys2Proof.Machine.execBoard q layer laps s
  | .send label prio two a b d => Sys2Proof.Machine.execSend label prio two a b d s
  | .spawn label prio two a b => Sys2Proof.Machine.execSpawn label prio two a b s
  | .launch d a => Sys2Proof.Machine.execLaunch d a s
  | .launchKill d a => Sys2Proof.Machine.execLaunchKill d a s
  | .launchSig d a b => Sys2Proof.Machine.execLaunchSig d a b s
  | .launchPre d a => Sys2Proof.Machine.execLaunchPre d a s
  | .launchRes d a => Sys2Proof.Machine.execLaunchRes d a s
  | .adig d a b => Sys2Proof.Machine.execAdig d a b s
  | .ainv a => Sys2Proof.Machine.execAinv a s
  | .live remote kmask a => Sys2Proof.Machine.execLive remote kmask a s
  | .mfs d r => Sys2Proof.Machine.execMfs d r s
  | .mts r a => Sys2Proof.Machine.execMts r a s
  | .trap a => Sys2Proof.Machine.execTrap a s
  | .brk imm => Sys2Proof.Machine.execBrk imm s
  | .tlbinv a b => Sys2Proof.Machine.execTlbinv a b s
  | .icinv a => Sys2Proof.Machine.execIcinv a s
  | .rpace a => Sys2Proof.Machine.execRpace a s
  | .route x => Sys2Proof.Machine.execRoute x s
  | .routec c target x => Sys2Proof.Machine.execRoutec c target x s
  | .sjmp target => Sys2Proof.Machine.execSjmp target s
  | .scnt c imm => Sys2Proof.Machine.execScnt c imm s
  | .swaitc v => Sys2Proof.Machine.execSwaitc v s
  | .ssigc v => Sys2Proof.Machine.execSsigc v s
  | .illegalInstruction word => Sys2Proof.Machine.execIllegalInstruction word s
  | .instructionFetchFault f => Sys2Proof.Machine.execInstructionFetchFault f s
  | .switchIllegalWord word => Sys2Proof.Machine.execSwitchIllegalWord word s
  | .neighbourSolicitation port addr => Sys2Proof.Machine.execNeighbourSolicitation port addr s
  | .hostPortLinkUp port => Sys2Proof.Machine.execHostPortLinkUp port s
  | .flasterLinkUp port pkg tick => Sys2Proof.Machine.execFlasterLinkUp port pkg tick s
  | .reset => Sys2Proof.Machine.execReset s
  | .bootctlGo => Sys2Proof.Machine.execBootctlGo s
  | .imageVerifyComplete => Sys2Proof.Machine.execImageVerifyComplete s
  | .firmwareStarted => Sys2Proof.Machine.execFirmwareStarted s
  | .eventRetransmit => Sys2Proof.Machine.execEventRetransmit s
  | .dropfcsRead => Sys2Proof.Machine.execDropfcsRead s
  | .dropsecRead => Sys2Proof.Machine.execDropsecRead s
  | .drophdrRead => Sys2Proof.Machine.execDrophdrRead s
  | .evlostRead => Sys2Proof.Machine.execEvlostRead s
  | .attctlGo => Sys2Proof.Machine.execAttctlGo s
  | .attestComplete => Sys2Proof.Machine.execAttestComplete s
  | .schedulerPass => Sys2Proof.Machine.execSchedulerPass s
  | .nodeStart => Sys2Proof.Machine.execNodeStart s
  | .ageingStep => Sys2Proof.Machine.execAgeingStep s
  | .nodeSignal => Sys2Proof.Machine.execNodeSignal s
  | .condEvaluate => Sys2Proof.Machine.execCondEvaluate s
  | .tileRetire => Sys2Proof.Machine.execTileRetire s
  | .mptDrain => Sys2Proof.Machine.execMptDrain s
  | .drainCertificate => Sys2Proof.Machine.execDrainCertificate s
  | .drainTimeout => Sys2Proof.Machine.execDrainTimeout s
  | .gangPrepare => Sys2Proof.Machine.execGangPrepare s
  | .gangReady => Sys2Proof.Machine.execGangReady s
  | .gangStartReceive => Sys2Proof.Machine.execGangStartReceive s
  | .gangMemberDone => Sys2Proof.Machine.execGangMemberDone s
  | .gangMemberFail => Sys2Proof.Machine.execGangMemberFail s
  | .gangMemberStart => Sys2Proof.Machine.execGangMemberStart s
  | .gangWaitTimeout => Sys2Proof.Machine.execGangWaitTimeout s
  | .gangAbort => Sys2Proof.Machine.execGangAbort s
  | .preemptProceed => Sys2Proof.Machine.execPreemptProceed s
  | .preemptSave => Sys2Proof.Machine.execPreemptSave s
  | .resumePlace => Sys2Proof.Machine.execResumePlace s
  | .archiveHashComplete => Sys2Proof.Machine.execArchiveHashComplete s
  | .archiveProbeResult => Sys2Proof.Machine.execArchiveProbeResult s
  | .archiveWatchHit => Sys2Proof.Machine.execArchiveWatchHit s
  | .archiveDeliverComplete => Sys2Proof.Machine.execArchiveDeliverComplete s
  | .archiveInsertComplete => Sys2Proof.Machine.execArchiveInsertComplete s
  | .archiveInvalidate => Sys2Proof.Machine.execArchiveInvalidate s
  | .mptAccess => Sys2Proof.Machine.execMptAccess s
  | .mptRed => Sys2Proof.Machine.execMptRed s
  | .sealMarker => Sys2Proof.Machine.execSealMarker s
  | .mptAmoord => Sys2Proof.Machine.execMptAmoord s
  | .amoordResend => Sys2Proof.Machine.execAmoordResend s
  | .loadReply => Sys2Proof.Machine.execLoadReply s
  | .runAheadBegin => Sys2Proof.Machine.execRunAheadBegin s
  | .runAheadPrefetch => Sys2Proof.Machine.execRunAheadPrefetch s
  | .taskArrive => Sys2Proof.Machine.execTaskArrive s
  | .taskPick => Sys2Proof.Machine.execTaskPick s
  | .detDispatch => Sys2Proof.Machine.execDetDispatch s
  | .windowClose => Sys2Proof.Machine.execWindowClose s
  | .stealProbe => Sys2Proof.Machine.execStealProbe s
  | .stealRequest => Sys2Proof.Machine.execStealRequest s
  | .stealReply => Sys2Proof.Machine.execStealReply s
  | .stolenTaskReturn => Sys2Proof.Machine.execStolenTaskReturn s
  | .migrateRequest => Sys2Proof.Machine.execMigrateRequest s
  | .migrateQueueTimeout => Sys2Proof.Machine.execMigrateQueueTimeout s
  | .migrateGrant => Sys2Proof.Machine.execMigrateGrant s
  | .migrateRefuse => Sys2Proof.Machine.execMigrateRefuse s
  | .migrateStateArrive => Sys2Proof.Machine.execMigrateStateArrive s
  | .remoteAccessRequest => Sys2Proof.Machine.execRemoteAccessRequest s
  | .remoteAccessReply => Sys2Proof.Machine.execRemoteAccessReply s
  | .copyBegin => Sys2Proof.Machine.execCopyBegin s
  | .copyComplete => Sys2Proof.Machine.execCopyComplete s
  | .arrivalCount => Sys2Proof.Machine.execArrivalCount s
  | .awaitComplete => Sys2Proof.Machine.execAwaitComplete s
  | .streamBind => Sys2Proof.Machine.execStreamBind s
  | .streamLoaderFlit => Sys2Proof.Machine.execStreamLoaderFlit s
  | .streamStorerFlit => Sys2Proof.Machine.execStreamStorerFlit s
  | .streamEnd => Sys2Proof.Machine.execStreamEnd s
  | .clusterBlockSend => Sys2Proof.Machine.execClusterBlockSend s
  | .rpaceListFillComplete => Sys2Proof.Machine.execRpaceListFillComplete s
  | .handOver => Sys2Proof.Machine.execHandOver s
  | .injectBeat => Sys2Proof.Machine.execInjectBeat s
  | .tapHeader => Sys2Proof.Machine.execTapHeader s
  | .tapPayloadBeat => Sys2Proof.Machine.execTapPayloadBeat s
  | .tapTrailer => Sys2Proof.Machine.execTapTrailer s
  | .folioRelease => Sys2Proof.Machine.execFolioRelease s
  | .tapLaneSilent => Sys2Proof.Machine.execTapLaneSilent s
  | .laneDownNotice => Sys2Proof.Machine.execLaneDownNotice s
  | .laneRestart => Sys2Proof.Machine.execLaneRestart s
  | .ringStallStart => Sys2Proof.Machine.execRingStallStart s
  | .ringStallEnd => Sys2Proof.Machine.execRingStallEnd s
  | .slowStallTimeout => Sys2Proof.Machine.execSlowStallTimeout s
  | .armNoticeArrive => Sys2Proof.Machine.execArmNoticeArrive s
  | .tapReport => Sys2Proof.Machine.execTapReport s
  | .budgetRefill => Sys2Proof.Machine.execBudgetRefill s
  | .packetDeliver => Sys2Proof.Machine.execPacketDeliver s
  | .dynamicCrcRetry => Sys2Proof.Machine.execDynamicCrcRetry s
  | .bulkCrcDiscard => Sys2Proof.Machine.execBulkCrcDiscard s
  | .waitForProbeSend => Sys2Proof.Machine.execWaitForProbeSend s
  | .waitForProbeArrive => Sys2Proof.Machine.execWaitForProbeArrive s
  | .localCycleDetect => Sys2Proof.Machine.execLocalCycleDetect s
  | .quiescenceTimeout => Sys2Proof.Machine.execQuiescenceTimeout s
  | .gangChainIssue => Sys2Proof.Machine.execGangChainIssue s
  | .debugHalt => Sys2Proof.Machine.execDebugHalt s
  | .debugHaltComplete => Sys2Proof.Machine.execDebugHaltComplete s
  | .debugResume => Sys2Proof.Machine.execDebugResume s
  | .debugStep => Sys2Proof.Machine.execDebugStep s
  | .debugSstep => Sys2Proof.Machine.execDebugSstep s
  | .hend => Sys2Proof.Machine.execHend s
  | .wclose => Sys2Proof.Machine.execWclose s
  | .home => Sys2Proof.Machine.execHome s
  | .eret => Sys2Proof.Machine.execEret s
  | .wfe => Sys2Proof.Machine.execWfe s
  | .yield => Sys2Proof.Machine.execYield s
  | .halt => Sys2Proof.Machine.execHalt s
  | .snop => Sys2Proof.Machine.execSnop s
  | .shalt => Sys2Proof.Machine.execShalt s

end Sys2Proof.Machine
end

