-- ==== Sys2Proof/Machine/RunAhead.lean ====
section
/-! DEFINITION. What a thread may issue while a global load of its own is out (R213, R264), and run-ahead (R162, R163): a checkpoint
copy that goes on in idle cycles and leaves nothing behind but prefetches and TLB and instruction cache contents. -/

namespace Sys2Proof.Machine

/-- The key of a scalar field as a register; s0 and ports have none. -/
def sKey : SReg → List Nat
  | .gen n => if n = 0 then [] else [badKey 0 n]
  | .port _ => []

/-- The key of a vector field as a register. -/
def vKey : VReg → List Nat
  | .gen n => [badKey 1 n]
  | .port _ => []

/-- The key of a predicate field as a register. -/
def kKey (k : Nat) : List Nat := if k = 0 then [] else [badKey 2 k]

/-- The registers that an instruction computes in its thread alone (R162): scalar, vector, predicate and control flow. None for any
other instruction. -/
def computes (i : Instr) : Option (List Nat) :=
  match i with
  | .add d _ _ | .sub d _ _ | .mul d _ _ | .mulh d _ _ | .mulhn d _ _ | .div d _ _ | .divn d _ _ | .rem d _ _ | .remn d _ _
  | .and d _ _ | .or d _ _ | .xor d _ _ | .andn d _ _ | .orn d _ _ | .shl d _ _ | .shr d _ _ | .sra d _ _ | .rol d _ _
  | .min d _ _ | .max d _ _ | .minn d _ _ | .maxn d _ _ | .slt d _ _ | .sltn d _ _ | .seq d _ _ | .addv d _ _ | .subv d _ _ => some (sKey d)
  | .clz d _ | .ctz d _ | .popc d _ | .lui d _ | .addpc d _ | .li d _ | .lih d _ | .jal d _ | .kpopc d _ | .kfirst d _ | .mfs d _ => some (sKey d)
  | .addi d _ _ | .andi d _ _ | .ori d _ _ | .xori d _ _ | .shli d _ _ | .shri d _ _ | .srai d _ _ | .slti d _ _ | .jalr d _ _ => some (sKey d)
  | .sel d _ _ _ | .bfx d _ _ _ | .bfi d _ _ _ => some (sKey d)
  | .vext _ d _ _ _ => some (sKey d)
  | .loop a _ => some (sKey a)
  | .br _ _ _ _ => some []
  | .rep _ _ => some []
  | .vadd _ d _ _ _ | .vsub _ d _ _ _ | .vmul _ d _ _ _ | .vmulh _ d _ _ _ | .vmin _ d _ _ _ | .vmax _ d _ _ _
  | .vand _ d _ _ _ | .vor _ d _ _ _ | .vxor _ d _ _ _ | .vandn _ d _ _ _ | .vshl _ d _ _ _ | .vshr _ d _ _ _ | .vsra _ d _ _ _
  | .vadds _ d _ _ _ | .vsubs _ d _ _ _ | .vavg _ d _ _ _ | .vsel _ d _ _ _ | .vpermx _ d _ _ _ | .vzip _ d _ _ _ | .vunzip _ d _ _ _
  | .vcomp _ d _ _ _ | .vexpd _ d _ _ _ | .vjoinPair _ d _ _ _ | .vjoinUnion _ d _ _ _ => some (vKey d)
  | .vfadd _ d _ _ _ | .vfsub _ d _ _ _ | .vfmul _ d _ _ _ | .vfdiv _ d _ _ _ | .vfmin _ d _ _ _ | .vfmax _ d _ _ _
  | .vfma _ d _ _ _ | .vfms _ d _ _ _ | .vtord _ d _ _ _ | .vsort _ d _ _ _ => some (vKey d)
  | .vabs _ d _ _ | .vmov _ d _ _ => some (vKey d)
  | .vbcast _ d _ _ => some (vKey d)
  | .vins _ d _ _ _ => some (vKey d)
  | .vpermByte d _ _ _ | .vpermNib d _ _ _ => some (vKey d)
  | .viota _ d _ => some (vKey d)
  | .vslide _ d _ _ _ _ => some (vKey d)
  | .vred _ d _ _ => some (vKey d)
  | .vfsqrt _ d _ _ | .vfclass _ d _ _ | .vrnd _ d _ _ => some (vKey d)
  | .vcvt _ _ _ d _ _ => some (vKey d)
  | .vexp2 _ d _ _ | .vlog2 _ d _ _ | .vrcp _ d _ _ | .vrsq _ d _ _ => some (vKey d)
  | .vcmp _ _ kd _ _ _ => some (kKey kd)
  | .vfcmp _ _ kd _ _ _ => some (kKey kd)
  | .kand kd _ _ | .kor kd _ _ | .kxor kd _ _ => some (kKey kd)
  | .knot kd _ => some (kKey kd)
  | _ => none

/-- Whether an instruction may transfer control. -/
def branches (i : Instr) : Bool :=
  match i with
  | .br _ _ _ _ | .jal _ _ | .jalr _ _ _ | .loop _ _ => true
  | _ => false

/-- A load that may miss (R162): the registers that it writes. -/
def aheadLoad (i : Instr) : Option (List Nat) :=
  match i with
  | .ld _ d _ _ => some (sKey d)
  | .ldAcq _ d _ _ => some (sKey d)
  | .ldv d _ _ _ => some (vKey d)
  | .ldg _ d _ _ _ => some (vKey d)
  | _ => none

/-- Whether an instruction issues only once every earlier one has retired (R417). -/
def readsSystem (i : Instr) : Bool :=
  match i with
  | .mfs _ _ => true
  | _ => false

/-- Whether an instruction may issue while an earlier global load of its thread is out (R264): one that computes, or an ordinary access
to memory. -/
def mayPass (i : Instr) : Bool :=
  ((computes i).isSome && !readsSystem i) || match i with
    | .ld _ _ _ _ | .st _ _ _ _ | .ldv _ _ _ _ | .stv _ _ _ _ | .ldg _ _ _ _ _ | .stg _ _ _ _ _ => true
    | _ => false

/-- Whether an instruction left the ports of its tile as they were. -/
def portsKept (before after : State) : Bool :=
  decide (after.hereTile.sc = before.hereTile.sc) && decide (after.hereTile.ve = before.hereTile.ve)

/-- Whether an instruction is not ready because an earlier load of its thread can still trap (R264): it is none that may pass, it would
use a port, or it would trap itself. -/
def heldByLoad (i : Instr) (before after : State) : Bool :=
  !before.me.loads.isEmpty && (!mayPass i || !portsKept before after || trapTaken before after || match after.me.wait with
    | .portIn _ _ => true
    | .portOut _ _ => true
    | _ => false)

/-! Run-ahead. -/

/-- The state in which a copy's instruction is tried: the copy stands in its slot, nothing of it is out, and only the registers of
invalid values are not ready. -/
def aheadState (s : State) (t k : Nat) (a : Ahead) : State :=
  let x := { a.thread with loads := [], pend := none, busy := a.thread.busy.filter (fun e => decide (2 ^ 100 < e.2)), issueFrom := 0 }
  let s := (((s.setThread t k (some x)).setNative t k a.native).setShadow t k []).updTile t (fun y =>
    { y with divUntil := 0, vdivUntil := 0, dotUntil := 0, outUntil := 0, ordUntil := 0 })
  { s with here := ⟨t, k, 0⟩, retired := none }

/-- The copy after an instruction whose result is not valid: the registers that it writes are invalid, and it goes on (R162). -/
def Ahead.skip (a : Ahead) (i : Instr) (keys : List Nat) : Ahead :=
  let r := a.native.rep.advance (a.thread.pc + word (4 * (encode i).length))
  ⟨{ a.thread.invalid keys with pc := r.2 }, { a.native with rep := r.1 }⟩

/-- The addresses that a copy's load missed. -/
def aheadMisses (s : State) : List Nat :=
  (s.me.loads.flatMap (fun l => l.pend.fills.map (fun f => f.1))) ++ (match s.me.pend with
    | some p => p.fills.map (fun f => f.1)
    | none => [])

/-- The prefetches of a copy's load (R163): one for each address that misses in its slice, which no rule lets a program tell. -/
def prefetches (t : Nat) (w : Who) (pas : List Nat) (s : State) : State :=
  pas.foldl (fun s pa =>
    let b := s.freeBool
    if b.1 then b.2.send .req (.tile t) (.mpt (homeMpt s pa)) (.access w 0 0 pa .prefetch) else b.2) s

/-- What run-ahead leaves on its tile (R163): the TLB and the instruction cache, and the cycle is taken. -/
def aheadKept (s v : State) (t : Nat) : State :=
  s.updTile t (fun y => { y with tlb := (v.tile t).tlb, icache := (v.tile t).icache, issuedAt := some s.cycle })

/-- The copy's next instruction tried (R162): what becomes of the copy, none where run-ahead ends, and the state. -/
def aheadStep (t k : Nat) (a : Ahead) (s : State) : Option Ahead × State :=
  match nextInstr t k a.thread (aheadState s t k a) with
  | .stay _ => (none, s)
  | .run i u =>
    let a : Ahead := { a with native := u.native t k }
    match computes i, aheadLoad i, exec i u with
    | some keys, _, .next v =>
      if !portsKept u v then (none, s)
      else if v.retired.isSome then (some ⟨{ v.me with fpcsr := a.thread.fpcsr }, v.native t k⟩, aheadKept s v t)
      else if v.me.wait = .unit && !branches i then (some (a.skip i keys), aheadKept s u t)
      else if v.me.wait = .status then (some a, s)
      else (none, s)
    | none, some keys, .next v =>
      let missed := aheadMisses v
      if !portsKept u v then (none, s)
      else if !missed.isEmpty then (some (a.skip i keys), prefetches t s.who missed (aheadKept s v t))
      else if v.retired.isSome then (some ⟨v.me, v.native t k⟩, aheadKept s v t)
      else if v.me.wait = .unit then (some (a.skip i keys), aheadKept s u t)
      else (none, s)
    | _, _, _ => (none, s)

/-- A cycle of a thread in run-ahead (R156, R162), where no thread of the tile is ready. -/
def aheadTurn (t k : Nat) (s : State) : State :=
  match s.aheadOf t k, s.thread t k with
  | some a, some x =>
    if a.thread.uid ≠ x.uid ∨ x.wait ≠ .global ∨ !runAheadOn s t ∨ haltActive s t then s.setAhead t k none
    else if (s.tile t).issuedAt = some s.cycle ∨ regionStopping s t then s
    else
      let r := aheadStep t k a s
      r.2.setAhead t k r.1
  | some _, none => s.setAhead t k none
  | none, _ => s

end Sys2Proof.Machine
end

