-- ==== Sys2Proof/Machine/Schedule.lean ====
section
/-! DEFINITION. Whose turn it is: the head of the agenda; where the agenda is empty the spec orders no agents, and the turn is a free
value (R156, R172 and log entry 19). -/

namespace Sys2Proof.Machine

/-- The error that five numbers name (R33). -/
def upsetOf (u : Nat × Nat × Nat × Nat × Nat) : Upset :=
  match u with
  | (0, k, _, _, _) => .word k
  | (1, t, p, d, _) => .flit t (if p = 0 then .scalar else .vector) (dirOf (d % 4))
  | (2, t, k, f, n) => .reg t (k % 6) (f % 3) n
  | (_, t, k, m, _) => .acc t (k % 4) (m % 4)

/-- The agent of the n-th free turn. -/
def freeWho (n : Nat) : Agent :=
  let a := Config.freeAgent n
  let b : Agent := match Config.freeUpset n, Config.freeKey n, Config.freeEvent n with
    | some u, _, _ => .upset (upsetOf u)
    | none, some k, _ => .key k.1 k.2
    | none, none, some i => .event ⟨a.2.1, a.2.2.1, a.2.2.2⟩ i
    | none, none, none => if a.1 = 0 then .core a.2.1 a.2.2.1 else .switch a.2.1
  .part (Config.freeWords n) b

/-- The n-th free turn. -/
def freeTurn (n : Nat) : Turn :=
  let c := Config.freeClocks n
  ⟨c.1, c.2.1, c.2.2, freeWho n⟩

end Sys2Proof.Machine
end

