-- ==== Sys2Proof/Machine/Turns.lean ====
section
/-! DEFINITION. One turn of the part: its agent's instruction fetched, performed and settled; an error that arises (R33); and the placing of an
instruction where the next turn fetches it. -/

namespace Sys2Proof.Machine

/-- The turn to take, and the state without it in its agenda. -/
def popTurn (s : State) : Turn × State :=
  match s.agenda with
  | u :: us => (u, { s with agenda := us })
  | [] => (freeTurn s.free, { s with free := s.free + 1 })

/-- Whether a step of the opcode table is an event: no word of the core or the switch, and no failure of their fetch. -/
def isEvent (i : Instr) : Bool :=
  !isCore i && (encodeSwitch i).isNone && match i with
    | .illegalInstruction _ => false
    | .instructionFetchFault _ => false
    | .switchIllegalWord _ => false
    | _ => true

/-- What a slot's turn comes to: nothing, its instruction performed, or a stop. -/
inductive Attempt where
  | stay (s : State)
  | done (i : Instr) (before after : State)
  | fault (f : Fault)
  | refused (r : Refusal)
  deriving DecidableEq, Repr

/-- A slot's instruction tried; one that a load still out holds back waits for it (R264). -/
def attempt (s : State) (t k : Nat) : Attempt :=
  match prepareCore s t k with
  | .stay s' => .stay s'
  | .run i u =>
    match exec i u with
    | .next v => if heldByLoad i u v then .stay (waitFor .global u) else .done i u v
    | .fault f => .fault f
    | .refused r => .refused r

/-- The place of a slot's next instruction in the order of R156: a gang instruction that is due, a funded thread (R159) or the leader
of a chain, which no budget holds (R170), a lean one, and last a thread in the cycle after its YIELD (R420). -/
def issueClass (s : State) (t k : Nat) (i : Instr) (x : Thread) : Nat :=
  if gangRole s t k = 2 ∧ (s.tile t).gangNow.isSome then 0
  else if x.yielded = s.cycle ∧ x.yielded ≠ 0 then 3
  else if fillOf (s.tile t).fills k = 0xFFF ∨ chargeOf i ≤ x.left ∨ gangRole s t k = 1 then 1
  else 2

/-- Steps from the slot that issued last to a slot, by ascending slots, wrapping from 5 to 0 (R156). -/
def rotation (s : State) (t k : Nat) : Nat := (k + 5 - (s.tile t).lastSlot) % 6

/-- The place of a slot in the order of R156 where its thread is ready, that is, where its next instruction would issue, or trap, now. -/
def readyPlace (s : State) (t k : Nat) : Option Nat :=
  match s.thread t k with
  | none => none
  | some x =>
    if x.pend.isSome then none
    else
      match attempt s t k with
      | .done i u v =>
        if (issuedWith u v).isSome || trapTaken u v then some (6 * issueClass s t k i x + rotation s t k) else none
      | _ => none

/-- The lean threads of a tile that are ready besides a slot (R161). -/
def leanReady (s : State) (t k : Nat) : List Nat :=
  (List.range 6).filter (fun j => decide (j ≠ k) && match readyPlace s t j with
    | some n => decide (n / 6 = 2)
    | none => false)

/-- Whether the core issues for another slot of the tile first (R156, R420): its thread is ready and comes before. The completion of an
instruction that has issued before is no issue. -/
def passedOver (s : State) (t k : Nat) : Bool :=
  match readyPlace s t k with
  | none => false
  | some n => (List.range 6).any (fun j => decide (j ≠ k) && match readyPlace s t j with
    | some m => decide (m < n)
    | none => false)

/-- The threads that an issue passes over because they are lean (R161): one to a funded thread. -/
def passedLean (s : State) (t k : Nat) : List Nat :=
  match readyPlace s t k with
  | some n => if n / 6 = 1 then leanReady s t k else []
  | none => []

/-- A core's turn where its slot's own instruction does not come to be: run-ahead, where no thread of the tile is ready (R156). -/
def idleTurn (t k : Nat) (s : State) : State :=
  if (s.aheadOf t k).isSome && (List.range 6).all (fun j => (readyPlace s t j).isNone) then aheadTurn t k s else s

/-- A core's turn: its instruction is exec's, unless the core issues for another slot first. A gang instruction that is due at the tile is
at hand (R156, R170). -/
def coreTurn (t k : Nat) (s0 : State) : Out :=
  let s := gangPull t s0
  if passedOver s t k then .next s
  else
    match attempt s t k with
    | .stay s' => .next (idleTurn t k s')
    | .done i s' s'' => .next (idleTurn t k (countLean t (passedLean s t k) (settleCore i s' s'')))
    | .fault f => .fault f
    | .refused r => .refused r

/-- A pass-through router's turn (R17): what its inputs hold goes straight on, once a cycle. -/
def passTurn (t : Nat) (s : State) : State :=
  if (s.tile t).sw.ranAt = s.cycle + 1 then s
  else (passThrough t s).updTile t (fun x => { x with sw := { x.sw with ranAt := s.cycle + 1 } })

/-- A switch's turn: its word is exec's. -/
def switchTurn (t : Nat) (s : State) : Out :=
  if s.part.passes t then .next (passTurn t s)
  else
    match prepareSwitch s t with
    | .stay s' => .next s'
    | .run i s' =>
      match exec i s' with
      | .next s'' => .next (settleSwitch s' s'')
      | .fault f => .fault f
      | .refused r => .refused r

/-- A buffer whose newest flit has gone bad. -/
def Buf.spoil {α : Type} (b : Buf α) : Buf α :=
  match b.flits.reverse with
  | [] => b
  | f :: fs => { b with flits := ({ f with bad := true } :: fs).reverse }

/-- An uncorrectable error arises (R33): a bad word is poisoned, and nothing has found it yet. -/
def applyUpset (u : Upset) (s : State) : State :=
  match u with
  | .word key =>
    let s := s.beforePoison key
    let fresh := !s.isPoisoned key 1
    { s.poisonWord key with latent := if fresh then keyInsert s.latent (key / 8) else s.latent,
                            hbmBad := if fresh && decide (key < hbmLimit s) then keyInsert s.hbmBad (key / 8) else s.hbmBad }
  | .flit t .scalar d => s.updTile t (fun x => { x with sc := x.sc.setInp (x.sc.inp d).spoil d })
  | .flit t .vector d => s.updTile t (fun x => { x with ve := x.ve.setInp (x.ve.inp d).spoil d })
  | .reg t k file n => s.updThread t k (fun x => { x with badRegs := keyInsert x.badRegs (badKey file n) })
  | .acc t k m => if isGuest k then s else s.updNative t k (fun n => { n with badAcc := keyInsert n.badAcc m })

/-- An event's turn: a word of the core or the switch is no event, and nothing happens. -/
def eventTurn (h : Here) (i : Instr) (s : State) : Out :=
  if isEvent i then exec i (prepareEvent s h) else .next (prepareEvent s h)

/-- Whether a turn acts after a thermal trip: the reset alone (R30). -/
def endsTrip (u : Turn) : Bool :=
  match u.who with
  | .event _ .reset => true
  | _ => false

/-- What an agent's turn comes to; a span of words is performed as far as the turn goes (R210). -/
def agentTurn (a : Agent) (s : State) : Out :=
  match a with
  | .core t k => coreTurn t k s
  | .switch t => switchTurn t s
  | .event h i => eventTurn h i s
  | .upset u => .next (applyUpset u s)
  | .key p k => .next (writeSecKey p k s)
  | .part n b =>
    match agentTurn b { s with words := n } with
    | .next s' => .next { s' with words := s.words }
    | r => r

/-- One turn, after the clocks have advanced; after a thermal trip the package is held until reset (R30). -/
def takeTurn (u : Turn) (s : State) : Out := if s.power.tripped && !endsTrip u then .next s else agentTurn u.who s

/-- The address at which a placed instruction stands, virtual and physical. -/
def placeAddr : Nat := 0x4000

/-- A page table at 0x1000 that maps the first GiB to itself with every permission (R202, R203). -/
def placeTables (s : State) : State := (s.putNat 0x1000 8 0x2001).putNat 0x2000 8 0x3F

/-- A thread about to fetch at `placeAddr` under the placed page table, at privilege level D. -/
def placedThread (x : Thread) : Thread :=
  { x with pc := word placeAddr, status := 2, root := 0x1000, stopped := false, wait := .none, pend := none, yielded := 0 }

/-- A tile whose core may issue, with empty TLB and instruction cache, that holds no region. -/
def placedTile (x : Tile) : Tile :=
  { x with gang := 0, issuedAt := none, halting := false, halted := false, tlb := [], icache := [], placed := false,
           sw := { x.sw with pc := 0, halted := false, blocked := false, ranAt := 0 } }

/-- An instruction of the core placed for slot 0 of tile 0. -/
def placeCore (s : State) (v : Nat) : State :=
  let s := ((placeTables s).putNat placeAddr 8 v).updTile 0 placedTile
  let s := (s.setThread 0 0 (some (placedThread ((s.thread 0 0).getD Thread.fresh)))).updNative 0 0 (fun n => { n with rep := Rep.none })
  { s with agenda := [⟨1, 1, 1, .core 0 0⟩] }

/-- A switch word placed at word 0 of tile 0's switch memory. -/
def placeSwitch (s : State) (v : Nat) : State :=
  let s := s.updTile 0 placedTile
  let s := s.updTile 0 (fun x => { x with sw := { x.sw with mem := sparseSet 0 x.sw.mem 0 (word v) } })
  { s with agenda := [⟨1, 1, 1, .switch 0⟩] }

/-- An instruction placed where the next turn fetches it (log entry 20). -/
def placeWord (s : State) (nbits w : Nat) : State :=
  let v := w % 2 ^ nbits
  if tableSwitch nbits v then placeSwitch s v else placeCore s v

end Sys2Proof.Machine
end

