-- ==== Sys2Proof/Machine/Step.lean ====
section
/-! DEFINITION. One step of the part: the clocks advance by the turn's amounts, and its agent acts. -/

namespace Sys2Proof.Machine

/-- One step: the next turn of the agenda. -/
def step (s : State) : Host.Outcome State Fault Refusal := takeTurn (popTurn s).1 (advance (popTurn s).2 (popTurn s).1)

/-- The instruction of a table word stored where the next step fetches it. -/
def State.withFetchWord (s : State) (nbits w : Nat) : State := placeWord s nbits w

end Sys2Proof.Machine
end

