-- ==== Sys2Proof/Safety.lean ====
section
/-! DEFINITION. What a safe step is, in the terms the statements use: the machine goes on, and the tables keep their canonical
form. -/

namespace Sys2Proof.Safety

open Sys2Proof.Machine

/-- The step goes on. -/
def Completes (s : State) : Prop := ∃ t, step s = .next t

/-- The memory is in canonical form. -/
def MemoryOk (s : State) : Prop := Memory.wf s.mem = true

end Sys2Proof.Safety
end

