-- ==== Sys2Proof/Certificates/Slice0/Obligations.lean ====
section
/-! DEFINITION. The statements for the provers, and the few definitions in whose terms they stand (namespace Sys2Proof.Spec). A
statement that an instruction completes says exec ANSWERS a next state under hypotheses on the state and the operands alone. -/

open Sys2Proof Sys2Proof.Machine

namespace Sys2Proof.Spec

/-- A scalar destination has room (R164, R264, R380): a register awaits no status of a copy and no load that is out, a port has a free
place of its four. -/
def Room (d : SReg) (s : State) : Prop :=
  match d with
  | .gen n => s.me.awaits n = false ∧ s.me.loadsS n = false
  | .port p => (s.hereTile.sc.cout p).used s.cycle + reservedS s s.here.tile p < 4

/-- A vector destination has room (R164, R264). -/
def RoomV (d : VReg) (s : State) : Prop :=
  match d with
  | .gen n => s.me.loadsV n = false
  | .port p => (s.hereTile.ve.cout p).used s.cycle + reservedV s s.here.tile p < 4

/-- The system registers of a thread keep (R259, R262): privilege, floating-point control, trap registers, LIVEMASK, the budget left and
what it has of its task. -/
def SpecialsKept (x y : Thread) : Prop :=
  y.status = x.status ∧ y.fpcsr = x.fpcsr ∧ y.trapvec = x.trapvec ∧ y.trapcause = x.trapcause ∧ y.trappc = x.trappc
    ∧ y.trapval = x.trapval ∧ y.trapval2 = x.trapval2 ∧ y.livemask = x.livemask ∧ y.left = x.left ∧ y.key = x.key
    ∧ y.count = x.count ∧ y.window = x.window

/-- Memory keeps, with its F/E bits, what lies outside it and travels, and the slot's accumulators. -/
def MachineKept (s t : State) : Prop :=
  t.mem = s.mem ∧ t.full = s.full ∧ t.poison = s.poison ∧ t.net = s.net
    ∧ ∀ m i j, accAt t.myNative m i j = accAt s.myNative m i j

/-- The words of an instruction as a pair: the second is `x` where the first is not wide (R279, R285). -/
def secondWord (ws : List Nat) (x : Nat) : Nat :=
  match ws with
  | [_, w] => w
  | _ => x

end Sys2Proof.Spec

open Sys2Proof.Spec
/-! Encodings (R279-R298). -/

/-- Every well-formed instruction of the core decodes from its own words, whatever stands after a one-word instruction: no bit of an
encoding is dropped (R279-R295). -/
def Obligations.CoreDecodeInvertsEncode : Prop :=
  ∀ (i : Instr) (x : Nat), i.wf = true → isCore i = true →
    decodeCore ((encode i).headD 0) (secondWord (encode i) x) = .ok i
      ∧ (encode i).length = (if isWide ((encode i).headD 0) then 2 else 1) ∧ ∀ w ∈ encode i, w < 2 ^ 32

/-- A core word that decodes is well formed, and is the encoding of what it decodes to: no two words mean the same instruction, and a
word with a nonzero reserved field is refused (R298). -/
def Sys2Proof.Spec.CoreWordsReadBack : Prop :=
  ∀ (w w1 : Nat) (i : Instr), w < 2 ^ 32 → w1 < 2 ^ 32 → decodeCore w w1 = .ok i →
    i.wf = true ∧ encode i = if isWide w then [w, w1] else [w]

/-- Every well-formed switch instruction decodes from its word, and every switch word that decodes is the word of a well-formed
switch instruction (R296, R297). -/
def Sys2Proof.Spec.SwitchRoundTrip : Prop :=
  (∀ (i : Instr) (w : Nat), i.wf = true → encodeSwitch i = some w → decodeSwitch w = .ok i ∧ w < 2 ^ 64) ∧
  (∀ (w : Nat) (i : Instr), w < 2 ^ 64 → decodeSwitch w = .ok i → i.wf = true ∧ encodeSwitch i = some w)

/-- Every word that decodes is the word of its instruction, and of the switch's words both directions hold (R296-R298). -/
def Obligations.EncodeInvertsDecode : Prop := Spec.CoreWordsReadBack ∧ Spec.SwitchRoundTrip

/-- Words written out from the tables of the spec: ADD s3, s4, s5 (R286); ADDI s1, s0, -1 (R287); BR.NE s1, s2, -4 (R288);
LD.64 s3, [s4 + 16] (R289); LI s3, 0x12345678 (R295); VADD.i32 v1, v2, v3 (R291); the word 0 (R285); SJMP 5 and SHALT (R297). -/
def Obligations.WrittenWordsDecode : Prop :=
  decodeCore 0x000A4181 0 = .ok (.add (.gen 3) (.gen 4) (.gen 5))
    ∧ decodeCore 0xFFFE0083 0 = .ok (.addi (.gen 1) (.gen 0) 0x7FFF)
    ∧ decodeCore 0xFFC22090 0 = .ok (.br .ne (.gen 1) (.gen 2) 0xFFC)
    ∧ decodeCore 0x60044198 0 = .ok (.ld .w64 (.gen 3) (.gen 4) 2)
    ∧ decodeCore 0x000201FF 0x12345678 = .ok (.li (.gen 3) 0x12345678)
    ∧ decodeCore 0x040620B0 0 = .ok (.vadd .i32 (.gen 1) (.gen 2) (.gen 3) 0)
    ∧ decodeCore 0 0 = .error (.major 0)
    ∧ decodeSwitch 0x0050000000000003 = .ok (.sjmp 5)
    ∧ decodeSwitch 7 = .ok .shalt
    ∧ decodeSwitch 8 = .error (.function 8)

/-! The machine as a whole (R30, R156, R199, R279). -/

/-- What the spec states of the part at reset: self-test has not ended (R47), the carve registers give die 0 one MiB of DIRECT each and
nothing else (R199), the ring is silent at pace FULL (R118), the endpoint registers hold their reset values (R44), throttling is off
(R29), and no thread, task, node or region exists. -/
def Sys2Proof.Spec.ResetState : Prop :=
  State.reset.ep.boot = .selfTest ∧ State.reset.bootstat = word (State.reset.ep.svn.toNat * 2 ^ 32 + Config.romVersion.toNat * 2 ^ 16)
    ∧ (∀ m, (State.reset.mpt m).carve = if m < 32 then 1 else 0)
    ∧ (∀ l, (State.reset.lane l).shelf = none ∧ (State.reset.lane l).queue = [])
    ∧ State.reset.ring.slowen = false ∧ State.reset.ring.ghosten = false ∧ State.reset.ring.beats = []
    ∧ State.reset.ep.epctl = 7 ∧ State.reset.ep.pkgid = 0 ∧ State.reset.ep.pwrcap = 3000 ∧ State.reset.ep.hport = 0xCFD0
    ∧ State.reset.ep.vlan = 0 ∧ State.reset.ep.evlost = 0 ∧ State.reset.power.step = 0 ∧ State.reset.power.tripped = false
    ∧ (∀ t k, State.reset.thread t k = none) ∧ (∀ t, (State.reset.tile t).tasks = [] ∧ (State.reset.tile t).placed = false)
    ∧ State.reset.nodes = [] ∧ State.reset.regions = []

/-- The registers of a thread before its first instruction: every register and system register of the thread is zero but LIVEMASK
(R155, R193, R262, R420). -/
def Sys2Proof.Spec.ThreadStartState : Prop :=
  (∀ n, Thread.fresh.sreg n = 0) ∧ (∀ n, Thread.fresh.vreg n = 0) ∧ (∀ n, Thread.fresh.kreg n = if n = 0 then BitVec.allOnes 64 else 0)
    ∧ Thread.fresh.trapcause = 0 ∧ Thread.fresh.trappc = 0 ∧ Thread.fresh.trapval = 0 ∧ Thread.fresh.trapval2 = 0
    ∧ Thread.fresh.status = 0 ∧ Thread.fresh.fpcsr = 0 ∧ Thread.fresh.livemask = 0x0FFFFFFE ∧ Thread.fresh.ev = false

/-- RESET leaves the machine, and a start leaves a thread, as the spec gives them (R15, R29, R44, R47, R118, R155, R193, R199, R262). -/
def Obligations.ResetValues : Prop := Spec.ResetState ∧ Spec.ThreadStartState

/-- The memory of the reset state is in canonical form. -/
def Obligations.ResetMemoryCanonical : Prop := Safety.MemoryOk State.reset

/-- Every step keeps memory in canonical form, whatever agent takes it: equal memories stay equal data. -/
def Obligations.StepKeepsMemoryCanonical : Prop := ∀ s t : State, Safety.MemoryOk s → step s = .next t → Safety.MemoryOk t

namespace Sys2Proof.Spec

/-- The part as the core of a tile finds it in its turn: the head of the agenda taken off, the clocks advanced, a gang instruction that
is due at hand (R156, R170). -/
def coreBefore (s : State) (u : Turn) (rest : List Turn) (t : Nat) : State := gangPull t (advance { s with agenda := rest } u)

/-- The state in which the core of a tile performs its turn for a slot. -/
def coreState (s : State) (u : Turn) (rest : List Turn) (t k : Nat) : State :=
  { coreBefore s u rest t with here := ⟨t, k, 0⟩, retired := none }

/-- The state in which an agent that is no core performs its turn. -/
def agentState (s : State) (u : Turn) (rest : List Turn) (h : Here) : State :=
  { advance { s with agenda := rest } u with here := h, retired := none }

/-- What a turn of the core makes of the meaning's answer in `u`, `s` being the part as the turn finds it: an instruction that an earlier load
holds back waits for it (R264); a next state is settled (the tile's issue, the budget, the gang chain, the lean threads passed over);
and run-ahead goes on where no thread of the tile is ready (R156). -/
def settled (i : Instr) (s u : State) (t k : Nat) : Out :=
  match exec i u with
  | .next v =>
    if heldByLoad i u v then .next (idleTurn t k (waitFor .global u))
    else .next (idleTurn t k (countLean t (passedLean s t k) (settleCore i u v)))
  | .fault f => .fault f
  | .refused r => .refused r

/-- The core's turn for a slot finds a thread that may issue, that no other thread comes before, and that is in no gang chain. -/
def Issues (s : State) (u : Turn) (rest : List Turn) (t k : Nat) (x : Thread) : Prop :=
  s.agenda = u :: rest ∧ u.who = .core t k ∧ s.power.tripped = false ∧ (coreState s u rest t k).thread t k = some x
    ∧ mayIssue (coreState s u rest t k) t k x = true ∧ passedOver (coreBefore s u rest t) t k = false
    ∧ gangRole (coreState s u rest t k) t k = 0

end Sys2Proof.Spec

/-- A step whose turn is a core's, and whose slot the core picks (R156), runs the instruction fetched at its thread's PC: the decoded one,
ILLEGAL_INSTRUCTION with the words where they decode to none (R298), INSTRUCTION_FETCH_FAULT where the fetch fails (R279). -/
def Sys2Proof.Spec.CoreStepRunsFetched : Prop :=
  ∀ (s : State) (u : Turn) (rest : List Turn) (t k : Nat) (x : Thread), Spec.Issues s u rest t k x → x.pend = none →
    ((coreState s u rest t k).native t k).rep.active = false →
    (∀ w s1 i, fetchInstr (coreState s u rest t k) t x.root x.pl x.pc = .ok (w, s1) → decodeCore w.1.toNat w.2.toNat = .ok i →
      (s1.native t k).rep.active = false → step s = settled i (Spec.coreBefore s u rest t) s1 t k) ∧
    (∀ w s1 e, fetchInstr (coreState s u rest t k) t x.root x.pl x.pc = .ok (w, s1) → decodeCore w.1.toNat w.2.toNat = .error e →
      (s1.native t k).rep.active = false →
      step s = settled (.illegalInstruction (word (w.1.toNat + (if isWide w.1.toNat then w.2.toNat * 2 ^ 32 else 0))))
        (Spec.coreBefore s u rest t) s1 t k) ∧
    (∀ c, fetchInstr (coreState s u rest t k) t x.root x.pl x.pc = .error c →
      step s = settled (.instructionFetchFault (fetchFaultOf c)) (Spec.coreBefore s u rest t)
        (coreState s u rest t k) t k)

/-- An instruction that waits for its replies goes on as it was fetched, whatever now stands in memory (R299). -/
def Sys2Proof.Spec.CoreStepGoesOn : Prop :=
  ∀ (s : State) (u : Turn) (rest : List Turn) (t k : Nat) (x : Thread) (p : Pend) (i : Instr), Spec.Issues s u rest t k x →
    x.pend = some p → x.issued = some i → step s = settled i (Spec.coreBefore s u rest t) (coreState s u rest t k) t k

/-- A slot that another ready thread comes before does not issue (R156): the step advances the clocks, with a gang instruction that is due
at hand, and no more. A thread of the tile that is alone is never passed over. -/
def Sys2Proof.Spec.CoreStepPasses : Prop :=
  (∀ (s : State) (u : Turn) (rest : List Turn) (t k : Nat), s.agenda = u :: rest → u.who = .core t k → s.power.tripped = false →
    passedOver (Spec.coreBefore s u rest t) t k = true → step s = .next (Spec.coreBefore s u rest t)) ∧
  (∀ (s : State) (t k : Nat), (∀ j, j < 6 → j ≠ k → s.thread t j = none) → passedOver s t k = false)

/-- In a repeat whose body has been fetched up to the present index, a step replays the buffered words and fetches nothing (R347). -/
def Sys2Proof.Spec.CoreStepReplays : Prop :=
  ∀ (s : State) (u : Turn) (rest : List Turn) (t k : Nat) (x : Thread) (w : RepWord) (i : Instr), Spec.Issues s u rest t k x →
    x.pend = none → ((coreState s u rest t k).native t k).rep.active = true →
    ((coreState s u rest t k).native t k).rep.buf[((coreState s u rest t k).native t k).rep.idx]? = some w →
    decodeCore w.w0.toNat w.w1.toNat = .ok i → step s = settled i (Spec.coreBefore s u rest t) (coreState s u rest t k) t k

/-- A step whose turn is a switch's runs the word at the switch's PC, and then counts the cycle as used (R165, R296, R297). -/
def Sys2Proof.Spec.SwitchStepRuns : Prop :=
  ∀ (s : State) (u : Turn) (rest : List Turn) (t : Nat),
    s.agenda = u :: rest → u.who = .switch t → s.power.tripped = false →
    (s.tile t).sw.halted = false → (s.tile t).sw.blocked = false → (s.tile t).sw.ranAt ≠ s.cycle + u.cycles + 1 →
    (s.tile t).halted = false → (s.tile t).halting = false → s.part.passes t = false → regionStopping (agentState s u rest ⟨t, 0, 0⟩) t = false →
    step s =
      (match exec (match decodeSwitch (sparseGet 0 (s.tile t).sw.mem (s.tile t).sw.pc).toNat with
          | .ok i => i
          | .error _ => .switchIllegalWord (sparseGet 0 (s.tile t).sw.mem (s.tile t).sw.pc)) (agentState s u rest ⟨t, 0, 0⟩) with
      | .next v => .next (settleSwitch (agentState s u rest ⟨t, 0, 0⟩) v)
      | .fault f => .fault f
      | .refused r => .refused r)

/-- A step whose turn is an event's performs that event on its item, after the clocks have advanced. -/
def Sys2Proof.Spec.EventStepRuns : Prop :=
  ∀ (s : State) (u : Turn) (rest : List Turn) (h : Here) (i : Instr),
    s.agenda = u :: rest → u.who = .event h i → isEvent i = true → (s.power.tripped = false ∨ i = .reset) →
    step s = exec i (agentState s u rest h)

/-- A step runs the instruction whose turn it is (the turns are the model's own, log entry 19): of a core, unless another ready thread of
its tile comes before (R156), the one that the bytes at its PC decode to or that its repeat holds, of a switch the word at its PC, or
the event (R165, R279, R299, R347). -/
def Obligations.StepRunsInstruction : Prop :=
  Spec.CoreStepRunsFetched ∧ Spec.CoreStepGoesOn ∧ Spec.CoreStepPasses ∧ Spec.CoreStepReplays ∧ Spec.SwitchStepRuns ∧ Spec.EventStepRuns

/-- After a thermal trip nothing but time and a reset changes the part (R30): cores, switches and engines stop until the reset, which
ends the trip. -/
def Obligations.TripHoldsUntilReset : Prop :=
  (∀ (s : State) (u : Turn) (rest : List Turn), s.agenda = u :: rest → s.power.tripped = true → (∀ h, u.who ≠ .event h .reset) →
    step s = .next (advance { s with agenda := rest } u)) ∧
  (∀ (s : State) (u : Turn) (rest : List Turn) (h : Here), s.agenda = u :: rest → u.who = .event h .reset →
    ∃ t, step s = .next t ∧ t.power.tripped = false ∧ t.ep.boot = .selfTest ∧ t.threads = [] ∧ t.mem = [])

/-! Registers, ports, retirement and traps (R164, R263-R267, R281, R282, R347). -/

/-- A read of a scalar field (R164, R282): s0 is zero; another register is its value; a port pops the head of its CIN buffer, and
every other buffer keeps. -/
def Sys2Proof.Spec.FieldReads : Prop :=
  (∀ (s : State), s.me.awaits 0 = false → s.me.loadsS 0 = false → s.me.ripe (badKey 0 0) s.cycle = true → readS (.gen 0) s = .go 0 s) ∧
  (∀ (s : State) (n : Nat), n ≠ 0 → s.me.awaits n = false → s.me.loadsS n = false → s.me.ripe (badKey 0 n) s.cycle = true →
    badKey 0 n ∉ s.me.badRegs → readS (.gen n) s = .go (sparseGet 0 s.me.s n) s) ∧
  (∀ (s : State) (p : Dir) (f : Flit Word) (fs : List (Flit Word)), (s.hereTile.sc.cin p).flits = f :: fs → f.ready ≤ s.cycle →
    f.bad = false → ∃ t, readS (.port p) s = .go f.val t ∧ (t.hereTile.sc.cin p).flits = fs
      ∧ (∀ q, q ≠ p → t.hereTile.sc.cin q = s.hereTile.sc.cin q) ∧ (∀ q, t.hereTile.sc.cout q = s.hereTile.sc.cout q)
      ∧ t.me = s.me ∧ MachineKept s t)

/-- A write of a field changes that register, or pushes onto that port, behind what is there by then, and nothing else (R164, R282, R321): s0
and k0 discard a write, and another register keeps its value. -/
def Sys2Proof.Spec.FieldWrites : Prop :=
  (∀ (s : State) (x : Thread) (n : Nat) (v : Word) (lat : Nat), s.cur = some x →
    ∃ y, (writeS (.gen n) v lat s).cur = some y ∧ (∀ m, y.sreg m = if m = n ∧ n ≠ 0 then v else x.sreg m) ∧ y.v = x.v ∧ y.k = x.k
      ∧ y.pc = x.pc ∧ SpecialsKept x y ∧ MachineKept s (writeS (.gen n) v lat s) ∧ (writeS (.gen n) v lat s).tiles = s.tiles) ∧
  (∀ (s : State) (x : Thread) (n : Nat) (v : Vec) (lat : Nat), s.cur = some x →
    ∃ y, (writeV (.gen n) v lat s).cur = some y ∧ (∀ m, y.vreg m = if m = n then v else x.vreg m) ∧ y.s = x.s ∧ y.k = x.k
      ∧ y.pc = x.pc ∧ SpecialsKept x y ∧ MachineKept s (writeV (.gen n) v lat s) ∧ (writeV (.gen n) v lat s).tiles = s.tiles) ∧
  (∀ (s : State) (x : Thread) (n : Nat) (v : Word) (lat : Nat), s.cur = some x →
    ∃ y, (writeK n v lat s).cur = some y ∧ (∀ m, y.kreg m = if m = n ∧ n ≠ 0 then v else x.kreg m) ∧ y.s = x.s ∧ y.v = x.v
      ∧ y.pc = x.pc ∧ SpecialsKept x y ∧ MachineKept s (writeK n v lat s) ∧ (writeK n v lat s).tiles = s.tiles) ∧
  (∀ (s : State) (p : Dir) (v : Word) (lat : Nat),
    (∃ before after, (s.hereTile.sc.cout p).flits = before ++ after
      ∧ ((writeS (.port p) v lat s).hereTile.sc.cout p).flits = before ++ ⟨s.cycle + lat, v, false⟩ :: after
      ∧ (∀ f ∈ before, f.ready ≤ s.cycle + lat) ∧ ∀ f fs, after = f :: fs → s.cycle + lat < f.ready)
      ∧ (∀ q, q ≠ p → (writeS (.port p) v lat s).hereTile.sc.cout q = s.hereTile.sc.cout q)
      ∧ (∀ q, (writeS (.port p) v lat s).hereTile.sc.cin q = s.hereTile.sc.cin q)
      ∧ (∀ x, s.cur = some x → ∃ y, (writeS (.port p) v lat s).cur = some y ∧ y.s = x.s ∧ y.v = x.v ∧ y.k = x.k ∧ y.pc = x.pc
        ∧ SpecialsKept x y ∧ (lat ≤ 1 → y = x))
      ∧ MachineKept s (writeS (.port p) v lat s))

/-- Operand fields are read and written as the spec says, and nothing else changes (R164, R281-R283). -/
def Obligations.OperandFields : Prop := Spec.FieldReads ∧ Spec.FieldWrites

/-- Retirement of an instruction of `n` bytes (R279, R347): outside a repeat the thread goes on at the next word; inside one it goes on in
the body, at the body's start for the next pass, or after it once no pass is left. Registers, accumulators, buffers and all memory are as
before. -/
def Obligations.RetirementAdvances : Prop :=
  (∀ (v : Word) (s : State), retireV v s = retireAt s.here.tile s.here.slot 4 v s) ∧
  ∀ (s t : State) (x : Thread) (v : Word) (n : Nat), s.cur = some x → t = retireAt s.here.tile s.here.slot n v s →
    (s.myNative.rep.active = false → t.me.pc = x.pc + word n) ∧
    (s.myNative.rep.active = true → s.myNative.rep.idx + 1 < s.myNative.rep.len →
      t.me.pc = x.pc + word n ∧ t.myNative.rep = { s.myNative.rep with idx := s.myNative.rep.idx + 1 }) ∧
    (s.myNative.rep.active = true → ¬(s.myNative.rep.idx + 1 < s.myNative.rep.len) → 1 < s.myNative.rep.remain →
      t.me.pc = s.myNative.rep.start ∧ t.myNative.rep = { s.myNative.rep with idx := 0, remain := s.myNative.rep.remain - 1 }) ∧
    (s.myNative.rep.active = true → ¬(s.myNative.rep.idx + 1 < s.myNative.rep.len) → s.myNative.rep.remain ≤ 1 →
      t.me.pc = x.pc + word n ∧ t.myNative.rep.active = false) ∧
    t.me.s = x.s ∧ t.me.v = x.v ∧ t.me.k = x.k ∧ SpecialsKept x t.me ∧ MachineKept s t ∧ t.tiles = s.tiles

/-- A trap that the thread handles (R263, R265): TRAPPC takes the PC, TRAPCAUSE, TRAPVAL and TRAPVAL2 what the cause gives, PPL takes
PL, PL becomes at least S, INTRAP is set, and the thread goes on at the handler; every register and all memory keep. -/
def Sys2Proof.Spec.HandledTrap : Prop :=
  ∀ (s : State) (x : Thread) (c : TrapInfo), s.cur = some x → c.unstated = false → (c.cause = .brk → s.hereTile.brkhalt = false) →
    chainOf s s.here.tile s.here.slot = [] → flag x.trapvec 0 = true → flag x.status 5 = false →
    ∃ y, (takeTrap c s).cur = some y ∧ y.trappc = x.pc ∧ y.trapval = c.val ∧ y.trapval2 = c.val2
      ∧ field y.trapcause 0 8 = causeCode c.cause ∧ flag y.trapcause 8 = c.next
      ∧ flag y.trapcause 15 = s.myNative.rep.active
      ∧ field y.status 2 2 = field x.status 0 2 ∧ field y.status 0 2 = max (field x.status 0 2) 1 ∧ flag y.status 5 = true
      ∧ y.pc = BitVec.ofInt 64 ((BitVec.ofNat 48 (field x.trapvec 2 46 * 4)).toInt)
      ∧ y.s = x.s ∧ y.v = x.v ∧ y.k = x.k ∧ y.fpcsr = x.fpcsr ∧ y.livemask = x.livemask ∧ y.trapvec = x.trapvec
      ∧ (∀ m i j, accAt (takeTrap c s).myNative m i j = accAt s.myNative m i j)
      ∧ (takeTrap c s).mem = s.mem ∧ (takeTrap c s).full = s.full
      ∧ (isGuest s.here.slot = false → (takeTrap c s).myNative.rep.active = false)

/-- A trap that the thread does not handle (R77, R265): within a handler or without one the thread stops, with its trap registers
written. -/
def Sys2Proof.Spec.UnhandledTrap : Prop :=
  ∀ (s : State) (x : Thread) (c : TrapInfo), s.cur = some x → c.unstated = false → (c.cause = .brk → s.hereTile.brkhalt = false) →
    x.node = none → chainOf s s.here.tile s.here.slot = [] → (flag x.trapvec 0 = false ∨ flag x.status 5 = true) →
    ∃ y, (takeTrap c s).cur = some y ∧ y.stopped = true ∧ y.trappc = x.pc ∧ y.trapval = c.val ∧ y.trapval2 = c.val2
      ∧ field y.trapcause 0 8 = causeCode c.cause ∧ y.s = x.s ∧ y.status = x.status ∧ (takeTrap c s).mem = s.mem

/-- A trap enters the thread's handler, or stops a thread that cannot handle it (R77, R263, R265-R267). -/
def Obligations.TrapEntry : Prop := Spec.HandledTrap ∧ Spec.UnhandledTrap

/-- ERET (R265, R419): at S and D, with no repeat to restore, PL takes PPL, INTRAP is cleared and the thread goes on at TRAPPC; at U it
raises PRIVILEGE with its own word. -/
def Obligations.EretReturns : Prop :=
  (∀ (s : State) (x : Thread), s.cur = some x → x.pl ≠ 0 → (isGuest s.here.slot = true ∨ flag s.myNative.repstate 63 = false) →
    ∃ t y, exec .eret s = .next t ∧ t.cur = some y ∧ y.pc = x.trappc ∧ field y.status 0 2 = field x.status 2 2
      ∧ field y.status 2 2 = field x.status 2 2 ∧ flag y.status 5 = false ∧ y.s = x.s ∧ y.v = x.v ∧ y.k = x.k
      ∧ SpecialsKept x { y with status := x.status } ∧ MachineKept s t) ∧
  (∀ (s : State) (x : Thread), s.cur = some x → x.pl = 0 →
    exec .eret s = .next (takeTrap (trapOf .privilege 0x73 0) s))

/-! Scalar instructions (R304-R316). -/

namespace Sys2Proof.Spec

/-- The two-operand instructions of R306: constructor, latency (R305), and the result on the operands read as numbers. -/
def scalarRows : List ((SReg → SReg → SReg → Instr) × Nat × (Word → Word → Word)) :=
  [(.add, 1, fun x y => BitVec.ofNat 64 (x.toNat + y.toNat)),
   (.sub, 1, fun x y => BitVec.ofInt 64 ((x.toNat : Int) - y.toNat)),
   (.mul, 3, fun x y => BitVec.ofNat 64 (x.toNat * y.toNat)),
   (.mulh, 3, fun x y => BitVec.ofInt 64 (x.toInt * y.toInt / 2 ^ 64)),
   (.mulhn, 3, fun x y => BitVec.ofNat 64 (x.toNat * y.toNat / 2 ^ 64)),
   (.and, 1, fun x y => x &&& y),
   (.or, 1, fun x y => x ||| y),
   (.xor, 1, fun x y => x ^^^ y),
   (.andn, 1, fun x y => x &&& ~~~y),
   (.orn, 1, fun x y => x ||| ~~~y),
   (.shl, 1, fun x y => BitVec.ofNat 64 (x.toNat * 2 ^ (y.toNat % 64))),
   (.shr, 1, fun x y => BitVec.ofNat 64 (x.toNat / 2 ^ (y.toNat % 64))),
   (.sra, 1, fun x y => BitVec.ofInt 64 (x.toInt / (2 ^ (y.toNat % 64) : Nat))),
   (.rol, 1, fun x y => BitVec.ofNat 64 (x.toNat * 2 ^ (y.toNat % 64) + x.toNat / 2 ^ (64 - y.toNat % 64))),
   (.min, 1, fun x y => if x.toInt ≤ y.toInt then x else y),
   (.max, 1, fun x y => if x.toInt ≤ y.toInt then y else x),
   (.minn, 1, fun x y => if x.toNat ≤ y.toNat then x else y),
   (.maxn, 1, fun x y => if x.toNat ≤ y.toNat then y else x),
   (.slt, 1, fun x y => if x.toInt < y.toInt then 1 else 0),
   (.sltn, 1, fun x y => if x.toNat < y.toNat then 1 else 0),
   (.seq, 1, fun x y => if x.toNat = y.toNat then 1 else 0)]

/-- The divisions of R307: constructor and result, on a divisor that is not zero. -/
def divideRows : List ((SReg → SReg → SReg → Instr) × (Word → Word → Word)) :=
  [(.div, fun x y => BitVec.ofInt 64 ((x.toInt * y.toInt).sign * (x.toInt.natAbs / y.toInt.natAbs : Nat))),
   (.rem, fun x y => BitVec.ofInt 64 (x.toInt - y.toInt * ((x.toInt * y.toInt).sign * (x.toInt.natAbs / y.toInt.natAbs : Nat)))),
   (.divn, fun x y => BitVec.ofNat 64 (x.toNat / y.toNat)),
   (.remn, fun x y => BitVec.ofNat 64 (x.toNat - y.toNat * (x.toNat / y.toNat)))]

/-- The checked forms of R308: constructor and exact result. -/
def checkedRows : List ((SReg → SReg → SReg → Instr) × (Word → Word → Int)) :=
  [(.addv, fun x y => x.toInt + y.toInt), (.subv, fun x y => x.toInt - y.toInt)]

/-- The one-operand instructions of R306, R309 and R310: instruction by destination and source, and its result. -/
inductive UnaryRow : (SReg → SReg → Instr) → (Word → Word) → Prop where
  | clz : UnaryRow .clz (fun x => BitVec.ofNat 64 (if x = 0 then 64 else 63 - Nat.log2 x.toNat))
  | ctz : UnaryRow .ctz (fun x => BitVec.ofNat 64 (((List.range 64).find? (fun i => x.getLsbD i)).getD 64))
  | popc : UnaryRow .popc (fun x => BitVec.ofNat 64 ((List.range 64).filter (fun i => x.getLsbD i)).length)
  | addi (imm : BitVec 15) : UnaryRow (fun d a => .addi d a imm) (fun x => BitVec.ofInt 64 (x.toNat + imm.toInt))
  | andi (imm : BitVec 15) : UnaryRow (fun d a => .andi d a imm) (fun x => x &&& imm.signExtend 64)
  | ori (imm : BitVec 15) : UnaryRow (fun d a => .ori d a imm) (fun x => x ||| imm.setWidth 64)
  | xori (imm : BitVec 15) : UnaryRow (fun d a => .xori d a imm) (fun x => x ^^^ imm.setWidth 64)
  | shli (n : BitVec 6) : UnaryRow (fun d a => .shli d a n) (fun x => BitVec.ofNat 64 (x.toNat * 2 ^ n.toNat))
  | shri (n : BitVec 6) : UnaryRow (fun d a => .shri d a n) (fun x => BitVec.ofNat 64 (x.toNat / 2 ^ n.toNat))
  | srai (n : BitVec 6) : UnaryRow (fun d a => .srai d a n) (fun x => BitVec.ofInt 64 (x.toInt / (2 ^ n.toNat : Nat)))
  | slti (imm : BitVec 15) : UnaryRow (fun d a => .slti d a imm) (fun x => if x.toInt < imm.toInt then 1 else 0)
  | bfx (p n : Nat) : UnaryRow (fun d a => .bfx d a p n) (fun x => BitVec.ofNat 64 (x.toNat / 2 ^ p % 2 ^ n))

/-- Whether a gang follower's slot performs the leader's instruction in this step (R170). -/
def Follows (s : State) : Prop := (gangStep s).isSome = true

end Sys2Proof.Spec

/-- ADD, SUB, MUL, MULH, MULHN, AND, OR, XOR, ANDN, ORN, SHL, SHR, SRA, ROL, MIN, MAX, MINN, MAXN, SLT, SLTN and SEQ complete on
operands that can be read and a destination with room (R306): d takes the result, and the instruction retires. -/
def Obligations.ScalarBinaryResults : Prop :=
  ∀ e ∈ scalarRows, ∀ (d a b : SReg) (s s1 s2 : State) (z : Thread) (x y : Word), s.cur = some z → Room d s →
    readS a s = .go x s1 → readS b s1 = .go y s2 →
    exec (e.1 d a b) s = .next (retireV (e.2.2 x y) (writeS d (e.2.2 x y) e.2.1 s2))

/-- DIV, REM, DIVN and REMN (R307): they complete on a nonzero divisor with the truncated quotient or its remainder, and hold the
divider for 24 cycles; a zero divisor raises ZERODIV, and the state but for the trap is as before. -/
def Obligations.DivisionResults : Prop :=
  ∀ e ∈ divideRows, ∀ (d a b : SReg) (s s1 s2 : State) (z : Thread) (x y : Word), s.cur = some z → Room d s →
    s.hereTile.divUntil ≤ s.cycle → readS a s = .go x s1 → readS b s1 = .go y s2 →
    (y ≠ 0 → exec (e.1 d a b) s = .next (retireV (e.2 x y) (writeS d (e.2 x y) 24
      (s2.updHere (fun t => { t with divUntil := s2.cycle + 24 }))))) ∧
    (y = 0 → exec (e.1 d a b) s = .next (takeTrap (trapOf .zerodiv 0 0) s))

/-- ADDV and SUBV (R308): they complete where the exact sum or difference fits in 64 signed bits, and raise OVERFLOW with nothing
else changed where it does not. -/
def Obligations.CheckedArithmetic : Prop :=
  ∀ e ∈ checkedRows, ∀ (d a b : SReg) (s s1 s2 : State) (z : Thread) (x y : Word), s.cur = some z → Room d s →
    readS a s = .go x s1 → readS b s1 = .go y s2 →
    (-(2 ^ 63) ≤ e.2 x y ∧ e.2 x y ≤ 2 ^ 63 - 1 →
      exec (e.1 d a b) s = .next (retireV (BitVec.ofInt 64 (e.2 x y)) (writeS d (BitVec.ofInt 64 (e.2 x y)) 1 s2))) ∧
    (e.2 x y < -(2 ^ 63) ∨ 2 ^ 63 - 1 < e.2 x y → exec (e.1 d a b) s = .next (takeTrap (trapOf .overflow 0 0) s))

/-- CLZ, CTZ, POPC, ADDI, ANDI, ORI, XORI, SHLI, SHRI, SRAI, SLTI and BFX complete (R306, R309, R310). -/
def Sys2Proof.Spec.ScalarUnary : Prop :=
  ∀ (i : SReg → SReg → Instr) (f : Word → Word), UnaryRow i f → ∀ (d a : SReg) (s s1 : State) (z : Thread) (x : Word),
    s.cur = some z → Room d s → readS a s = .go x s1 → exec (i d a) s = .next (retireV (f x) (writeS d (f x) 1 s1))

/-- SEL and BFI complete (R306, R310): SEL gives a where bit 0 of the predicate is one, else b; BFI puts the n low bits of a at bit p
of d, which it reads after a. -/
def Obligations.SelectAndInsertResults : Prop :=
  (∀ (d a b : SReg) (k : Nat) (s s1 s2 s3 : State) (z : Thread) (x y m : Word), s.cur = some z → Room d s →
    readS a s = .go x s1 → readS b s1 = .go y s2 → readK k s2 = .go m s3 →
    exec (.sel d a b k) s = .next (retireV (if m.getLsbD 0 then x else y) (writeS d (if m.getLsbD 0 then x else y) 1 s3))) ∧
  (∀ (d a : SReg) (p n : Nat) (s s1 s2 : State) (z : Thread) (x old : Word), s.cur = some z → Room d s → p + n ≤ 64 → 1 ≤ n →
    readS a s = .go x s1 → readS d s1 = .go old s2 →
    ∃ v : Word, exec (.bfi d a p n) s = .next (retireV v (writeS d v 1 s2)) ∧
      ∀ i, i < 64 → v.getLsbD i = if p ≤ i ∧ i < p + n then x.getLsbD (i - p) else old.getLsbD i)

/-- LI and LIH complete, two words long (R311): LI writes the sign-extended constant; LIH reads d and writes its low half under the
constant. -/
def Obligations.WideConstantResults : Prop :=
  (∀ (d : SReg) (imm : BitVec 32) (s : State) (z : Thread), s.cur = some z → Room d s →
    exec (.li d imm) s = .next (retireAt s.here.tile s.here.slot 8 (imm.signExtend 64) (writeS d (imm.signExtend 64) 1 s))) ∧
  (∀ (d : SReg) (imm : BitVec 32) (s s1 : State) (z : Thread) (x : Word), s.cur = some z → Room d s → readS d s = .go x s1 →
    exec (.lih d imm) s = .next (retireAt s1.here.tile s1.here.slot 8 (BitVec.ofNat 64 (x.toNat % 2 ^ 32 + imm.toNat * 2 ^ 32))
      (writeS d (BitVec.ofNat 64 (x.toNat % 2 ^ 32 + imm.toNat * 2 ^ 32)) 1 s1)))

/-- LUI and ADDPC complete (R309): the 20-bit value times 4096, alone or added to the instruction's own address. -/
def Sys2Proof.Spec.UpperConstant : Prop :=
  (∀ (d : SReg) (off : BitVec 20) (s : State) (z : Thread), s.cur = some z → Room d s →
    exec (.lui d off) s = .next (retireV (BitVec.ofInt 64 (off.toInt * 4096)) (writeS d (BitVec.ofInt 64 (off.toInt * 4096)) 1 s))) ∧
  (∀ (d : SReg) (off : BitVec 20) (s : State) (z : Thread), s.cur = some z → Room d s →
    exec (.addpc d off) s = .next (retireV (z.pc + BitVec.ofInt 64 (off.toInt * 4096))
      (writeS d (z.pc + BitVec.ofInt 64 (off.toInt * 4096)) 1 s)))

/-- The scalar instructions with one source (R306, R309, R310), and LUI and ADDPC (R309), complete. -/
def Obligations.ScalarUnaryAndUpperResults : Prop := Spec.ScalarUnary ∧ Spec.UpperConstant

namespace Sys2Proof.Spec

/-- The condition of BR (R312). -/
def taken (c : BrCond) (x y : Word) : Prop :=
  match c with
  | .eq => x = y
  | .ne => x ≠ y
  | .lt => x.toInt < y.toInt
  | .ge => y.toInt ≤ x.toInt
  | .ltn => x.toNat < y.toNat
  | .gen => y.toNat ≤ x.toNat

/-- From a state in which its operands are read and its result is written, the thread goes on at an address, having transferred control:
any repeat is over (R316), and all else is as in that state. -/
def GoesTo (u t : State) (pc : Word) : Prop :=
  t.me.pc = pc ∧ t.myNative.rep.active = false ∧ t.me.s = u.me.s ∧ t.me.v = u.me.v ∧ t.me.k = u.me.k ∧ SpecialsKept u.me t.me
    ∧ MachineKept u t ∧ t.tiles = u.tiles

end Sys2Proof.Spec

/-- BR completes (R312): it reads a, then b, writes no register and no memory, and goes to PC + 4·off12 where its condition holds; a
gang's follower takes its leader's direction instead (R170). -/
def Obligations.BranchResults : Prop :=
  ∀ (c : BrCond) (a b : SReg) (off : BitVec 12) (s s1 s2 : State) (z : Thread) (x y : Word), s.cur = some z →
    readS a s = .go x s1 → readS b s1 = .go y s2 →
    (¬Follows s2 → taken c x y → ∃ t, exec (.br c a b off) s = .next t ∧ GoesTo s2 t (z.pc + BitVec.ofInt 64 (4 * off.toInt))
      ∧ t.me.s = z.s ∧ t.me.v = z.v ∧ t.me.k = z.k ∧ t.mem = s.mem) ∧
    (¬Follows s2 → ¬taken c x y → exec (.br c a b off) s = .next (retireV 0 s2)) ∧
    (∀ g, gangStep s2 = some g → g.jumped = true → ∃ t, exec (.br c a b off) s = .next t ∧ GoesTo s2 t g.next) ∧
    (∀ g, gangStep s2 = some g → g.jumped = false → exec (.br c a b off) s = .next (retireV g.value s2))

/-- JAL and JALR complete (R313): d takes PC + 4, and the thread goes to PC + 4·off20, or to a plus the offset, computed before d is
written; in a gang's follower d takes the leader's value and the PC follows the leader's (R170). -/
def Obligations.JumpResults : Prop :=
  (∀ (d : SReg) (off : BitVec 20) (s : State) (z : Thread), s.cur = some z → Room d s → ¬Follows s →
    ∃ t, exec (.jal d off) s = .next t ∧ GoesTo (writeS d (z.pc + 4) 1 s) t (z.pc + BitVec.ofInt 64 (4 * off.toInt))) ∧
  (∀ (d : SReg) (off : BitVec 20) (s : State) (z : Thread) (g : GangOp), s.cur = some z → Room d s → gangStep s = some g →
    ∃ t, exec (.jal d off) s = .next t ∧ GoesTo (writeS d g.value 1 s) t g.next) ∧
  (∀ (d a : SReg) (imm : BitVec 15) (s s1 : State) (z : Thread) (x : Word), s.cur = some z → Room d s → readS a s = .go x s1 →
    ¬Follows s1 →
    ∃ t, exec (.jalr d a imm) s = .next t ∧ GoesTo (writeS d (z.pc + 4) 1 s1) t (x + imm.signExtend 64)) ∧
  (∀ (d a : SReg) (imm : BitVec 15) (s s1 : State) (z : Thread) (x : Word) (g : GangOp), s.cur = some z → Room d s →
    readS a s = .go x s1 → gangStep s1 = some g →
    ∃ t, exec (.jalr d a imm) s = .next t ∧ GoesTo (writeS d g.value 1 s1) t g.next)

/-- LOOP completes (R314): a is read, decremented and written, and the thread goes to PC + 4·off12 while the count is not zero, else
on in order; in a gang's follower a takes the leader's value and the PC follows the leader's. -/
def Obligations.LoopResults : Prop :=
  ∀ (a : SReg) (off : BitVec 12) (s s1 : State) (z : Thread) (x : Word), s.cur = some z → Room a s → readS a s = .go x s1 →
    (¬Follows s1 → x ≠ 1 → ∃ t, exec (.loop a off) s = .next t
      ∧ GoesTo (writeS a (x - 1) 1 s1) t (z.pc + BitVec.ofInt 64 (4 * off.toInt))) ∧
    (¬Follows s1 → x = 1 → exec (.loop a off) s = .next (retireV 0 (writeS a 0 1 s1))) ∧
    (∀ g, gangStep s1 = some g → g.jumped = true → ∃ t, exec (.loop a off) s = .next t
      ∧ GoesTo (writeS a g.value 1 s1) t g.next) ∧
    (∀ g, gangStep s1 = some g → g.jumped = false → exec (.loop a off) s = .next (retireV g.value (writeS a g.value 1 s1)))


/-! Vector instructions (R318-R339). -/

namespace Sys2Proof.Spec

/-- Element `j` of `w` bits of a register or flit (R318). -/
def lane (w : Nat) (v : Vec) (j : Nat) : BitVec w := v.extractLsb' (w * j) w

/-- Whether element `j` is active: every predicate bit of its bytes is one (R318). -/
def On (w : Nat) (m : Word) (j : Nat) : Prop := m.extractLsb' (w / 8 * j) (w / 8) = BitVec.allOnes (w / 8)

/-- The value of an element at its type's signedness (R318). -/
def num (t : ITy) (x : BitVec (ityWidth t)) : Int := if itySigned t then x.toInt else x.toNat

/-- What the inactive elements of a destination hold (R319): a register keeps, a port's flit carries zero. -/
def keep (d : VReg) (s : State) : Vec :=
  match d with
  | .gen n => s.me.vreg n
  | .port _ => 0

/-- A destination under a mask (R319). -/
def Masked (w : Nat) (m : Word) (old r : Vec) (f : Nat → BitVec w) : Prop :=
  ∀ j, j < 512 / w → (On w m j → lane w r j = f j) ∧ (¬On w m j → lane w r j = lane w old j)

/-- Element by element of two operands (R322): constructor, latency (R321), result. -/
def laneRows : List ((ITy → VReg → VReg → VReg → Nat → Instr) × Nat
    × ((t : ITy) → BitVec (ityWidth t) → BitVec (ityWidth t) → BitVec (ityWidth t))) :=
  [(.vadd, 2, fun _ x y => x + y),
   (.vsub, 2, fun _ x y => x - y),
   (.vmul, 4, fun _ x y => x * y),
   (.vmulh, 4, fun t x y => BitVec.ofInt _ (num t x * num t y / 2 ^ ityWidth t)),
   (.vmin, 2, fun t x y => if num t x ≤ num t y then x else y),
   (.vmax, 2, fun t x y => if num t x ≤ num t y then y else x),
   (.vand, 2, fun _ x y => x &&& y),
   (.vor, 2, fun _ x y => x ||| y),
   (.vxor, 2, fun _ x y => x ^^^ y),
   (.vandn, 2, fun _ x y => x &&& ~~~y),
   (.vshl, 2, fun t x y => x <<< (y.toNat % ityWidth t)),
   (.vshr, 2, fun t x y => x >>> (y.toNat % ityWidth t)),
   (.vsra, 2, fun t x y => x.sshiftRight (y.toNat % ityWidth t)),
   (.vadds, 2, fun t x y => BitVec.ofInt _ (max (ityLeast t) (min (ityGreatest t) (num t x + num t y)))),
   (.vsubs, 2, fun t x y => BitVec.ofInt _ (max (ityLeast t) (min (ityGreatest t) (num t x - num t y)))),
   (.vavg, 2, fun t x y => BitVec.ofInt _ ((num t x + num t y + 1) / 2))]

/-- The relation of VCMP (R324). -/
def related (c : ICond) (x y : Int) : Prop :=
  match c with
  | .eq => x = y
  | .ne => x ≠ y
  | .lt => x < y
  | .le => x ≤ y
  | .gt => y < x
  | .ge => y ≤ x

/-- How many elements below index `j` are active (R329). -/
def rank (w : Nat) (m : Word) : Nat → Nat
  | 0 => 0
  | j + 1 => rank w m j + (if m.extractLsb' (w / 8 * j) (w / 8) = BitVec.allOnes (w / 8) then 1 else 0)

/-- The arrangements of R327, R328 and R330: instruction and the element that stands at an active place. -/
inductive Arranges : (VReg → VReg → VReg → Nat → Instr) → (w : Nat) → (Vec → Vec → Nat → BitVec w) → Prop where
  | permByte : Arranges .vpermByte 8 (fun x y j =>
      if (lane 8 y j).toNat < 128 then lane 8 x (16 * (j / 16) + (lane 8 y j).toNat % 16) else 0)
  | permNib : Arranges .vpermNib 8 (fun x y j => lane 8 x (16 * (j / 16) + (lane 8 y j).toNat / 16))
  | permx (t : ITy) : Arranges (fun d a b k => .vpermx t d a b k) (ityWidth t) (fun x y j =>
      if (lane _ y j).toNat < 512 / ityWidth t then lane _ x (lane (ityWidth t) y j).toNat else 0)
  | zip (t : ITy) : Arranges (fun d a b k => .vzip t d a b k) (ityWidth t) (fun x y j =>
      if j % 2 = 0 then lane _ x (j / 2) else lane _ y ((j - 1) / 2))
  | unzip (t : ITy) : Arranges (fun d a b k => .vunzip t d a b k) (ityWidth t) (fun x y j =>
      if j < 512 / ityWidth t / 2 then lane _ x (2 * j) else lane _ y (2 * (j - 512 / ityWidth t / 2)))
  | slide (t : ITy) (n : Nat) (h : 1 ≤ n ∧ n ≤ 16 ∧ n ≤ 512 / ityWidth t) :
      Arranges (fun d a b k => .vslide t d a b n k) (ityWidth t) (fun x y j =>
        if n ≤ j then lane _ x (j - n) else lane _ y (512 / ityWidth t - n + j))

end Sys2Proof.Spec

/-- VADD, VSUB, VMUL, VMULH, VMIN, VMAX, VAND, VOR, VXOR, VANDN, VSHL, VSHR, VSRA, VADDS, VSUBS and VAVG complete on every integer
type (R322, R319): active elements take the result, the others keep, or are zero in a port's flit. -/
def Obligations.VectorIntegerResults : Prop :=
  ∀ e ∈ laneRows, ∀ (t : ITy) (d a b : VReg) (k : Nat) (s s1 s2 s3 : State) (z : Thread) (x y : Vec) (m : Word),
    s.cur = some z → RoomV d s → readV a s = .go x s1 → readV b s1 = .go y s2 → readK k s2 = .go m s3 →
    ∃ r, exec (e.1 t d a b k) s = .next (retireV 0 (writeV d r e.2.1 s3))
      ∧ Masked (ityWidth t) m (keep d s3) r (fun j => e.2.2 t (lane _ x j) (lane _ y j))

/-- VABS, VMOV, VBCAST, VEXT, VINS and VCMP complete (R323-R325): magnitudes, copies and copies of a scalar under the mask; one element
taken out, zero where it is inactive; one put in, all others kept; a predicate of a comparison, zero where inactive. -/
def Sys2Proof.Spec.VectorScalars : Prop :=
  (∀ (t : ITy) (d a : VReg) (k : Nat) (s s1 s2 : State) (z : Thread) (x : Vec) (m : Word),
    s.cur = some z → RoomV d s → readV a s = .go x s1 → readK k s1 = .go m s2 →
    (∃ r, exec (.vabs t d a k) s = .next (retireV 0 (writeV d r 2 s2))
      ∧ Masked (ityWidth t) m (keep d s2) r (fun j => if num t (lane _ x j) < 0 then -lane _ x j else lane _ x j)) ∧
    (∃ r, exec (.vmov t d a k) s = .next (retireV 0 (writeV d r 2 s2)) ∧ Masked (ityWidth t) m (keep d s2) r (lane _ x))) ∧
  (∀ (t : ITy) (d : VReg) (a : SReg) (k : Nat) (s s1 s2 : State) (z : Thread) (x m : Word),
    s.cur = some z → RoomV d s → readS a s = .go x s1 → readK k s1 = .go m s2 →
    ∃ r, exec (.vbcast t d a k) s = .next (retireV 0 (writeV d r 2 s2))
      ∧ Masked (ityWidth t) m (keep d s2) r (fun _ => x.setWidth _)) ∧
  (∀ (t : ITy) (d : SReg) (a : VReg) (b : SReg) (k : Nat) (s s1 s2 s3 : State) (z : Thread) (x : Vec) (i m : Word),
    s.cur = some z → Room d s → readV a s = .go x s1 → readS b s1 = .go i s2 → readK k s2 = .go m s3 →
    ∃ v, exec (.vext t d a b k) s = .next (retireV v (writeS d v 2 s3))
      ∧ (On (ityWidth t) m (i.toNat % (512 / ityWidth t)) →
        v = BitVec.ofInt 64 (num t (lane _ x (i.toNat % (512 / ityWidth t)))))
      ∧ (¬On (ityWidth t) m (i.toNat % (512 / ityWidth t)) → v = 0)) ∧
  (∀ (t : ITy) (d : VReg) (a b : SReg) (k : Nat) (s s1 s2 s3 s4 : State) (z : Thread) (v : Vec) (x i m : Word),
    s.cur = some z → RoomV d s → readS a s = .go x s1 → readS b s1 = .go i s2 → readV d s2 = .go v s3 → readK k s3 = .go m s4 →
    ∃ r, exec (.vins t d a b k) s = .next (retireV 0 (writeV d r 2 s4))
      ∧ ∀ j, j < 512 / ityWidth t →
        (j = i.toNat % (512 / ityWidth t) ∧ On (ityWidth t) m j → lane _ r j = x.setWidth (ityWidth t)) ∧
        (¬(j = i.toNat % (512 / ityWidth t) ∧ On (ityWidth t) m j) → lane (ityWidth t) r j = lane _ v j)) ∧
  (∀ (c : ICond) (t : ITy) (kd : Nat) (a b : VReg) (k : Nat) (s s1 s2 s3 : State) (z : Thread) (x y : Vec) (m : Word),
    s.cur = some z → readV a s = .go x s1 → readV b s1 = .go y s2 → readK k s2 = .go m s3 →
    ∃ p : Word, exec (.vcmp c t kd a b k) s = .next (retireV 0 (writeK kd p 2 s3))
      ∧ ∀ i, i < 64 → (p.getLsbD i = true ↔ On (ityWidth t) m (i / (ityWidth t / 8))
        ∧ related c (num t (lane _ x (i / (ityWidth t / 8)))) (num t (lane _ y (i / (ityWidth t / 8))))))

/-- VPERM.BYTE, VPERM.NIB, VPERMX, VZIP, VUNZIP and VSLIDE under a mask; VSEL, VCOMP, VEXPD and VIOTA, which write every element, by
a selector: all complete (R325, R327-R330). -/
def Sys2Proof.Spec.VectorArrangements : Prop :=
  (∀ (i : VReg → VReg → VReg → Nat → Instr) (w : Nat) (f : Vec → Vec → Nat → BitVec w), Arranges i w f →
    ∀ (d a b : VReg) (k : Nat) (s s1 s2 s3 : State) (z : Thread) (x y : Vec) (m : Word),
      s.cur = some z → RoomV d s → readV a s = .go x s1 → readV b s1 = .go y s2 → readK k s2 = .go m s3 →
      ∃ r, exec (i d a b k) s = .next (retireV 0 (writeV d r 2 s3)) ∧ Masked w m (keep d s3) r (f x y)) ∧
  (∀ (t : ITy) (d a b : VReg) (k : Nat) (s s1 s2 s3 : State) (z : Thread) (x y : Vec) (m : Word),
    s.cur = some z → RoomV d s → readV a s = .go x s1 → readV b s1 = .go y s2 → readK k s2 = .go m s3 →
    (∃ r, exec (.vsel t d a b k) s = .next (retireV 0 (writeV d r 2 s3)) ∧ Masked (ityWidth t) m y r (lane _ x)) ∧
    (∃ r, exec (.vexpd t d a b k) s = .next (retireV 0 (writeV d r 2 s3))
      ∧ Masked (ityWidth t) m y r (fun j => lane _ x (rank (ityWidth t) m j))) ∧
    (∃ r, exec (.vcomp t d a b k) s = .next (retireV 0 (writeV d r 2 s3))
      ∧ (∀ j, j < 512 / ityWidth t → On (ityWidth t) m j → lane (ityWidth t) r (rank (ityWidth t) m j) = lane _ x j)
      ∧ (∀ j, j < 512 / ityWidth t → rank (ityWidth t) m (512 / ityWidth t) ≤ j → lane (ityWidth t) r j = lane _ y j))) ∧
  (∀ (t : ITy) (d : VReg) (k : Nat) (s s1 : State) (z : Thread) (m : Word), s.cur = some z → RoomV d s → readK k s = .go m s1 →
    ∃ r, exec (.viota t d k) s = .next (retireV 0 (writeV d r 2 s1))
      ∧ ∀ j, j < 512 / ityWidth t → lane (ityWidth t) r j = BitVec.ofNat _ (rank (ityWidth t) m j))

/-- The vector instructions that compare and move elements complete (R323-R330). -/
def Obligations.VectorScalarAndArrangementResults : Prop := Spec.VectorScalars ∧ Spec.VectorArrangements

/-- KAND, KOR, KXOR, KNOT, KPOPC and KFIRST complete (R326): a source k0 reads all ones and a destination k0 discards. -/
def Sys2Proof.Spec.Predicates : Prop :=
  (∀ (i : Nat → Nat → Nat → Instr) (f : Word → Word → Word),
    (i, f) ∈ [(Instr.kand, fun x y => x &&& y), (Instr.kor, fun x y => x ||| y), (Instr.kxor, fun x y => x ^^^ y)] →
    ∀ (d a b : Nat) (s s1 s2 : State) (z : Thread) (x y : Word), s.cur = some z → readK a s = .go x s1 → readK b s1 = .go y s2 →
      exec (i d a b) s = .next (retireV 0 (writeK d (f x y) 2 s2))) ∧
  (∀ (d a : Nat) (s s1 : State) (z : Thread) (x : Word), s.cur = some z → readK a s = .go x s1 →
    exec (.knot d a) s = .next (retireV 0 (writeK d (BitVec.allOnes 64 - x) 2 s1))) ∧
  (∀ (d : SReg) (a : Nat) (s s1 : State) (z : Thread) (x : Word), s.cur = some z → Room d s → readK a s = .go x s1 →
    (∃ v, exec (.kpopc d a) s = .next (retireV v (writeS d v 2 s1))
      ∧ v.toNat = ((List.range 64).filter (fun i => x.getLsbD i)).length) ∧
    (∃ v, exec (.kfirst d a) s = .next (retireV v (writeS d v 2 s1))
      ∧ (x = 0 → v = 64) ∧ (x ≠ 0 → v.toNat < 64 ∧ x.getLsbD v.toNat = true ∧ ∀ i, i < v.toNat → x.getLsbD i = false)))

namespace Sys2Proof.Spec

/-- The list of VJOIN: the active nonzero elements in ascending index (R338). -/
def joinKeys (t : ITy) (v : Vec) (m : Word) : List Int :=
  ((List.range (512 / ityWidth t)).filter (fun j =>
    decide (m.extractLsb' (ityWidth t / 8 * j) (ityWidth t / 8) = BitVec.allOnes (ityWidth t / 8)) && decide (lane (ityWidth t) v j ≠ 0))).map
    (fun j => num t (lane _ v j))

end Sys2Proof.Spec

/-- VJOIN.PAIR and VJOIN.UNION complete with the ordering unit free (R338), whatever the order of their inputs; on strictly ascending
lists PAIR writes their common keys, and UNION the lowest of their union, ascending, padded with zeros. -/
def Sys2Proof.Spec.VectorJoins : Prop :=
  ∀ (t : ITy) (d a b : VReg) (k : Nat) (s s1 s2 s3 : State) (z : Thread) (x y : Vec) (m : Word),
    s.cur = some z → RoomV d s → s.hereTile.ordUntil ≤ s.cycle → readV a s = .go x s1 → readV b s1 = .go y s2 →
    readK k s2 = .go m s3 →
    (∃ r c, exec (.vjoinPair t d a b k) s = .next (retireV 0 (writeV d r (3 + c)
        (s3.updHere (fun u => { u with ordUntil := s3.cycle + c + 1 })))) ∧
      ((joinKeys t x m).Pairwise (· < ·) → (joinKeys t y m).Pairwise (· < ·) →
        joinKeys t r (BitVec.allOnes 64) = (joinKeys t x m).filter (fun i => (joinKeys t y m).contains i))) ∧
    (∃ r c, exec (.vjoinUnion t d a b k) s = .next (retireV 0 (writeV d r (3 + c)
        (s3.updHere (fun u => { u with ordUntil := s3.cycle + c + 1 })))) ∧
      ((joinKeys t x m).Pairwise (· < ·) → (joinKeys t y m).Pairwise (· < ·) →
        joinKeys t r (BitVec.allOnes 64)
          = (((joinKeys t x m) ++ (joinKeys t y m).filter (fun i => !(joinKeys t x m).contains i)).mergeSort
              (fun i j => decide (i ≤ j))).take (512 / ityWidth t)))

/-- The predicate instructions and the vector joins complete (R326, R338). -/
def Obligations.PredicateAndJoinResults : Prop := Spec.Predicates ∧ Spec.VectorJoins

/-! Floating-point vector instructions (R233-R247, R331-R337). -/

namespace Sys2Proof.Spec

/-- No floating-point trap is enabled: the five enables and SNANTRAP are zero (R237). -/
def NoFpTraps (z : Thread) : Prop := field z.fpcsr 8 6 = 0

/-- The flags of FPCSR after an instruction: each is set where it was, or where an active element raised it (R243). -/
def FlagsAfter (old new : Word) (w : Nat) (m : Word) (n : Nat) (fl : Nat → FFlags) : Prop :=
  ∀ i, i < 64 → (new.getLsbD i = true ↔ old.getLsbD i = true ∨ (3 ≤ i ∧ i < 8 ∧ ∃ j, j < n ∧ On w m j ∧ (fl j).getLsbD (i - 3) = true))

/-- The divide unit taken for 16 cycles (R321). -/
def divideTaken (s : State) : State := s.updHere (fun u => { u with vdivUntil := s.cycle + 16 })

/-- The floating-point instructions of two operands (R332): latency, whether the divide unit serves it, and the element result. -/
inductive FpBinary : (FTy → VReg → VReg → VReg → Nat → Instr) → Nat → Bool → (State → Fmt → Rm → Nat → Nat → FRes) → Prop where
  | add : FpBinary .vfadd 4 false (fun _ => Fmt.add)
  | sub : FpBinary .vfsub 4 false (fun _ => Fmt.sub)
  | mul : FpBinary .vfmul 4 false (fun _ => Fmt.mul)
  | div : FpBinary .vfdiv 20 true (fun _ => Fmt.div)
  | min : FpBinary .vfmin 4 false (fun s f _ => if detHere s then f.minmaxTotal false else f.minmaxNum false)
  | max : FpBinary .vfmax 4 false (fun s f _ => if detHere s then f.minmaxTotal true else f.minmaxNum true)

/-- Those of one operand (R332, R336): VEXP2 and VLOG2 give one of the two neighbours in f64, always the same (R246). -/
inductive FpUnary : (VReg → VReg → Nat → Instr) → FTy → Nat → Bool → (Fmt → Rm → Nat → FRes) → Prop where
  | sqrt (t : FTy) : FpUnary (fun d a k => .vfsqrt t d a k) t 20 true Fmt.sqrt
  | rnd (t : FTy) : FpUnary (fun d a k => .vrnd t d a k) t 4 false Fmt.rnd
  | rcp (t : SpTy) : FpUnary (fun d a k => .vrcp t d a k) (specialTy t) 12 false Fmt.rcp
  | rsq (t : SpTy) : FpUnary (fun d a k => .vrsq t d a k) (specialTy t) 12 false Fmt.rsq
  | exp2 (t : SpTy) : t ≠ .f64 → FpUnary (fun d a k => .vexp2 t d a k) (specialTy t) 12 false (fun f r => f.exp2 r none)
  | log2 (t : SpTy) : t ≠ .f64 → FpUnary (fun d a k => .vlog2 t d a k) (specialTy t) 12 false (fun f r => f.log2 r none)
  | exp2Wide : FpUnary (fun d a k => .vexp2 .f64 d a k) .f64 12 false (fun f r x => f.exp2 r (some (Config.exp2Upper (word x))) x)
  | log2Wide : FpUnary (fun d a k => .vlog2 .f64 d a k) .f64 12 false (fun f r x => f.log2 r (some (Config.log2Upper (word x))) x)

/-- What a floating-point instruction writes, every trap being off: the elements under the mask, the flags, the divide unit. -/
def FpDone (o : Out) (s : State) (d : VReg) (t : FTy) (m : Word) (lat : Nat) (unit : Bool) (res : Nat → FRes) : Prop :=
  ∃ r c, o = .next (retireV 0 (writeV d r lat
      (if unit then divideTaken (s.upd (fun x => { x with fpcsr := c })) else s.upd (fun x => { x with fpcsr := c }))))
    ∧ Masked (fmtOf t).width m (keep d s) r (fun j => BitVec.ofNat _ (res j).bits)
    ∧ FlagsAfter s.me.fpcsr c (fmtOf t).width m (512 / (fmtOf t).width) (fun j => (res j).fl)

/-- An element as a number. -/
def pat (t : FTy) (v : Vec) (j : Nat) : Nat := (lane (fmtOf t).width v j).toNat

end Sys2Proof.Spec

/-- With no floating-point trap enabled, VFADD, VFSUB, VFMUL, VFDIV, VFMIN, VFMAX, VFMA, VFMS, VFSQRT, VRND, VEXP2, VLOG2, VRCP and VRSQ
complete on every operand (R332, R333, R336, R243): active elements take the once-rounded result, and FPCSR collects the flags of the
active elements. That an f64 VEXP2 or VLOG2 answers one fixed neighbour per operand rests on an uninterpreted choice (log entry 1). -/
def Sys2Proof.Spec.FpElements : Prop :=
  (∀ (i : FTy → VReg → VReg → VReg → Nat → Instr) (lat : Nat) (u : Bool) (f : State → Fmt → Rm → Nat → Nat → FRes),
    FpBinary i lat u f → ∀ (t : FTy) (d a b : VReg) (k : Nat) (s s1 s2 s3 : State) (z : Thread) (x y : Vec) (m : Word),
      s.cur = some z → NoFpTraps z → RoomV d s → (u = true → s.hereTile.vdivUntil ≤ s.cycle) →
      readV a s = .go x s1 → readV b s1 = .go y s2 → readK k s2 = .go m s3 →
      FpDone (exec (i t d a b k) s) s3 d t m lat u (fun j => f s (fmtOf t) (rmOf z.fpcsr) (pat t x j) (pat t y j))) ∧
  (∀ (i : VReg → VReg → Nat → Instr) (t : FTy) (lat : Nat) (u : Bool) (f : Fmt → Rm → Nat → FRes), FpUnary i t lat u f →
    ∀ (d a : VReg) (k : Nat) (s s1 s2 : State) (z : Thread) (x : Vec) (m : Word),
      s.cur = some z → NoFpTraps z → RoomV d s → (u = true → s.hereTile.vdivUntil ≤ s.cycle) →
      readV a s = .go x s1 → readK k s1 = .go m s2 →
      FpDone (exec (i d a k) s) s2 d t m lat u (fun j => f (fmtOf t) (rmOf z.fpcsr) (pat t x j))) ∧
  (∀ (minus : Bool) (t : FTy) (d a b : VReg) (k : Nat) (s s1 s2 s3 s4 : State) (z : Thread) (x y c : Vec) (m : Word),
    s.cur = some z → NoFpTraps z → RoomV d s →
    readV a s = .go x s1 → readV b s1 = .go y s2 → readV d s2 = .go c s3 → readK k s3 = .go m s4 →
    FpDone (exec (if minus then .vfms t d a b k else .vfma t d a b k) s) s4 d t m 5 false
      (fun j => (fmtOf t).fma (rmOf z.fpcsr) minus (pat t x j) (pat t y j) (pat t c j)))

/-- The floating-point traps of VFADD, VFSUB, VFMUL, VFDIV, VFMIN and VFMAX (R243): a signalling operand of an active element under
SNANTRAP raises SNAN; else, an enabled flag raised by an active element raises FPX; and the trap is all the instruction does. -/
def Sys2Proof.Spec.FpTrapping : Prop :=
  ∀ (i : FTy → VReg → VReg → VReg → Nat → Instr) (lat : Nat) (u : Bool) (f : State → Fmt → Rm → Nat → Nat → FRes), FpBinary i lat u f →
    ∀ (t : FTy) (d a b : VReg) (k : Nat) (s s1 s2 s3 : State) (z : Thread) (x y : Vec) (m : Word),
      s.cur = some z → RoomV d s → (u = true → s.hereTile.vdivUntil ≤ s.cycle) →
      readV a s = .go x s1 → readV b s1 = .go y s2 → readK k s2 = .go m s3 →
      (flag z.fpcsr 13 = true →
        (∃ j, j < 512 / (fmtOf t).width ∧ On (fmtOf t).width m j
          ∧ (((fmtOf t).val (pat t x j)).isSnan = true ∨ ((fmtOf t).val (pat t y j)).isSnan = true)) →
        ∃ c, exec (i t d a b k) s = .next (takeTrap c s) ∧ c.cause = .snan
          ∧ ∀ j, j < 64 → (c.val2.getLsbD j = true ↔ j < 512 / (fmtOf t).width ∧ On (fmtOf t).width m j
            ∧ (((fmtOf t).val (pat t x j)).isSnan = true ∨ ((fmtOf t).val (pat t y j)).isSnan = true))) ∧
      (flag z.fpcsr 13 = false →
        (∃ j, j < 512 / (fmtOf t).width ∧ On (fmtOf t).width m j ∧ ∃ n, n < 5
          ∧ (f s (fmtOf t) (rmOf z.fpcsr) (pat t x j) (pat t y j)).fl.getLsbD n = true ∧ flag z.fpcsr (8 + n) = true) →
        ∃ c, exec (i t d a b k) s = .next (takeTrap c s) ∧ c.cause = .fpx
          ∧ (∀ n, n < 64 → (c.val.getLsbD n = true ↔ n < 5 ∧ ∃ j, j < 512 / (fmtOf t).width ∧ On (fmtOf t).width m j
            ∧ (f s (fmtOf t) (rmOf z.fpcsr) (pat t x j) (pat t y j)).fl.getLsbD n = true))
          ∧ ∀ j, j < 64 → (c.val2.getLsbD j = true ↔ j < 512 / (fmtOf t).width ∧ On (fmtOf t).width m j ∧ ∃ n, n < 5
            ∧ (f s (fmtOf t) (rmOf z.fpcsr) (pat t x j) (pat t y j)).fl.getLsbD n = true ∧ flag z.fpcsr (8 + n) = true))

/-- The floating-point instructions complete, or trap where FPCSR asks for it (R233-R243, R332, R333, R336). -/
def Obligations.FpElementResults : Prop := Spec.FpElements ∧ Spec.FpTrapping

/-- Laws of the arithmetic (R233-R242): a representable value is its own rounding in every mode, with no flag; sums and products
commute; a NaN operand gives the default NaN; x - x of a finite x is +0, but -0 under RDN. -/
def Obligations.FpArithmeticLaws : Prop :=
  ∀ (t : FTy) (mode : Rm) (x y : Nat), x < 2 ^ (fmtOf t).width → y < 2 ^ (fmtOf t).width →
    (((fmtOf t).val x).isNan = false → (fmtOf t).ofVal mode false ((fmtOf t).val x) = ⟨x, 0⟩) ∧
    (fmtOf t).add mode x y = (fmtOf t).add mode y x ∧ (fmtOf t).mul mode x y = (fmtOf t).mul mode y x ∧
    (((fmtOf t).val x).isNan = true ∨ ((fmtOf t).val y).isNan = true →
      ((fmtOf t).add mode x y).bits = (fmtOf t).defaultNan ∧ ((fmtOf t).sub mode x y).bits = (fmtOf t).defaultNan
        ∧ ((fmtOf t).mul mode x y).bits = (fmtOf t).defaultNan ∧ ((fmtOf t).div mode x y).bits = (fmtOf t).defaultNan) ∧
    (((fmtOf t).val x).isNan = false → ((fmtOf t).val x).isInf true = false → ((fmtOf t).val x).isInf false = false →
      (fmtOf t).sub mode x x = ⟨if mode = .rdn then 2 ^ ((fmtOf t).width - 1) else 0, 0⟩)

/-- VFCMP and VCVT complete with no floating-point trap enabled (R334, R335): a comparison's predicate is zero where inactive; a
conversion writes the elements that both types have, zero above them, and keeps inactive ones. -/
def Sys2Proof.Spec.FpConversions : Prop :=
  (∀ (c : FCond) (t : FTy) (kd : Nat) (a b : VReg) (k : Nat) (s s1 s2 s3 : State) (z : Thread) (x y : Vec) (m : Word),
    s.cur = some z → NoFpTraps z → readV a s = .go x s1 → readV b s1 = .go y s2 → readK k s2 = .go m s3 →
    ∃ (p v : Word), exec (.vfcmp c t kd a b k) s = .next (retireV 0 (writeK kd p 4 (s3.upd (fun u => { u with fpcsr := v }))))
      ∧ FlagsAfter z.fpcsr v (fmtOf t).width m (512 / (fmtOf t).width) (fun j => ((fmtOf t).fcmp c (pat t x j) (pat t y j)).2)
      ∧ ∀ i, i < 64 → (p.getLsbD i = true ↔ On (fmtOf t).width m (i / ((fmtOf t).width / 8))
        ∧ ((fmtOf t).fcmp c (pat t x (i / ((fmtOf t).width / 8))) (pat t y (i / ((fmtOf t).width / 8)))).1 = true)) ∧
  (∀ (sat : Bool) (dt st : CvtTy) (f : Word → Nat → FRes) (d a : VReg) (k : Nat) (s s1 s2 : State) (z : Thread) (x : Vec) (m : Word),
    (f = match dt, st with
      | .flt q, .flt p => fun w => cvtFF (fmtOf p) (fmtOf q) (rmOf w) sat
      | .int q, .flt p => fun w => cvtFI (fmtOf p) q (rmOf w)
      | .flt q, .int p => fun w => cvtIF p (fmtOf q) (rmOf w) sat
      | .int _, .int _ => fun _ n => ⟨n, 0⟩) →
    s.cur = some z → NoFpTraps z → RoomV d s → readV a s = .go x s1 → readK k s1 = .go m s2 →
    ∃ (r : Vec) (v : Word), exec (.vcvt sat dt st d a k) s
        = .next (retireV 0 (writeV d r 4 (s2.upd (fun u => { u with fpcsr := v }))))
      ∧ FlagsAfter z.fpcsr v (cvtWidth dt) m (min (512 / cvtWidth dt) (512 / cvtWidth st))
        (fun j => (f z.fpcsr (lane (cvtWidth st) x j).toNat).fl)
      ∧ ∀ j, j < 512 / cvtWidth dt →
        (512 / cvtWidth st ≤ j → lane (cvtWidth dt) r j = 0) ∧
        (j < 512 / cvtWidth st → On (cvtWidth dt) m j →
          lane (cvtWidth dt) r j = BitVec.ofNat _ (f z.fpcsr (lane (cvtWidth st) x j).toNat).bits) ∧
        (j < 512 / cvtWidth st → ¬On (cvtWidth dt) m j → lane (cvtWidth dt) r j = lane _ (keep d s2) j))

/-- VFCLASS, VTORD and VSORT complete whatever FPCSR holds, and leave it (R332, R337): a class code; minus one, zero or one by
totalOrder; the active elements of b in the stable order of a's keys, the inactive ones after them. -/
def Sys2Proof.Spec.FpOrders : Prop :=
  (∀ (t : FTy) (d a : VReg) (k : Nat) (s s1 s2 : State) (z : Thread) (x : Vec) (m : Word),
    s.cur = some z → RoomV d s → readV a s = .go x s1 → readK k s1 = .go m s2 →
    ∃ r, exec (.vfclass t d a k) s = .next (retireV 0 (writeV d r 4 s2))
      ∧ Masked (fmtOf t).width m (keep d s2) r (fun j => BitVec.ofNat _ ((fmtOf t).classOf (pat t x j)))) ∧
  (∀ (t : FTy) (d a b : VReg) (k : Nat) (s s1 s2 s3 : State) (z : Thread) (x y : Vec) (m : Word),
    s.cur = some z → RoomV d s → readV a s = .go x s1 → readV b s1 = .go y s2 → readK k s2 = .go m s3 →
    (∃ r, exec (.vtord t d a b k) s = .next (retireV 0 (writeV d r 2 s3))
      ∧ Masked (fmtOf t).width m (keep d s3) r (fun j =>
        if (fmtOf t).key (pat t x j) < (fmtOf t).key (pat t y j) then BitVec.allOnes _
        else if pat t x j = pat t y j then 0 else 1)) ∧
    (s.hereTile.ordUntil ≤ s.cycle →
      ∃ (r : Vec) (act idle : List Nat), exec (.vsort t d a b k) s = .next (retireV 0 (writeV d r 12
          (s3.updHere (fun u => { u with ordUntil := s3.cycle + 8 }))))
        ∧ (∀ j, j ∈ act ↔ j < 512 / (fmtOf t).width ∧ On (fmtOf t).width m j)
        ∧ act.Pairwise (fun i j => (fmtOf t).key (pat t x i) < (fmtOf t).key (pat t x j)
          ∨ ((fmtOf t).key (pat t x i) = (fmtOf t).key (pat t x j) ∧ i < j))
        ∧ (∀ j, j ∈ idle ↔ j < 512 / (fmtOf t).width ∧ ¬On (fmtOf t).width m j) ∧ idle.Pairwise (· < ·)
        ∧ ∀ i (h : i < (act ++ idle).length), lane (fmtOf t).width r i = lane _ y ((act ++ idle)[i])))

/-- The floating-point comparisons, conversions and orders complete (R332, R334, R335, R337). -/
def Obligations.FpConvertAndOrderResults : Prop := Spec.FpConversions ∧ Spec.FpOrders

namespace Sys2Proof.Spec

/-- The active elements, in ascending index. -/
def actives (w : Nat) (v : Vec) (m : Word) : List (BitVec w) :=
  ((List.range (512 / w)).filter (fun j => decide (m.extractLsb' (w / 8 * j) (w / 8) = BitVec.allOnes (w / 8)))).map (lane w v)

/-- Element 0 is a value, and every other element is zero (R331). -/
def Only (w : Nat) (r : Vec) (x : BitVec w) : Prop := lane w r 0 = x ∧ ∀ j, 0 < j → j < 512 / w → lane w r j = 0

/-- The integer reductions (R331): the result on the active elements in ascending index. -/
inductive IntReduction : RedOp → (t : ITy) → (List (BitVec (ityWidth t)) → BitVec (ityWidth t)) → Prop where
  | add (t : ITy) : IntReduction (.add t) t (fun l => l.foldr (· + ·) 0)
  | min (t : ITy) : IntReduction (.min t) t (fun l => l.foldl (fun a x => if num t x < num t a then x else a) (BitVec.ofInt _ (ityGreatest t)))
  | max (t : ITy) : IntReduction (.max t) t (fun l => l.foldl (fun a x => if num t a < num t x then x else a) (BitVec.ofInt _ (ityLeast t)))
  | and (t : ITy) : IntReduction (.and t) t (fun l => l.foldr (· &&& ·) (BitVec.allOnes _))
  | or (t : ITy) : IntReduction (.or t) t (fun l => l.foldr (· ||| ·) 0)
  | xor (t : ITy) : IntReduction (.xor t) t (fun l => l.foldr (· ^^^ ·) 0)

/-- The floating-point reductions (R331): the combination and the result of no element. -/
inductive FpReduction : RedOp → FTy → (Rm → Nat → Nat → FRes) → Nat → Prop where
  | add (t : FTy) : FpReduction (.fadd t) t (fmtOf t).add 0
  | min (t : FTy) : FpReduction (.fmin t) t (fun _ => (fmtOf t).minmaxNum false) (fmtOf t).defaultNan
  | max (t : FTy) : FpReduction (.fmax t) t (fun _ => (fmtOf t).minmaxNum true) (fmtOf t).defaultNan

end Sys2Proof.Spec

/-- VRED completes (R331, R105): an integer reduction always; a floating-point one with no trap enabled, by the fixed tree that splits
n elements at the greatest power of two below n. Element 0 takes the result and every other element zero. -/
def Sys2Proof.Spec.Reductions : Prop :=
  (∀ (op : RedOp) (t : ITy) (f : List (BitVec (ityWidth t)) → BitVec (ityWidth t)), IntReduction op t f →
    ∀ (d a : VReg) (k : Nat) (s s1 s2 : State) (z : Thread) (x : Vec) (m : Word),
      s.cur = some z → RoomV d s → readV a s = .go x s1 → readK k s1 = .go m s2 →
      ∃ r, exec (.vred op d a k) s = .next (retireV 0 (writeV d r 4 s2)) ∧ Only (ityWidth t) r (f (actives _ x m))) ∧
  (∀ (op : RedOp) (t : FTy) (f : Rm → Nat → Nat → FRes) (e : Nat), FpReduction op t f e →
    ∀ (d a : VReg) (k : Nat) (s s1 s2 : State) (z : Thread) (x : Vec) (m : Word),
      s.cur = some z → NoFpTraps z → RoomV d s → readV a s = .go x s1 → readK k s1 = .go m s2 →
      ∃ r c q, exec (.vred op d a k) s = .next (retireV 0 (writeV d r 10 (s2.upd (fun u => { u with fpcsr := c }))))
        ∧ Only (fmtOf t).width r (BitVec.ofNat _ q)
        ∧ (actives (fmtOf t).width x m = [] → q = e ∧ c = z.fpcsr)
        ∧ (∀ v, actives (fmtOf t).width x m = [v] →
          q = if ((fmtOf t).val v.toNat).isNan then (fmtOf t).defaultNan else v.toNat)
        ∧ (2 ≤ (actives (fmtOf t).width x m).length →
          q = (treeFold (f (rmOf z.fpcsr)) 6 ((actives (fmtOf t).width x m).map BitVec.toNat)).bits))

/-- The tree of R105 as the model folds it: it splits at the greatest power of two below the count, and combines the two results. -/
def Sys2Proof.Spec.TreeShape : Prop :=
  ∀ (f : Nat → Nat → FRes) (xs : List Nat) (p : Nat), 2 ^ p < xs.length → xs.length ≤ 2 ^ (p + 1) → p < 6 →
    (treeFold f 6 xs).bits = (f (treeFold f 6 (xs.take (2 ^ p))).bits (treeFold f 6 (xs.drop (2 ^ p))).bits).bits

/-- A collective reduction over ranks (R105): ranks without leaves are dropped, no leaves give +0, and five ranks of 3, 1, 2, 1 and 4 leaves,
and seven ranks whose fourth is empty, combine in the orders that the rule's table gives. -/
def Sys2Proof.Spec.CollectiveShape : Prop :=
  ∀ (t : FTy) (plus : Nat → Nat → Nat), (∀ x y, plus x y = ((fmtOf t).add .rne x y).bits) →
    (∀ ranks, collective (fmtOf t) ranks = collective (fmtOf t) (ranks.filter (fun l => decide (l ≠ [])))) ∧
    collective (fmtOf t) [] = 0 ∧
    (∀ a0 a1 a2 b c0 c1 d e0 e1 e2 e3, collective (fmtOf t) [[a0, a1, a2], [b], [c0, c1], [d], [e0, e1, e2, e3]]
      = plus (plus (plus (plus (plus a0 a1) a2) b) (plus (plus c0 c1) d)) (plus (plus e0 e1) (plus e2 e3))) ∧
    (∀ a0 a1 a2 a4 a5 a6, collective (fmtOf t) [[a0], [a1], [a2], [], [a4], [a5], [a6]]
      = plus (plus (plus a0 a1) (plus a2 a4)) (plus a5 a6))

/-- The reductions complete, and their trees are those that the spec draws (R105, R331). -/
def Obligations.ReductionResults : Prop := Spec.Reductions ∧ Spec.TreeShape ∧ Spec.CollectiveShape

/-! Memory instructions (R180-R191, R357-R365). -/

namespace Sys2Proof.Spec

/-- A flit stands in a buffer behind every one that is there no later, before the others, and nothing else of the buffer has changed
(R164, R321). -/
def Pushed {α : Type} (old new : List (Flit α)) (f : Flit α) : Prop :=
  ∃ before after, old = before ++ after ∧ new = before ++ f :: after ∧ (∀ g ∈ before, g.ready ≤ f.ready)
    ∧ ∀ g ∈ after.head?, f.ready < g.ready

/-- A scalar destination has taken a value, and nothing else of the thread's scalar registers has changed (R164, R282). -/
def Took (d : SReg) (v : Word) (s u : State) : Prop :=
  match d with
  | .gen n => ∀ m, u.me.sreg m = if m = n ∧ n ≠ 0 then v else s.me.sreg m
  | .port p => Pushed (s.hereTile.sc.cout p).flits (u.hereTile.sc.cout p).flits ⟨s.cycle + 1, v, false⟩ ∧ u.me.s = s.me.s

/-- A vector destination has taken a value. -/
def TookV (d : VReg) (v : Vec) (s u : State) : Prop :=
  match d with
  | .gen n => ∀ m, u.me.vreg m = if m = n then v else s.me.vreg m
  | .port p => Pushed (s.hereTile.ve.cout p).flits (u.hereTile.ve.cout p).flits ⟨s.cycle + 1, v, false⟩ ∧ u.me.v = s.me.v

/-- What no memory instruction changes of its thread: predicates, the status and trap registers, FPCSR, LIVEMASK, and, of the slot,
accumulators, streams and the repeat (R155). -/
def SystemKept (s u : State) : Prop :=
  u.me.k = s.me.k ∧ u.me.fpcsr = s.me.fpcsr ∧ u.me.status = s.me.status ∧ u.me.trapvec = s.me.trapvec
    ∧ u.me.trapcause = s.me.trapcause ∧ u.me.trappc = s.me.trappc ∧ u.me.trapval = s.me.trapval ∧ u.me.trapval2 = s.me.trapval2
    ∧ u.me.livemask = s.me.livemask ∧ u.me.pc = s.me.pc ∧ u.natives = s.natives

/-- Every byte of memory is as before. -/
def BytesKept (s u : State) : Prop := ∀ a, u.byteAt a = s.byteAt a

/-- Every byte of memory outside `n` bytes from a key is as before. -/
def BytesKeptBut (key n : Nat) (s u : State) : Prop := ∀ a, a < key ∨ key + n ≤ a → u.byteAt a = s.byteAt a

/-- No result of the thread is awaited: the instruction is issued, not completed by its replies, and no load is out. -/
def Fresh (s : State) (z : Thread) : Prop := s.cur = some z ∧ z.pend = none ∧ z.loads = []

/-- The thread goes on while a load of its own is out (R264, R358): outside a gang chain, into a register. -/
def LoadsPass (s : State) (d : SReg) : Prop :=
  chainOf s s.here.tile s.here.slot = [] ∧ ∃ n, d = .gen n ∧ n ≠ 0

/-- The thread handles its traps, and belongs to no gang chain (R265, R171). -/
def Handles (s : State) (z : Thread) : Prop :=
  flag z.trapvec 0 = true ∧ flag z.status 5 = false ∧ chainOf s s.here.tile s.here.slot = []

/-- The storage of an offset of the present tile's SRAM (R182). -/
def own (s : State) (o : Nat) : Nat := sramKey s.here.tile o

/-- A loaded value extended to 64 bits (R359). -/
def extended (w : LdW) (x : Nat) : Word :=
  match w with
  | .i8 => (BitVec.ofNat 8 x).signExtend 64
  | .i16 => (BitVec.ofNat 16 x).signExtend 64
  | .i32 => (BitVec.ofNat 32 x).signExtend 64
  | .w64 => BitVec.ofNat 64 x
  | .n8 => (BitVec.ofNat 8 x).setWidth 64
  | .n16 => (BitVec.ofNat 16 x).setWidth 64
  | .n32 => (BitVec.ofNat 32 x).setWidth 64

end Sys2Proof.Spec

/-- LD and LD.acq on the own tile's SRAM complete (R359, R360): d takes the bytes at EA, extended as the width gives, and no byte of
memory changes. -/
def Obligations.LocalLoadResults : Prop :=
  (∀ (w : LdW) (d a : SReg) (off : BitVec 12) (s s1 : State) (z : Thread) (x : Word) (o : Nat), Fresh s z → Room d s →
    readS a s = .go x s1 →
    checkAccess (x + BitVec.ofInt 64 (off.toInt * ldBytes w)) (ldBytes w) .read 0 s1 = .ok (.sram s.here.tile o, s1) →
    s1.isPoisoned (own s o) 1 = false →
    ∃ u, exec (.ld w d a off) s = .next (retireV 0 u) ∧ Took d (extended w (s1.getNat (own s o) (ldBytes w))) s1 u
      ∧ u.me.v = z.v ∧ SystemKept s u ∧ BytesKept s u ∧ u.full = s.full) ∧
  (∀ (w : LdW) (d a b : SReg) (s s1 s2 : State) (z : Thread) (x v : Word) (c : Scope) (o : Nat), Fresh s z → Room d s →
    readS a s = .go x s1 → readS b s1 = .go v s2 → scopeOf s2 s.here.tile v = some c →
    checkAccess x (ldBytes w) .read 0 s2 = .ok (.sram s.here.tile o, s2) → s2.isPoisoned (own s o) 1 = false →
    ∃ u, exec (.ldAcq w d a b) s = .next (retireV 0 u) ∧ Took d (extended w (s2.getNat (own s o) (ldBytes w))) s2 u
      ∧ u.me.v = z.v ∧ SystemKept s u ∧ BytesKept s u ∧ (c.wide s2 s.here.tile = true → u.hereTile.lines = []))

/-- ST on the own tile's SRAM completes (R359, R187, R188): the low bytes of the value stand at EA, every other byte and every register is as
before, and a word of an SA bank becomes full. A store into a full word of an SA bank raises REWRITE with the word's address and changes no
byte; a store to a word that an LDWE has emptied in this cycle reaches it in the next one. -/
def Sys2Proof.Spec.LocalStores : Prop :=
  ∀ (w : StW) (a b : SReg) (off : BitVec 12) (s s1 s2 : State) (z : Thread) (x v : Word) (o : Nat), Fresh s z →
    readS a s = .go x s1 → readS b s1 = .go v s2 →
    checkAccess (x + BitVec.ofInt 64 (off.toInt * stBytes w)) (stBytes w) .write 0 s2 = .ok (.sram s.here.tile o, s2) →
    (justEmptied s2 s.here.tile o = false → saFull s2 s.here.tile o = false →
      ∃ u, exec (.st w a b off) s = .next (retireV 0 u) ∧ u.getNat (own s o) (stBytes w) = v.toNat % 2 ^ (8 * stBytes w)
        ∧ BytesKeptBut (own s o) (stBytes w) s u ∧ u.me.s = z.s ∧ u.me.v = z.v ∧ SystemKept s u
        ∧ ((s.tile s.here.tile).fewait = [] →
          (bankSA (s.tile s.here.tile) (o / 0x10000) = false → u.full = s.full)
            ∧ (bankSA (s.tile s.here.tile) (o / 0x10000) = true → u.isFull s.here.tile o = true))) ∧
    (justEmptied s2 s.here.tile o = false → saFull s2 s.here.tile o = true → Handles s z →
      ∃ t, exec (.st w a b off) s = .next t ∧ field t.me.trapcause 0 8 = 0x0A
        ∧ t.me.trapval = (x + BitVec.ofInt 64 (off.toInt * stBytes w)) &&& ~~~7 ∧ t.me.trappc = z.pc ∧ BytesKept s t) ∧
    (justEmptied s2 s.here.tile o = true → exec (.st w a b off) s = .next (waitFor .unit s))

/-- ST.rel on the own tile's SRAM (R360): with the thread's earlier stores performed it completes as ST does; before that it waits, and
nothing changes. -/
def Sys2Proof.Spec.LocalReleasingStores : Prop :=
  ∀ (w : StW) (d a b : SReg) (s s1 s2 s3 : State) (z : Thread) (x v q : Word) (c : Scope) (o : Nat), Fresh s z →
    readS a s = .go x s1 → readS b s1 = .go q s2 → readS d s2 = .go v s3 → scopeOf s3 s.here.tile q = some c →
    checkAccess x (stBytes w) .write 0 s3 = .ok (.sram s.here.tile o, s3) →
    (s.settled s.here.tile z.uid = true → justEmptied s3 s.here.tile o = false → saFull s3 s.here.tile o = false →
      ∃ u, exec (.stRel w d a b) s = .next (retireV 0 u) ∧ u.getNat (own s o) (stBytes w) = v.toNat % 2 ^ (8 * stBytes w)
        ∧ BytesKeptBut (own s o) (stBytes w) s u ∧ u.me.s = z.s ∧ u.me.v = z.v ∧ SystemKept s u) ∧
    (s.settled s.here.tile z.uid = true → justEmptied s3 s.here.tile o = false → saFull s3 s.here.tile o = true → Handles s z →
      ∃ t, exec (.stRel w d a b) s = .next t ∧ field t.me.trapcause 0 8 = 0x0A ∧ t.me.trapval = x &&& ~~~7 ∧ t.me.trappc = z.pc
        ∧ BytesKept s t) ∧
    (s.settled s.here.tile z.uid = false → exec (.stRel w d a b) s = .next (waitFor .drain s))

/-- ST and ST.rel on the own tile's SRAM complete (R187, R188, R359, R360). -/
def Obligations.LocalStoreResults : Prop := Spec.LocalStores ∧ Spec.LocalReleasingStores

/-- A posted access to global memory (R211, R222, R358): its packet is on its way to the word's MPT, and no byte of memory has changed
yet. `s` is the state before its instruction, `v` the one after its checks. -/
def Sys2Proof.Spec.Posted (s v u : State) (z : Thread) (pa : Nat) (op : MemOp) : Prop :=
  ∃ p tok, u.net = v.net ++ [p] ∧ p.src = .tile s.here.tile ∧ p.dst = .mpt (homeMpt v pa) ∧ p.body = .access v.who tok 0 pa op
    ∧ BytesKept v u ∧ u.me.s = z.s ∧ u.me.v = z.v ∧ SystemKept s u

/-- ST, ST.rel and RED of global memory complete with their packet on its way (R211, R222, R358, R360, R370). -/
def Sys2Proof.Spec.GlobalStores : Prop :=
  (∀ (w : StW) (a b : SReg) (off : BitVec 12) (s s1 s2 s3 : State) (z : Thread) (x v : Word) (pa : Nat) (l : Bool), Fresh s z →
    readS a s = .go x s1 → readS b s1 = .go v s2 →
    checkAccess (x + BitVec.ofInt 64 (off.toInt * stBytes w)) (stBytes w) .write 0 s2 = .ok (.glob pa l, s3) →
    ∃ u, exec (.st w a b off) s = .next (retireV 0 u) ∧ Posted s s3 u z pa (.store (stBytes w) v)) ∧
  (∀ (w : StW) (d a b : SReg) (s s1 s2 s3 s4 : State) (z : Thread) (x v q : Word) (c : Scope) (pa : Nat) (l : Bool), Fresh s z →
    readS a s = .go x s1 → readS b s1 = .go q s2 → readS d s2 = .go v s3 → scopeOf s3 s.here.tile q = some c →
    checkAccess x (stBytes w) .write 0 s3 = .ok (.glob pa l, s4) → s.settled s.here.tile z.uid = true →
    ∃ u, exec (.stRel w d a b) s = .next (retireV 0 u) ∧ Posted s s4 u z pa (.store (stBytes w) v)) ∧
  (∀ (op : AmoOp) (w32 : Bool) (a b : SReg) (s s1 s2 s3 : State) (z : Thread) (va y : Word) (pa : Nat) (l : Bool), Fresh s z →
    readS a s = .go va s1 → readS b s1 = .go y s2 → checkAccess va (if w32 then 4 else 8) .atomic 0 s2 = .ok (.glob pa l, s3) →
    ∃ u, exec (.red op w32 a b) s = .next (retireV 0 u) ∧ Posted s s3 u z pa (.red op w32 y (detHere s3)))

/-- LD of global memory (R213, R264, R358): its packet goes to the word's MPT. Into a register, outside a gang chain, it retires and
its register waits for the load; else the instruction waits. Registers and memory are as before. With its replies in and good, a load that
waits completes. -/
def Sys2Proof.Spec.GlobalLoads : Prop :=
  (∀ (w : LdW) (d a : SReg) (off : BitVec 12) (s s1 s2 : State) (z : Thread) (x : Word) (pa : Nat) (l : Bool), Fresh s z → Room d s →
    readS a s = .go x s1 →
    checkAccess (x + BitVec.ofInt 64 (off.toInt * ldBytes w)) (ldBytes w) .read 0 s1 = .ok (.glob pa l, s2) →
    (l = true ∨ lineGet (s2.tile s.here.tile) pa = none) →
    (LoadsPass s d → ∃ u p tok q, exec (.ld w d a off) s = .next (retireV 0 u) ∧ u.net = s2.net ++ [p] ∧ p.dst = .mpt (homeMpt s2 pa)
      ∧ p.body = .access s2.who tok 0 pa (.load (ldBytes w)) ∧ u.me.loads = [q] ∧ q.pend.dest = .load d w ∧ q.pend.left = 1
      ∧ q.pc = z.pc ∧ u.me.s = z.s ∧ u.me.v = z.v ∧ SystemKept s u ∧ BytesKept s2 u) ∧
    (¬LoadsPass s d → ∃ t p tok, exec (.ld w d a off) s = .next t ∧ t.net = s2.net ++ [p] ∧ p.dst = .mpt (homeMpt s2 pa)
      ∧ p.body = .access s2.who tok 0 pa (.load (ldBytes w)) ∧ t.me.wait = .global ∧ t.me.pc = z.pc ∧ t.me.s = z.s
      ∧ BytesKept s2 t)) ∧
  (∀ (w : LdW) (d a : SReg) (off : BitVec 12) (s : State) (z : Thread) (p : Pend), s.cur = some z → z.pend = some p → p.left = 0 →
    p.todo = [] → p.bad = none → p.dest = .load d w →
    ∃ u, exec (.ld w d a off) s = .next (retireV 0 u) ∧ Took d (extended w (p.value 0).toNat) s u ∧ BytesKept s u ∧ SystemKept s u)

/-- LD of a word of another tile of the region (R192, R194, R196): what keeps the thread on its tile makes it a remote access; else the
thread asks the owner for a guest slot once its results, its stores and what its tile's CACHE lines have shown are in, and waits for the
answer. Nothing of the instruction is performed meanwhile. -/
def Sys2Proof.Spec.RemoteLoads : Prop :=
  ∀ (w : LdW) (d a : SReg) (off : BitVec 12) (s s1 : State) (z : Thread) (x : Word) (t o : Nat), Fresh s z → Room d s →
    readS a s = .go x s1 → t ≠ s.here.tile →
    checkAccess (x + BitVec.ofInt 64 (off.toInt * ldBytes w)) (ldBytes w) .read 0 s1 = .ok (.sram t o, s1) →
    (z.phase = 1 → exec (.ld w d a off) s = .next (waitFor .migrate s)) ∧
    (z.phase ≠ 1 → staysHere s s.here.tile s.here.slot z = true ∨ z.phase = 2 → ∃ u p tok, exec (.ld w d a off) s = .next u ∧ u.net = s.net ++ [p]
      ∧ p.dst = .tile t ∧ p.body = .access s.who tok 0 o (.load (ldBytes w)) ∧ u.me.wait = .remote ∧ u.me.pc = z.pc ∧ u.me.s = z.s
      ∧ BytesKept s u) ∧
    (staysHere s s.here.tile s.here.slot z = false → z.phase = 0 → z.awaited = [] → z.allRipe s.cycle = true →
      s.settled s.here.tile z.uid = true → linesBusy s s.here.tile = false →
      ∃ u p, exec (.ld w d a off) s = .next u ∧ u.net = s.net ++ [p] ∧ p.dst = .tile t ∧ p.body = .migrate s.who ∧ u.me.phase = 1
        ∧ u.me.wait = .migrate ∧ u.me.pc = z.pc ∧ u.me.s = z.s ∧ BytesKept s u)

/-- Accesses beyond the own tile travel (R192-R196, R211, R213, R222, R264, R358, R360, R370). -/
def Obligations.GlobalAccessesTravel : Prop := Spec.GlobalStores ∧ Spec.GlobalLoads ∧ Spec.RemoteLoads

/-- LDV, STV, LDG and STG on the own tile's SRAM complete (R361, R362): the active bytes or elements travel between the register and
memory, each at its place, the highest of the elements of STG that name one place last; inactive ones keep, or are zero in a port's
flit; without an active byte LDV and STV touch no memory. A turn that performs n words of a span (R210) does so of an STV's words in
ascending order, and the instruction goes on with the others. -/
def Obligations.VectorMemoryResults : Prop :=
  (∀ (d : VReg) (a b : SReg) (k : Nat) (s s1 s2 s3 : State) (z : Thread) (x y m : Word) (o i : Nat), Fresh s z → RoomV d s →
    readS a s = .go x s1 → readS b s1 = .go y s2 → readK k s2 = .go m s3 →
    i < 64 → m.getLsbD i = true → (∀ j, j < i → m.getLsbD j = false) → (x + y).toNat % 64 = 0 →
    checkAccess (x + y + BitVec.ofNat 64 i) 1 .read 0 s3 = .ok (.sram s.here.tile o, s3) →
    s3.isPoisoned (own s (o - i)) 64 = false → s.words = 0 →
    ∃ u r, exec (.ldv d a b k) s = .next (retireV 0 u) ∧ TookV d r s3 u ∧ BytesKept s u ∧ u.me.s = z.s ∧ SystemKept s u
      ∧ ∀ j, j < 64 → (m.getLsbD j = true → lane 8 r j = s.byteAt (own s (o - i) + j))
        ∧ (m.getLsbD j = false → lane 8 r j = lane 8 (keep d s3) j)) ∧
  (∀ (d : VReg) (a b : SReg) (k : Nat) (s s1 s2 s3 : State) (z : Thread) (x y : Word), Fresh s z → RoomV d s →
    readS a s = .go x s1 → readS b s1 = .go y s2 → readK k s2 = .go 0 s3 →
    exec (.ldv d a b k) s = .next (retireV 0 (writeV d (keep d s3) 1 s3))) ∧
  (∀ (d : VReg) (a b : SReg) (k : Nat) (s s1 s2 s3 s4 : State) (z : Thread) (x y m : Word) (v : Vec) (o i : Nat), Fresh s z →
    readS a s = .go x s1 → readS b s1 = .go y s2 → readV d s2 = .go v s3 → readK k s3 = .go m s4 →
    (m = 0 → exec (.stv d a b k) s = .next (retireV 0 s4)) ∧
    (i < 64 → m.getLsbD i = true → (∀ j, j < i → m.getLsbD j = false) → (x + y).toNat % 64 = 0 →
      checkAccess (x + y + BitVec.ofNat 64 i) 1 .write 0 s4 = .ok (.sram s.here.tile o, s4) →
      (∀ j, j < 64 → m.getLsbD j = true → saFull s4 s.here.tile (o - i + j) = false ∧ justEmptied s4 s.here.tile (o - i + j) = false) →
      (s.words = 0 →
        ∃ u, exec (.stv d a b k) s = .next (retireV 0 u) ∧ u.me.s = z.s ∧ u.me.v = z.v ∧ SystemKept s u
          ∧ (∀ j, j < 64 → m.getLsbD j = true → u.byteAt (own s (o - i) + j) = lane 8 v j)
          ∧ ∀ p, (∀ j, j < 64 → m.getLsbD j = true → p ≠ own s (o - i) + j) → u.byteAt p = s.byteAt p) ∧
      (s.words ≠ 0 → s.words < (touchedWords m).length → bankSA (s.tile s.here.tile) (o / 0x10000) = false →
        ∃ t q, exec (.stv d a b k) s = .next t ∧ t.me.pend = some q ∧ q.todo.length + s.words = (touchedWords m).length
          ∧ t.me.pc = z.pc ∧ t.me.s = z.s ∧ t.me.v = z.v
          ∧ (∀ j, j < 64 → m.getLsbD j = true → ((touchedWords m).filter (fun n => decide (n < j / 8))).length < s.words →
            t.byteAt (own s (o - i) + j) = lane 8 v j)
          ∧ ∀ p, (∀ j, j < 64 → m.getLsbD j = true → ((touchedWords m).filter (fun n => decide (n < j / 8))).length < s.words →
              p ≠ own s (o - i) + j) → t.byteAt p = s.byteAt p))) ∧
  (∀ (w : StW) (d : VReg) (a : SReg) (b : VReg) (k : Nat) (s s1 s2 s3 : State) (z : Thread) (x m : Word) (y : Vec) (o : Nat → Nat),
    Fresh s z → RoomV d s → readS a s = .go x s1 → readV b s1 = .go y s2 → readK k s2 = .go m s3 →
    (∀ j, j < 64 / stBytes w → On (8 * stBytes w) m j →
      checkAccess (x + BitVec.ofNat 64 (stBytes w * (lane (8 * stBytes w) y j).toNat)) (stBytes w) .read j s3
        = .ok (.sram s.here.tile (o j), s3) ∧ s3.isPoisoned (own s (o j)) 1 = false) → s.words = 0 →
    ∃ u r, exec (.ldg w d a b k) s = .next (retireV 0 u) ∧ TookV d r s3 u ∧ BytesKept s u ∧ u.me.s = z.s ∧ SystemKept s u
      ∧ Masked (8 * stBytes w) m (keep d s3) r (fun j => BitVec.ofNat _ (s.getNat (own s (o j)) (stBytes w)))) ∧
  (∀ (w : StW) (d : VReg) (a : SReg) (b : VReg) (k : Nat) (s s1 s2 s3 s4 : State) (z : Thread) (x m : Word) (y v : Vec) (o : Nat → Nat),
    Fresh s z → readS a s = .go x s1 → readV b s1 = .go y s2 → readV d s2 = .go v s3 → readK k s3 = .go m s4 →
    (∀ j, j < 64 / stBytes w → On (8 * stBytes w) m j →
      checkAccess (x + BitVec.ofNat 64 (stBytes w * (lane (8 * stBytes w) y j).toNat)) (stBytes w) .write j s4
        = .ok (.sram s.here.tile (o j), s4) ∧ saFull s4 s.here.tile (o j) = false ∧ justEmptied s4 s.here.tile (o j) = false) → s.words = 0 →
    ∃ u, exec (.stg w d a b k) s = .next (retireV 0 u) ∧ u.me.s = z.s ∧ u.me.v = z.v ∧ SystemKept s u
      ∧ (∀ j, j < 64 / stBytes w → On (8 * stBytes w) m j →
        (∀ n, j < n → n < 64 / stBytes w → On (8 * stBytes w) m n → o n ≠ o j) →
        u.getNat (own s (o j)) (stBytes w) = (lane (8 * stBytes w) v j).toNat)
      ∧ ∀ p, (∀ j, j < 64 / stBytes w → On (8 * stBytes w) m j → p < own s (o j) ∨ own s (o j) + stBytes w ≤ p) →
        u.byteAt p = s.byteAt p)

/-- LDW, LDWE, STF, FESET and FETEST on a word of the own tile's SRAM complete (R187, R363): LDW of a full word loads it and leaves it
full, LDWE empties it, STF stores and fills, FESET writes the F/E bit alone and FETEST reads it; an LDW of an empty word waits.
PFETCH, CFLUSH and CINV complete and change no register (R364). -/
def Obligations.FullEmptyResults : Prop :=
  (∀ (d a : SReg) (imm : BitVec 15) (s s1 : State) (z : Thread) (x : Word) (o : Nat) (al : Bool), Fresh s z → Room d s →
    readS a s = .go x s1 → (x + BitVec.ofInt 64 (8 * imm.toInt)).toNat % 8 = 0 →
    checkPlace s1 s.here.tile (x + BitVec.ofInt 64 (8 * imm.toInt)) 0 = .ok (.sram s.here.tile o al) →
    (s1.isFull s.here.tile o = true → s1.isPoisoned (own s o) 1 = false →
      ∃ u, exec (.ldw d a imm) s = .next (retireV 0 u) ∧ Took d (BitVec.ofNat 64 (s.getNat (own s o) 8)) s1 u
        ∧ BytesKept s u ∧ u.full = s.full ∧ SystemKept s u) ∧
    (s1.isFull s.here.tile o = true → s1.isPoisoned (own s o) 1 = false → bankSA (s.tile s.here.tile) (o / 0x10000) = false →
      ∃ u, exec (.ldwe d a imm) s = .next (retireV 0 u) ∧ Took d (BitVec.ofNat 64 (s.getNat (own s o) 8)) s1 u
        ∧ BytesKept s u ∧ u.isFull s.here.tile o = false ∧ SystemKept s u) ∧
    (s1.isFull s.here.tile o = false →
      ∃ t, exec (.ldw d a imm) s = .next t ∧ t.me.wait = .full ∧ t.me.pc = z.pc ∧ t.me.s = z.s ∧ BytesKept s t) ∧
    (∃ u, exec (.fetest d a imm) s = .next (retireV 0 u)
      ∧ Took d (if s1.isFull s.here.tile o then 1 else 0) s1 u ∧ BytesKept s u ∧ u.full = s.full ∧ SystemKept s u)) ∧
  (∀ (a b : SReg) (imm : BitVec 15) (s s1 s2 : State) (z : Thread) (x v : Word) (o : Nat) (al : Bool), Fresh s z →
    readS a s = .go x s1 → readS b s1 = .go v s2 → (x + BitVec.ofInt 64 (8 * imm.toInt)).toNat % 8 = 0 →
    checkPlace s2 s.here.tile (x + BitVec.ofInt 64 (8 * imm.toInt)) 0 = .ok (.sram s.here.tile o al) →
    (s.settled s.here.tile z.uid = true → justEmptied s2 s.here.tile o = false → saFull s2 s.here.tile o = false →
      ∃ u, exec (.stf a b imm) s = .next (retireV 0 u) ∧ u.getNat (own s o) 8 = v.toNat ∧ BytesKeptBut (own s o) 8 s u
        ∧ ((s.tile s.here.tile).fewait = [] → u.isFull s.here.tile o = true) ∧ u.me.s = z.s ∧ SystemKept s u) ∧
    (∃ u, exec (.feset a b imm) s = .next (retireV 0 u) ∧ BytesKept s u ∧ u.me.s = z.s ∧ SystemKept s u
      ∧ ((s.tile s.here.tile).fewait = [] → u.isFull s.here.tile o = v.getLsbD 0))) ∧
  (∀ (a : SReg) (imm : BitVec 15) (s s1 : State) (z : Thread) (x : Word), s.cur = some z → readS a s = .go x s1 →
    (purityOf s1 z = none →
      ∃ u, exec (.pfetch a imm) s = .next (retireV 0 u) ∧ u.threads = s1.threads ∧ u.net = s1.net ∧ u.natives = s1.natives) ∧
    (∃ u, exec (.cflush a imm) s = .next (retireV 0 u) ∧ u.threads = s1.threads ∧ u.net = s1.net ∧ u.natives = s1.natives) ∧
    (∃ u, exec (.cinv a imm) s = .next (retireV 0 u) ∧ u.threads = s1.threads ∧ u.net = s1.net ∧ u.natives = s1.natives))

/-- Access checks come in the order of R263 and leave nothing of the instruction: a misaligned LD, ST, AMO, CAS, RED or AFREE raises
MISALIGN with the address; an address in no window raises ACCESS with it. -/
def Obligations.AccessTraps : Prop :=
  (∀ (w : LdW) (d a : SReg) (off : BitVec 12) (s s1 : State) (z : Thread) (x : Word), Fresh s z → Room d s → readS a s = .go x s1 →
    ((x + BitVec.ofInt 64 (off.toInt * ldBytes w)).toNat % ldBytes w ≠ 0 →
      exec (.ld w d a off) s = .next (takeTrap (trapOf .misalign (x + BitVec.ofInt 64 (off.toInt * ldBytes w)) 0) s)) ∧
    ((x + BitVec.ofInt 64 (off.toInt * ldBytes w)).toNat % ldBytes w = 0 →
      0x7F00C0000000 ≤ (x + BitVec.ofInt 64 (off.toInt * ldBytes w)).toNat →
      (x + BitVec.ofInt 64 (off.toInt * ldBytes w)).toNat < 0x7F1000000000 →
      exec (.ld w d a off) s = .next (takeTrap (trapOf .access (x + BitVec.ofInt 64 (off.toInt * ldBytes w)) 0) s))) ∧
  (∀ (w : StW) (a b : SReg) (off : BitVec 12) (s s1 s2 : State) (z : Thread) (x v : Word), Fresh s z → readS a s = .go x s1 →
    readS b s1 = .go v s2 → (x + BitVec.ofInt 64 (off.toInt * stBytes w)).toNat % stBytes w ≠ 0 →
    exec (.st w a b off) s = .next (takeTrap (trapOf .misalign (x + BitVec.ofInt 64 (off.toInt * stBytes w)) 0) s)) ∧
  (∀ (op : AmoOp) (w32 : Bool) (d a b : SReg) (s s1 s2 : State) (z : Thread) (x y : Word), Fresh s z → readS a s = .go x s1 →
    readS b s1 = .go y s2 → x.toNat % (if w32 then 4 else 8) ≠ 0 →
    (Room d s → exec (.amo op .none w32 d a b) s = .next (takeTrap (trapOf .misalign x 0) s)) ∧
    exec (.red op w32 a b) s = .next (takeTrap (trapOf .misalign x 0) s)) ∧
  (∀ (w32 : Bool) (d a b f : SReg) (s s1 s2 s3 : State) (z : Thread) (x y e : Word), Fresh s z → Room d s → readS a s = .go x s1 →
    readS b s1 = .go y s2 → readS d s2 = .go e s3 → x.toNat % (if w32 then 4 else 8) ≠ 0 →
    exec (.cas .none w32 d a b f) s = .next (takeTrap (trapOf .misalign x 0) s)) ∧
  (∀ (a : SReg) (s s1 : State) (z : Thread) (x : Word), s.cur = some z → readS a s = .go x s1 → x.toNat % 16 ≠ 0 →
    exec (.afree a) s = .next (takeTrap (trapOf .misalign x 0) s))

namespace Sys2Proof.Spec

/-- The new value of an atomic operation (R366, R367), on the operand's low bits. -/
def combined (op : AmoOp) (w : Nat) (t : FTy) (det : Bool) (old y : BitVec w) : BitVec w :=
  match op with
  | .swap => y
  | .add => old + y
  | .and => old &&& y
  | .or => old ||| y
  | .xor => old ^^^ y
  | .min => if old.toInt ≤ y.toInt then old else y
  | .max => if y.toInt ≤ old.toInt then old else y
  | .minn => if old.toNat ≤ y.toNat then old else y
  | .maxn => if y.toNat ≤ old.toNat then old else y
  | .fadd => BitVec.ofNat w ((fmtOf t).add .rne old.toNat y.toNat).bits
  | .fmin => BitVec.ofNat w ((fmtOf t).minmax det false old.toNat y.toNat).bits
  | .fmax => BitVec.ofNat w ((fmtOf t).minmax det true old.toNat y.toNat).bits

/-- The value that an atomic leaves at its place, 32 or 64 bits wide. -/
def atomicNew (op : AmoOp) (w32 det : Bool) (old : Nat) (y : Word) : Nat :=
  if w32 then (combined op 32 .f32 det (BitVec.ofNat 32 old) (y.setWidth 32)).toNat
  else (combined op 64 .f64 det (BitVec.ofNat 64 old) y).toNat

/-- An ordering operand read where the instruction has one (R366): a scope that exists; a release also needs the thread's earlier
stores performed. -/
def Ordering (ord : MemOrd) (r : SReg) (s s2 s3 : State) (z : Thread) : Prop :=
  (ord = .none ∧ s3 = s2) ∨
  (ord ≠ .none ∧ (ord = .acq ∨ s.settled s.here.tile z.uid = true) ∧ ∃ v c, readS r s2 = .go v s3 ∧ scopeOf s3 s.here.tile v = some c)

end Sys2Proof.Spec

/-- AMO and CAS on the own tile's SRAM complete (R366-R368): d takes the old value, zero-extended, and the place takes the new one; CAS
writes only where the old value is the expected one; every other byte is as before. -/
def Obligations.LocalAtomicResults : Prop :=
  (∀ (op : AmoOp) (ord : MemOrd) (w32 : Bool) (d a b : SReg) (s s1 s2 s3 : State) (z : Thread) (va y : Word) (o : Nat),
    Fresh s z → Room d s → readS a s = .go va s1 → readS b s1 = .go y s2 → Ordering ord d s s2 s3 z →
    checkAccess va (if w32 then 4 else 8) .atomic 0 s3 = .ok (.sram s.here.tile o, s3) →
    s3.isPoisoned (own s o) 1 = false → saFull s3 s.here.tile o = false → justEmptied s3 s.here.tile o = false →
    ∃ u, exec (.amo op ord w32 d a b) s = .next (retireV 0 u)
      ∧ Took d (BitVec.ofNat 64 (s.getNat (own s o) (if w32 then 4 else 8))) s3 u
      ∧ u.getNat (own s o) (if w32 then 4 else 8) = atomicNew op w32 (detHere s3) (s.getNat (own s o) (if w32 then 4 else 8)) y
      ∧ BytesKeptBut (own s o) (if w32 then 4 else 8) s u ∧ u.me.v = z.v ∧ SystemKept s u) ∧
  (∀ (ord : MemOrd) (w32 : Bool) (d a b f : SReg) (s s1 s2 s3 s4 : State) (z : Thread) (va y x : Word) (o n : Nat),
    n = (if w32 then 4 else 8) → Fresh s z → Room d s → readS a s = .go va s1 → readS b s1 = .go y s2 → readS d s2 = .go x s3 →
    Ordering ord f s s3 s4 z → checkAccess va n .atomic 0 s4 = .ok (.sram s.here.tile o, s4) →
    s4.isPoisoned (own s o) 1 = false → saFull s4 s.here.tile o = false → justEmptied s4 s.here.tile o = false →
    ∃ u, exec (.cas ord w32 d a b f) s = .next (retireV 0 u) ∧ Took d (BitVec.ofNat 64 (s.getNat (own s o) n)) s4 u
      ∧ u.getNat (own s o) n
        = (if s.getNat (own s o) n = x.toNat % 2 ^ (8 * n) then y.toNat % 2 ^ (8 * n) else s.getNat (own s o) n)
      ∧ BytesKeptBut (own s o) n s u ∧ u.me.v = z.v ∧ SystemKept s u)

/-- FENCE and FENCESC (R104, R371): a tile that owes seal markers sends them; then the fence waits until the thread's earlier stores, atomics and
REDs are performed or sealed, and then completes, discarding the tile's CACHE lines where its scope goes beyond the tile. -/
def Sys2Proof.Spec.Fences : Prop :=
  ∀ (i : SReg → Instr), i = .fence ∨ i = .fencesc → ∀ (a : SReg) (s s1 : State) (z : Thread) (v : Word) (c : Scope), s.cur = some z →
    readS a s = .go v s1 → scopeOf s1 s.here.tile v = some c →
    (owesSeals s = false → s.settled s.here.tile z.uid = true →
      ∃ u, exec (i a) s = .next (retireV 0 u) ∧ u.mem = s.mem ∧ u.threads = s.threads
        ∧ (c.wide s1 s.here.tile = true → u.hereTile.lines = [])) ∧
    (owesSeals s = false → s.settled s.here.tile z.uid = false → exec (i a) s = .next (waitFor .drain s)) ∧
    (owesSeals s = true →
      ∃ t, exec (i a) s = .next t ∧ owesSeals t = false ∧ t.me.wait = .drain ∧ t.me.pc = z.pc ∧ t.me.s = z.s ∧ t.mem = s.mem)

/-- BAR (R372, R373): an arrival is counted; the last one of the phase completes, with the count at zero and the phase advanced; another waits, and
completes once its phase is over. Where the gang's home is another package's node, the arrival goes there, and waits for its answer. The
Scheduler Unit's counters are reached beyond no module that is down (R20). -/
def Sys2Proof.Spec.Barriers : Prop :=
  (∀ (a b : SReg) (s s1 s2 : State) (z : Thread) (v w : Word) (c : Scope) (r : RegionRec), s.cur = some z → z.barPhase = none →
    readS a s = .go v s1 → readS b s1 = .go w s2 → scopeOf s2 s.here.tile v = some c → c.contains s2 s.here.tile = true →
    field w 20 44 = 0 → field w 0 16 ≠ 0 → regionOf s2 s.here.tile = some r →
    crossDown s2 (.tile s.here.tile) (barUnit r) = none → owesSeals s = false → s.settled s.here.tile z.uid = true →
    (reachesOut s2 c = false →
      ((barAt r (field w 16 4)).count = 0 ∨ ((barAt r (field w 16 4)).scope = v ∧ (barAt r (field w 16 4)).need = field w 0 16)) →
      ((barAt r (field w 16 4)).count + 1 = field w 0 16 → crossDown s2 (barUnit r) (.tile s.here.tile) = none →
        ∃ u, exec (.bar a b) s = .next (retireV 0 u) ∧ u.mem = s.mem
          ∧ ∀ q, q ∈ u.regions → q.blk = r.blk → barAt q (field w 16 4) = ⟨0, (barAt r (field w 16 4)).phase + 1, 0, 0⟩) ∧
      ((barAt r (field w 16 4)).count + 1 ≠ field w 0 16 →
        ∃ t, exec (.bar a b) s = .next t ∧ t.me.wait = .bar ∧ t.me.barPhase = some (field w 16 4, (barAt r (field w 16 4)).phase)
          ∧ t.me.pc = z.pc ∧ t.me.s = z.s ∧ t.mem = s.mem
          ∧ ∀ q, q ∈ t.regions → q.blk = r.blk →
            barAt q (field w 16 4) = ⟨(barAt r (field w 16 4)).count + 1, (barAt r (field w 16 4)).phase, v, field w 0 16⟩)) ∧
    (∀ h, barHome s2 c = some h →
      ∃ t p tok, exec (.bar a b) s = .next t ∧ t.net = s.net ++ [p] ∧ p.dst = .outside
        ∧ p.body = .gangMsg h.1 h.2 (.barArrive (field w 16 4) v (field w 0 16) tok) ∧ t.me.wait = .bar
        ∧ t.me.barPhase = some (16 + field w 16 4, tok) ∧ t.me.pc = z.pc ∧ t.me.s = z.s ∧ t.mem = s.mem ∧ t.regions = s.regions)) ∧
  (∀ (a b : SReg) (s : State) (z : Thread) (id p : Nat) (r : RegionRec), s.cur = some z → z.barPhase = some (id, p) →
    regionOf s s.here.tile = some r →
    (id < 16 → (barAt r id).phase ≠ p → crossDown s (barUnit r) (.tile s.here.tile) = none →
      ∃ u, exec (.bar a b) s = .next (retireV 0 u) ∧ u.me.barPhase = none ∧ u.mem = s.mem) ∧
    (id < 16 → (barAt r id).phase = p → exec (.bar a b) s = .next (waitFor .bar s)) ∧
    (16 ≤ id → r.barDone.find? (fun e => decide (e.1 = p)) = none → exec (.bar a b) s = .next (waitFor .bar s)))

/-- Fences and barriers complete (R104, R371-R373). -/
def Obligations.FenceAndBarrierResults : Prop := Spec.Fences ∧ Spec.Barriers

namespace Sys2Proof.Spec

/-- An operand names an arrival word (R374, R378): a handle of an allocated pool word, or an address of global memory. `s'` is the state after
its checks, `pa` its physical address. -/
def NamesWord (va : Word) (s s' : State) (pa : Nat) : Prop :=
  (isHandle va = true ∧ va.toNat % 16 = 0 ∧ pa = field va 0 52 ∧ poolAllocated s pa = true ∧ s' = s) ∨
  (isHandle va = false ∧ ∃ l, checkAccess va 16 .atomic 0 s = .ok (.glob pa l, s'))

/-- The arrival word at a physical address as a read finds it, after its folds (R104, R374). -/
def wordAt (s : State) (pa : Nat) : ArrivalWord := (arrivalAt (arrivalFold s pa) pa).1

end Sys2Proof.Spec

/-- AWAIT (R377): where the word has reached the generation it completes; where it is in OVERRUN it raises OVERRUN with the generation; else
it waits, and completes once the generation is reached. Beyond a module that is down it raises LINK instead (R20). -/
def Sys2Proof.Spec.Awaits : Prop :=
  (∀ (d a b : SReg) (s s1 s2 s3 s4 : State) (z : Thread) (va y sc : Word) (c : Scope) (pa : Nat), Fresh s z →
    readS a s = .go va s1 → readS b s1 = .go y s2 → readS d s2 = .go sc s3 → scopeOf s3 s.here.tile sc = some c →
    NamesWord va s3 s4 pa → lineBusy s4 s.here.tile pa = false → lineBusy s4 s.here.tile (pa + 8) = false →
    (∀ n, crossDown (arrivalFold s4 pa) (.tile s.here.tile) (.mpt (homeMpt (arrivalFold s4 pa) pa)) = some n →
      exec (.await d a b) s = .next (takeTrap (trapOf .link va (linkVal2 n)) s)) ∧
    (crossDown (arrivalFold s4 pa) (.tile s.here.tile) (.mpt (homeMpt (arrivalFold s4 pa) pa)) = none →
    (arrivalAt (arrivalFold s4 pa) pa).2 = false →
    (reached (wordAt s4 pa).gen (field y 0 16) = true →
      ∃ u, exec (.await d a b) s = .next (retireV 0 u) ∧ u.threads = s.threads ∧ u.hereTile.lines = []) ∧
    (reached (wordAt s4 pa).gen (field y 0 16) = false → (wordAt s4 pa).st = 2 →
      exec (.await d a b) s = .next (takeTrap (trapOf .overrun va (word (wordAt s4 pa).gen)) s)) ∧
    (reached (wordAt s4 pa).gen (field y 0 16) = false → (wordAt s4 pa).st ≠ 2 →
      ∃ t, exec (.await d a b) s = .next t ∧ t.me.wait = .await ∧ t.me.pc = z.pc ∧ t.me.s = z.s))) ∧
  (∀ (d a b : SReg) (s : State) (z : Thread) (p : Pend) (pa g : Nat), s.cur = some z → z.pend = some p → p.bad = none →
    p.again = some (pa, .load g) → p.dest = .nothing → (arrivalAt (arrivalFold s pa) pa).2 = false →
    (reached (wordAt s pa).gen g = true →
      (crossDown (arrivalFold s pa) (.mpt (homeMpt (arrivalFold s pa) pa)) (.tile s.here.tile) = none →
        ∃ u, exec (.await d a b) s = .next (retireV 0 u)) ∧
      (∀ n, crossDown (arrivalFold s pa) (.mpt (homeMpt (arrivalFold s pa) pa)) (.tile s.here.tile) = some n → Handles s z →
        ∃ t, exec (.await d a b) s = .next t ∧ field t.me.trapcause 0 8 = causeCode .link ∧ t.me.trapval2 = linkVal2 n
          ∧ t.me.trappc = z.pc)) ∧
    (reached (wordAt s pa).gen g = false → exec (.await d a b) s = .next (waitFor .await s)))

/-- AALLOC (R378) answers a handle of a free pool word of the tile's MPT, which is then zero and allocated, with the predicate set; where no word is
free, zero with the predicate clear. AFREE frees the word. -/
def Sys2Proof.Spec.PoolWords : Prop :=
  (∀ (d : SReg) (k : Nat) (s : State) (z : Thread), s.cur = some z → Room d s →
    (∀ n, freePoolWord s (mptOfTile s.here.tile) = some n →
      ∃ v u, exec (.aalloc d k) s = .next (retireV v (writeS d v 1 (writeK k (BitVec.allOnes 64) 1 u)))
        ∧ v = BitVec.ofNat 64 (2 ^ 63 + poolPa s (mptOfTile s.here.tile) n)
        ∧ (poolGet (u.mpt (mptOfTile s.here.tile)) n).alloc = true
        ∧ u.getNat (areaKey .pool (mptOfTile s.here.tile) (16 * n)) 16 = 0
        ∧ BytesKeptBut (areaKey .pool (mptOfTile s.here.tile) (16 * n)) 16 s u) ∧
    (freePoolWord s (mptOfTile s.here.tile) = none → exec (.aalloc d k) s = .next (retireV 0 (writeS d 0 1 (writeK k 0 1 s))))) ∧
  (∀ (a : SReg) (s s1 : State) (z : Thread) (va : Word) (m n : Nat), s.cur = some z → readS a s = .go va s1 → isHandle va = true →
    va.toNat % 16 = 0 → poolAt s1 (field va 0 52) = some (m, n) → (poolGet (s1.mpt m) n).alloc = true →
    ∃ u, exec (.afree a) s = .next (retireV 0 u) ∧ (poolGet (u.mpt m) n).alloc = false ∧ u.mem = s.mem ∧ u.threads = s.threads)

/-- AMOORD and AEXP (R369, R376) send their request to the word's MPT and wait; with its reply in and good, AMOORD takes the old value and both
complete. -/
def Sys2Proof.Spec.OrderedRequests : Prop :=
  (∀ (op : OrdOp) (d a b f : SReg) (s s1 s2 s3 s4 s5 : State) (z : Thread) (va y sc n : Word) (c : Scope) (pa : Nat) (l : Bool),
    Fresh s z → Room d s → readS a s = .go va s1 → readS b s1 = .go y s2 → readS d s2 = .go sc s3 → readS f s3 = .go n s4 →
    scopeOf s4 s.here.tile sc = some c → checkAccess va 16 .atomic 0 s4 = .ok (.glob pa l, s5) →
    (s.settled s.here.tile z.uid = true →
      ∃ t p tok, exec (.amoord op d a b f) s = .next t ∧ t.net = s5.net ++ [p] ∧ p.dst = .mpt (homeMpt s5 pa)
        ∧ p.body = .access s5.who tok 0 pa (.amoord op n y (detHere s5)) ∧ t.me.wait = .amoord ∧ t.me.s = z.s) ∧
    (s.settled s.here.tile z.uid = false → exec (.amoord op d a b f) s = .next (waitFor .drain s))) ∧
  (∀ (a b : SReg) (s s1 s2 s3 : State) (z : Thread) (va y : Word) (pa : Nat), Fresh s z → readS a s = .go va s1 →
    readS b s1 = .go y s2 → NamesWord va s2 s3 pa →
    ∃ t p tok, exec (.aexp a b) s = .next t ∧ t.net = s3.net ++ [p] ∧ p.dst = .mpt (homeMpt s3 pa)
      ∧ p.body = .access s3.who tok 0 pa (.aexp (y.toNat % 2 ^ 48)) ∧ t.me.wait = .global ∧ t.me.s = z.s) ∧
  (∀ (op : OrdOp) (d a b f : SReg) (s : State) (z : Thread) (p : Pend), s.cur = some z → z.pend = some p → p.left = 0 →
    p.todo = [] → p.bad = none →
    (p.dest = .old d false → ∃ u, exec (.amoord op d a b f) s = .next (retireV 0 u) ∧ Took d (p.value 0) s u ∧ BytesKept s u) ∧
    (p.dest = .nothing → ∃ u, exec (.aexp a b) s = .next (retireV 0 u) ∧ u.threads = s.threads ∧ BytesKept s u))

/-- Arrival words, pool words and ordered atomics as a thread uses them (R369, R374-R378). -/
def Obligations.SynchronisationResults : Prop := Spec.Awaits ∧ Spec.PoolWords ∧ Spec.OrderedRequests

/-! Streams, repeat, accumulators and the dot-product unit (R248-R257, R340-R356). -/

namespace Sys2Proof.Spec

/-- The slot is native, as the instructions on streams and accumulators require (R155). -/
def NativeSlot (s : State) : Prop := isGuest s.here.slot = false

/-- A read stream gives `n` bytes (R343): those fetched ahead, then those read at their places, none poisoned; or those that the ring
tap has released (R123). `t` is the state with the position advanced. -/
def Gives (s : State) (q n : Nat) (bs : List Byte) (t : State) : Prop :=
  ((myStream s q).kind ≠ .none ∧ (myStream s q).kind ≠ .tap ∧ ∃ more s1,
    readLines s.here.tile s.me (myStream s q) ((n - ((myStream s q).ahead.take n).length) / 64)
      ((myStream s q).pos + ((myStream s q).ahead.take n).length) s = .bytes more s1
    ∧ ((myStream s q).members = 0 ∨ n ≤ (myStream s q).ahead.length)
    ∧ bs = ((myStream s q).ahead.take n ++ more).map Prod.fst ∧ (∀ b ∈ (myStream s q).ahead.take n ++ more, b.2 = false)
    ∧ t = setMyStream s1 q { myStream s q with
        pos := ((myStream s q).pos + n) % 2 ^ 64, ahead := (myStream s q).ahead.drop n, taken := (myStream s q).taken - n }) ∨
  ((myStream s q).kind = .tap ∧ n ≤ (s.tap s.here.tile).bytes.length ∧ bs = (s.tap s.here.tile).bytes.take n
    ∧ t = tapFinish ((setMyStream s q { myStream s q with pos := ((myStream s q).pos + n) % 2 ^ 64 }).placeTap s.here.tile
        { s.tap s.here.tile with bytes := (s.tap s.here.tile).bytes.drop n, taken := (s.tap s.here.tile).taken - n }) s.here.tile)

/-- A write stream takes bytes (R343): every line is checked, then each is written; no word of them has been emptied in this cycle (R188). -/
def Puts (s : State) (q : Nat) (bs : List Byte) (t : State) : Prop :=
  ∃ gs s1, checkLines (myStream s q) (bs.length / 64) (myStream s q).pos s = ([], gs, s1)
    ∧ (∀ u o i, .sram u o ∈ gs → i < 8 → justEmptied s1 u (o + 8 * i) = false ∧ justEmptied s u (o + 8 * i) = false)
    ∧ t = setMyStream (putLines gs bs s1) q
        { myStream (putLines gs bs s1) q with pos := ((myStream s q).pos + bs.length) % 2 ^ 64 }

/-- Element (i, j) of accumulator m of the present slot (R348). -/
def acc (s : State) (m i j : Nat) : BitVec 32 := accAt s.myNative m i j

/-- Every accumulator but m is as before. -/
def OtherAccs (m : Nat) (s u : State) : Prop := ∀ n i j, n < 4 → n ≠ m → i < 32 → j < 32 → acc u n i j = acc s n i j

/-- The parity of an accumulator is right (R33). -/
def Sound (m : Nat) (s : State) : Prop := m ∉ s.myNative.badAcc

/-- The dot-product unit is free, and the accumulator is sound and not being loaded (R33, R157, R351). -/
def DotReady (m : Nat) (s : State) : Prop := s.hereTile.dotUntil ≤ s.cycle ∧ s.me.ripe (accKey m) s.cycle = true ∧ Sound m s

/-- An accumulator can be read: it is sound, and neither being loaded nor written (R33, R351). -/
def AccReadable (m : Nat) (s : State) : Prop := accReady m s = true ∧ Sound m s

/-- Line `i` of an operand of 2048 bytes: its elements of `e` bytes (R348). -/
def opLine (e : Nat) (bs : List Byte) (i : Nat) : List Nat := (List.range (64 / e)).map (fun k => byteElem bs e (64 / e * i + k))

/-- One element of a floating-point block product (R248): one rounding of the exact sum; an invalid product gives the default NaN. -/
def dotSum (c : BitVec 32) (xs ys : List FVal) : BitVec 32 :=
  if (List.zipWith FVal.mul xs ys).any Prod.snd then BitVec.ofNat 32 0x7FC00000
  else BitVec.ofNat 32 (f32.sum .rne (f32.val c.toNat :: (List.zipWith FVal.mul xs ys).map Prod.fst)).bits

/-- A value of DOTMX with its block's scale (R251). -/
def mxElement (t : MxTy) (scale x : Nat) : FVal := if scale = 255 then .nan false else mxScaled scale (mxVal t x)

/-- Line `i` of an operand of DOTMX, with its two scales (R349). -/
def mxLine (t : MxTy) (bs ss : List Byte) (i : Nat) : List FVal :=
  (List.range 64).map (fun k => mxElement t (byteElem ss 1 (2 * i + k / 32)) (byteElem bs 1 (64 * i + k)))

/-- The sum D_t of the partial images with k + l = t (R257, R355): image number (t-1)(t-2)/2 + k - 1 holds pair (k, t - k). -/
def diagonal (bs : List Byte) (t i : Nat) : Int :=
  ((List.range (t - 1)).map (fun k => (BitVec.ofNat 32 (byteElem bs 4 (1024 * ((t - 1) * (t - 2) / 2 + k) + i))).toInt)).sum

/-- One element of MERGE (R257): the least significant diagonal first, one rounding for each. -/
def merged (bs : List Byte) (sl : Nat) (e f : Int) (i : Nat) : Nat :=
  if e = 0x7FFF ∨ f = 0x7FFF then 0x7FF8000000000000
  else ((List.range (sl - 1)).map (fun n => sl - n)).foldl
    (fun c t => (f64.sum .rne [f64.val c, scaledVal (diagonal bs t i) (e + f - 7 * t)]).bits)
    (f64.round .rne false (decide (diagonal bs (sl + 1) i < 0)) (diagonal bs (sl + 1) i).natAbs (e + f - 7 * (sl + 1)) false).bits

end Sys2Proof.Spec

/-- QSET, QADV and QPOS complete in a native slot (R341, R342, R346): QSET binds the descriptor at position 0 with nothing read ahead, NONE
unbinds, and a malformed descriptor raises ACCESS with its BASE; QADV adds a multiple of 64 to the position, and raises MISALIGN for
another value, and ACCESS for a stream that is unbound or would go past its end; QPOS writes the position. -/
def Obligations.StreamRegisterResults : Prop :=
  (∀ (q : Nat) (v : VReg) (s s1 : State) (z : Thread) (d : Vec), s.cur = some z → NativeSlot s → readV v s = .go d s1 →
    ((lane 64 d 1).toNat / 2 ^ 60 = 0 →
      ∃ u, exec (.qset q v) s = .next (retireV 0 u) ∧ myStream u q = Stream.unbound ∧ u.threads = s.threads ∧ u.mem = s.mem) ∧
    (∀ kind, kindOf ((lane 64 d 1).toNat / 2 ^ 60) = some kind → kind ≠ .none →
      (descBad s1 s.here.tile d (streamOf d kind) = false →
        ∃ u, exec (.qset q v) s = .next (retireV 0 u) ∧ (myStream u q).kind = kind ∧ (myStream u q).base = lane 64 d 0
          ∧ (myStream u q).write = (lane 64 d 1).getLsbD 59 ∧ (myStream u q).wrap = (lane 64 d 1).getLsbD 58
          ∧ (myStream u q).len0 = (lane 64 d 1).toNat % 2 ^ 32 ∧ (myStream u q).stride1 = lane 64 d 2
          ∧ (myStream u q).stride2 = lane 64 d 3 ∧ (myStream u q).n1 = (lane 64 d 4).toNat % 2 ^ 32
          ∧ (myStream u q).n2 = (lane 64 d 4).toNat / 2 ^ 32 ∧ (myStream u q).pos = 0 ∧ (myStream u q).ahead = []
          ∧ u.threads = s.threads ∧ u.mem = s.mem) ∧
      (descBad s1 s.here.tile d (streamOf d kind) = true →
        exec (.qset q v) s = .next (takeTrap (trapOf .access (lane 64 d 0) 0) s))) ∧
    (kindOf ((lane 64 d 1).toNat / 2 ^ 60) = none → exec (.qset q v) s = .next (takeTrap (trapOf .access (lane 64 d 0) 0) s))) ∧
  (∀ (q : Nat) (c : SReg) (s s1 : State) (z : Thread) (v : Word), s.cur = some z → NativeSlot s → readS c s = .go v s1 →
    (v.toNat % 64 ≠ 0 → exec (.qadv q c) s = .next (takeTrap (trapOf .misalign v 0) s)) ∧
    (v.toNat % 64 = 0 → (myStream s1 q).kind ≠ .none → (myStream s1 q).kind ≠ .tap →
      ((myStream s1 q).wrap = true ∨ (myStream s1 q).pos + v.toNat ≤ (myStream s1 q).total) →
      ∃ u, exec (.qadv q c) s = .next (retireV 0 u) ∧ (myStream u q).pos = ((myStream s q).pos + v.toNat) % 2 ^ 64
        ∧ u.threads = s.threads ∧ u.mem = s.mem) ∧
    (v.toNat % 64 = 0 → ((myStream s1 q).kind = .none ∨ ((myStream s1 q).kind ≠ .tap ∧ (myStream s1 q).wrap = false
        ∧ (myStream s1 q).total < (myStream s1 q).pos + v.toNat)) →
      exec (.qadv q c) s = .next (takeTrap accessNoAddr s))) ∧
  (∀ (q : Nat) (c : SReg) (s : State) (z : Thread), s.cur = some z → NativeSlot s → Room c s →
    exec (.qpos q c) s = .next (retireV (BitVec.ofNat 64 (myStream s q).pos) (writeS c (BitVec.ofNat 64 (myStream s q).pos) 1 s)))

/-- REP, MZERO, MLD, MST and ACTLD complete in a native slot (R347, R350, R353): REP starts the repeat of the next n instructions, or passes
over them where the count is zero; an accumulator is zeroed, loaded from its 4 KiB image or stored as it, other accumulators
keeping; the 528 bytes of the activation table are loaded where bytes 8-15 are zero. MLD, MST and ACTLD are stated for a turn that performs all of their
words (R210, log entry 104). -/
def Obligations.AccumulatorResults : Prop :=
  (∀ (a : SReg) (n : Nat) (s s1 : State) (z : Thread) (v : Word), s.cur = some z → NativeSlot s → s.myNative.rep.active = false →
    readS a s = .go v s1 → ¬Follows s1 →
    (v.toNat % 2 ^ 32 ≠ 0 → ∃ t, exec (.rep a n) s = .next t ∧ t.myNative.rep = ⟨true, z.pc + 4, n, [], 0, v.toNat % 2 ^ 32⟩
      ∧ t.me.pc = z.pc + 4 ∧ t.me.s = z.s ∧ t.mem = s.mem) ∧
    (∀ k s2, v.toNat % 2 ^ 32 = 0 → bodyWords s.here.tile z.root z.pl (z.pc + 4) n s1 = .ok (k, s2) →
      ∃ w, exec (.rep a n) s = .next (retireAt s.here.tile s.here.slot (4 + 4 * k) w s2))) ∧
  (∀ (m : Nat) (s : State) (z : Thread), s.cur = some z → NativeSlot s → accReady m s = true → m < 4 →
    ∃ u, exec (.mzero m) s = .next (retireV 0 u) ∧ (∀ i j, i < 32 → j < 32 → acc u m i j = 0) ∧ OtherAccs m s u
      ∧ u.threads = s.threads ∧ u.mem = s.mem) ∧
  (∀ (m : Nat) (c : SReg) (s s1 : State) (z : Thread) (va : Word) (o : Nat), Fresh s z → NativeSlot s → accReady m s = true → m < 4 →
    s.words = 0 → readS c s = .go va s1 → va.toNat % 64 = 0 →
    ((∀ i, i < 512 → checkAccess (va + BitVec.ofNat 64 (8 * i)) 8 .read 0 s1 = .ok (.sram s.here.tile (o + 8 * i), s1)
        ∧ s1.isPoisoned (own s (o + 8 * i)) 1 = false) →
      ∃ u, exec (.mld m c) s = .next (retireV 0 u)
        ∧ (∀ i j, i < 32 → j < 32 → acc u m i j = BitVec.ofNat 32 (s.getNat (own s (o + 4 * (32 * i + j))) 4)) ∧ OtherAccs m s u
        ∧ u.me.s = z.s ∧ BytesKept s u) ∧
    (Sound m s → (∀ i, i < 512 → checkAccess (va + BitVec.ofNat 64 (8 * i)) 8 .write 0 s1 = .ok (.sram s.here.tile (o + 8 * i), s1)
        ∧ saFull s1 s.here.tile (o + 8 * i) = false ∧ justEmptied s1 s.here.tile (o + 8 * i) = false) →
      ∃ u, exec (.mst m c) s = .next (retireV 0 u)
        ∧ (∀ i j, i < 32 → j < 32 → u.getNat (own s (o + 4 * (32 * i + j))) 4 = (acc s m i j).toNat)
        ∧ BytesKeptBut (own s o) 4096 s u ∧ (∀ n i j, acc u n i j = acc s n i j) ∧ u.me.s = z.s)) ∧
  (∀ (c : SReg) (s s1 : State) (z : Thread) (va : Word) (o : Nat), Fresh s z → NativeSlot s → s.words = 0 → readS c s = .go va s1 →
    va.toNat % 16 = 0 →
    (∀ i, i < 66 → checkAccess (va + BitVec.ofNat 64 (8 * i)) 8 .read 0 s1 = .ok (.sram s.here.tile (o + 8 * i), s1)
      ∧ s1.isPoisoned (own s (o + 8 * i)) 1 = false) →
    (s.getNat (own s (o + 8)) 8 = 0 →
      ∃ u, exec (.actld c) s = .next (retireV 0 u) ∧ (∀ i, i < 528 → sparseGet 0 u.myNative.act i = s.byteAt (own s o + i))
        ∧ BytesKept s u ∧ u.me.s = z.s) ∧
    (s.getNat (own s (o + 8)) 8 ≠ 0 → Handles s z →
      ∃ t, exec (.actld c) s = .next t ∧ field t.me.trapcause 0 8 = 0x05 ∧ t.me.trapval = va + 8
        ∧ t.myNative.act = s.myNative.act))

/-- DOT and DOTMX complete in a native slot with the unit free (R248-R251, R348, R349): each of the 1024 elements takes its old value plus
the exact sum of its products, modulo 2^32 for integers and rounded once for floating point; an operand with a NaN scale is a NaN.
DOT is stated for two registers; where qa = qb, A takes the first 2048 bytes and B the next. -/
def Obligations.DotProductResults : Prop :=
  (∀ (t : DotTy) (m qa qb : Nat) (s s1 s2 : State) (z : Thread) (as bs : List Byte), s.cur = some z → NativeSlot s → DotReady m s → m < 4 →
    as.length = 2048 → bs.length = 2048 → streamBad (myStream s qa) false 2048 = false →
    streamBad (myStream s qb) false (if qa = qb then 4096 else 2048) = false → Gives s qa 2048 as s1 → Gives s1 qb 2048 bs s2 →
    (∀ sa sb, dotKind t = .int sa sb →
      ∃ u, exec (.dot t m qa qb) s = .next (retireV 0 u) ∧ OtherAccs m s u ∧ u.me.s = z.s ∧ u.mem = s2.mem
        ∧ ∀ i j, i < 32 → j < 32 → acc u m i j = acc s m i j + BitVec.ofInt 32 ((List.range 64).map (fun k =>
          int8 sa (byteElem as 1 (64 * i + k)) * int8 sb (byteElem bs 1 (64 * j + k)))).sum) ∧
    (∀ fa fb, dotKind t = .flt fa fb → NoFpTraps z →
      ∃ u, exec (.dot t m qa qb) s = .next (retireV 0 u) ∧ OtherAccs m s u ∧ u.me.s = z.s ∧ u.mem = s2.mem
        ∧ ∀ i j, i < 32 → j < 32 → acc u m i j = dotSum (acc s m i j)
          ((opLine ((fmtOf fa).width / 8) as i).map (fmtOf fa).val) ((opLine ((fmtOf fb).width / 8) bs j).map (fmtOf fb).val))) ∧
  (∀ (t : MxTy) (m qa qb qsa qsb : Nat) (s s1 s2 s3 s4 : State) (z : Thread) (as bs sa sb : List Byte), s.cur = some z → NativeSlot s →
    DotReady m s → m < 4 → NoFpTraps z → as.length = 2048 → bs.length = 2048 → sa.length = 64 → sb.length = 64 →
    (takeTotals [(qa, 2048), (qb, 2048), (qsa, 64), (qsb, 64)]).any (fun e => streamBad (myStream s e.1) e.2.1 e.2.2) = false →
    Gives s qa 2048 as s1 → Gives s1 qb 2048 bs s2 → Gives s2 qsa 64 sa s3 → Gives s3 qsb 64 sb s4 →
    ∃ u, exec (.dotmx t m qa qb qsa qsb) s = .next (retireV 0 u) ∧ OtherAccs m s u ∧ u.me.s = z.s ∧ u.mem = s4.mem
      ∧ ∀ i j, i < 32 → j < 32 → acc u m i j = dotSum (acc s m i j) (mxLine t as sa i) (mxLine t bs sb j))

/-- MOUT, SPLIT and MERGE complete in a native slot (R252-R257, R352-R355). MOUT puts the 1024 elements of its chain in row-major order
and leaves the accumulator; without stages an f32 element is put as it stands, and under BIAS rounded once with its column's bias.
SPLIT takes all of its panel and puts exponents and digits; MERGE puts the f64 elements of R257. -/
def Sys2Proof.Spec.Outputs : Prop :=
  (∀ (o : OutTy) (bias act quant i32 : Bool) (m qa qb : Nat) (s s1 s2 : State) (z : Thread) (ps : List Byte), s.cur = some z →
    NativeSlot s → AccReadable m s → m < 4 → s.hereTile.outUntil ≤ s.cycle → NoFpTraps z →
    streamBad (myStream s qa) true (1024 * outBytes o) = false →
    (if bias || quant then streamBad (myStream s qb) false 384 = false ∧ Gives s qb 384 ps s1 else ps = [] ∧ s1 = s) →
    Puts s1 qa ((List.range 1024).flatMap (fun e => leBytes (outBytes o)
      (outElem z.fpcsr s.myNative o bias act quant i32 ps m e).1)) s2 →
    ∃ c, exec (.mout o bias act quant i32 m qa qb) s = .next (retireV 0
      ((s2.upd (fun x => { x with fpcsr := c })).updHere (fun y => { y with outUntil := s.cycle + 16 })))) ∧
  (∀ (c : Word) (n : Native) (o : OutTy) (ps : List Byte) (m e : Nat), flag c 13 = false →
    (outElem c n o false false false false ps m e).1 = (accAt n m (e / 32) (e % 32)).toNat ∧
    (outElem c n o true false false false ps m e).1
      = (f32.add .rne (accAt n m (e / 32) (e % 32)).toNat (byteElem ps 4 (e % 32))).bits) ∧
  (∀ (cols : Bool) (sl n qa qb : Nat) (s s1 s2 : State) (z : Thread) (bs : List Byte), s.cur = some z → NativeSlot s → NoFpTraps z →
    s.hereTile.dotUntil ≤ s.cycle → 1 ≤ sl → sl ≤ 8 → splitRefused (myStream s qa) (myStream s qb) sl = false →
    n = (myStream s qa).total / 256 → Gives s qa (256 * n) bs s1 → bs.length = 256 * n →
    Puts s1 qb (splitBytes sl ((panelLines cols n bs).map (splitLine sl))) s2 →
    ∃ c, exec (.split cols sl qa qb) s = .next (retireV 0 (takeUnit (n / 2 + 32) (s2.upd (fun x => { x with fpcsr := c }))))) ∧
  (∀ (sl m qa qb : Nat) (s s1 s2 : State) (z : Thread) (bs : List Byte), s.cur = some z → NativeSlot s → NoFpTraps z →
    s.hereTile.dotUntil ≤ s.cycle → AccReadable m s → m < 4 → 1 ≤ sl → sl ≤ 8 →
    streamBad (myStream s qa) false (4096 * (sl * (sl + 1) / 2)) = false → streamBad (myStream s qb) true 8192 = false →
    bs.length = 4096 * (sl * (sl + 1) / 2) → Gives s qa (4096 * (sl * (sl + 1) / 2)) bs s1 →
    Puts s1 qb ((List.range 1024).flatMap (fun e => leBytes 8
      (merged bs sl (acc s m 0 (e / 32)).toInt (acc s m 1 (e % 32)).toInt e))) s2 →
    ∃ c, exec (.merge sl m qa qb) s = .next (retireV 0
      (takeUnit (16 * sl * (sl + 1) / 2 + 32) (s2.upd (fun x => { x with fpcsr := c })))))

/-- The digits of SPLIT (R255): every one lies in [-64, 63], the most significant in [-32, 32], and together they give M exactly; the
exponent of a line bounds each of its elements, and is the least that does. -/
def Sys2Proof.Spec.SplitDigits : Prop :=
  (∀ (n : Nat) (m : Int), 1 ≤ n → n ≤ 8 → -(2 ^ (7 * n - 2) : Nat) < m → m < (2 ^ (7 * n - 2) : Nat) →
    (∀ d ∈ splitDigits m 0 n, -64 ≤ d ∧ d ≤ 63) ∧ (splitDigits m 0 n).length = n
      ∧ (∀ d, (splitDigits m 0 n).getLast? = some d → -32 ≤ d ∧ d ≤ 32)
      ∧ (splitDigits m 0 n).foldr (fun d a => d + 128 * a) 0 = m) ∧
  (∀ (xs : List FVal) (neg : Bool) (m : Nat) (e : Int), .fin neg m e ∈ xs → m ≠ 0 →
    (Nat.log2 m : Int) + e < splitExp xs - 2) ∧
  (∀ (xs : List FVal), (∃ neg m e, .fin neg m e ∈ xs ∧ m ≠ 0) →
    ∃ neg m e, .fin neg m e ∈ xs ∧ m ≠ 0 ∧ (Nat.log2 m : Int) + e = splitExp xs - 3) ∧
  (∀ (xs : List FVal), (∀ neg m e, .fin neg m e ∈ xs → m = 0) → splitExp xs = -1022)

/-- MOUT, SPLIT and MERGE complete, and SPLIT's digits are exact (R252-R257, R352-R355). -/
def Obligations.OutputResults : Prop := Spec.Outputs ∧ Spec.SplitDigits

/-! Engines, the ring tap, tasks and launch (R123, R139, R380-R396, R400, R401). -/

namespace Sys2Proof.Spec

/-- Every word of the 32 bytes at a virtual address lies in the own tile's SRAM, from an offset up (R182). -/
def OwnBytes (k : AccKind) (y : Word) (o : Nat) (s : State) : Prop :=
  ∀ i, i < 4 → checkAccess (y + word (8 * i)) 8 k 0 s = .ok (.sram s.here.tile (o + 8 * i), s)

/-- The 32 bytes at an offset of the own tile's SRAM hold no full SA word, none that an LDWE has emptied in this cycle, and no poison (R33,
R187, R188). -/
def OwnClear (o : Nat) (s : State) : Prop :=
  ∀ i, i < 4 → saFull s s.here.tile (o + 8 * i) = false ∧ justEmptied s s.here.tile (o + 8 * i) = false
    ∧ s.isPoisoned (own s (o + 8 * i)) 8 = false

/-- The thread's earlier stores, atomics and REDs are performed or sealed (R104, R396). -/
def Settled (s : State) (z : Thread) : Prop := owesSeals s = false ∧ s.settled s.here.tile z.uid = true

/-- A task goes to a tile on class TSK, and the thread's counter advances (R84, R391). -/
def SendsTask (s s1 u : State) (z : Thread) (dst : Nat) (k : Task) : Prop :=
  ∃ p, u.net = s1.net ++ [p] ∧ p.cls = .tsk ∧ p.src = .tile s.here.tile ∧ p.dst = .tile (tileAt k.dx k.dy) ∧ p.body = .task k
    ∧ k.dpkg = pkgId s ∧ k.dx = tileX dst ∧ k.dy = tileY dst ∧ k.srcPkg = pkgId s ∧ k.srcIdx = z.origin ∧ k.stolen = false
    ∧ k.win = z.window ∧ k.key = z.key ∧ k.cnt = z.count
    ∧ (isService s dst = true → k.rid = 0 ∧ k.gen = 0)
    ∧ (isService s dst = false → k.rid = s.hereTile.rid ∧ k.gen = s.hereTile.gen)
    ∧ u.me.count = z.count + 1 ∧ u.me.s = z.s ∧ u.me.v = z.v ∧ SystemKept s u ∧ BytesKept s u

/-- What a form of LAUNCH needs before it reaches the Scheduler Unit (R395, R396): its operand, an address that a block may have, no
PURE run, room in d, and the thread's earlier writes performed or sealed. -/
def LaunchReady (d a : SReg) (v : Word) (s s1 : State) (z : Thread) : Prop :=
  s.cur = some z ∧ Room d s ∧ readS a s = .go v s1 ∧ purityForbids s1 s1.me = none ∧ blockAddr s1 v = true ∧ Settled s z

/-- An outcome of LAUNCH: d takes it, and the tile's CACHE lines go, since the reply is acquired (R396). -/
def outcome (d : SReg) (n : Nat) (s : State) : State := retireV (word n) (writeS d (word n) 1 (dropLines s.here.tile s))

end Sys2Proof.Spec

/-- CPY, STRM and STRB complete (R380, R385, R387): CPY and STRM hand the request in a to the engine or generator of its MPT, once the
thread's stores are performed; unless d is s0 its status is then awaited; a ninth awaited status waits; a range outside a PURE
run's arguments and outputs raises its trap. STRB notes its bank mask for the streams that follow. No register but a port of
an operand changes, and no memory. -/
def Sys2Proof.Spec.EngineRequests : Prop :=
  (∀ (d : SReg) (a : VReg) (s s1 : State) (z : Thread) (v : Vec), s.cur = some z → Room d s → readV a s = .go v s1 →
    engineRoom d z = true → s.settled s.here.tile z.uid = true →
    (copyPurity s1 s1.me v = none →
      ∃ u p c, exec (.cpy d a) s = .next (retireV 0 u) ∧ u.net = s1.net ++ [p] ∧ p.cls = .bulk ∧ p.src = .tile s.here.tile
        ∧ p.dst = .mpt (if copyEng v < s.part.mpts then copyEng v else mptOfTile s.here.tile) ∧ p.body = .copy c ∧ c.req = v
        ∧ c.root = z.root ∧ c.pl = z.pl ∧ c.who = s1.who
        ∧ u.me.awaited = (if d = .gen 0 then z.awaited else z.awaited ++ [⟨c.tok, d, false⟩])
        ∧ u.me.s = z.s ∧ u.me.v = z.v ∧ SystemKept s u ∧ BytesKept s u) ∧
    (∀ c, copyPurity s1 s1.me v = some c → exec (.cpy d a) s = .next (takeTrap c s)) ∧
    (edgePurity s1 s1.me v = none →
      ∃ u p e, exec (.strm d a) s = .next (retireV 0 u) ∧ u.net = s1.net ++ [p] ∧ p.cls = .bulk ∧ p.src = .tile s.here.tile
        ∧ p.dst = .mpt (if edgeEng v < s.part.mpts then edgeEng v else mptOfTile s.here.tile) ∧ p.body = .stream e ∧ e.req = v
        ∧ e.root = z.root ∧ e.pl = z.pl ∧ e.who = s1.who ∧ e.tile = edgeTile v ∧ e.side = edgeSide v ∧ e.aw = descWord v 6
        ∧ u.me.awaited = (if d = .gen 0 then z.awaited else z.awaited ++ [⟨e.tok, d, true⟩])
        ∧ u.me.s = z.s ∧ u.me.v = z.v ∧ SystemKept s u ∧ BytesKept s u) ∧
    (∀ c, edgePurity s1 s1.me v = some c → exec (.strm d a) s = .next (takeTrap c s))) ∧
  (∀ (d : SReg) (a : VReg) (s : State) (z : Thread), s.cur = some z → d ≠ .gen 0 → 8 ≤ z.awaited.length →
    exec (.cpy d a) s = .next (waitFor .status s) ∧ exec (.strm d a) s = .next (waitFor .status s)) ∧
  (∀ (a : SReg) (s s1 : State) (z : Thread) (v : Word), s.cur = some z → readS a s = .go v s1 →
    ∃ u, exec (.strb a) s = .next (retireV 0 u) ∧ u.me.strb = z.strb ++ [(s1.nextId, v.setWidth 12)]
      ∧ u.me.s = z.s ∧ u.me.v = z.v ∧ SystemKept s u ∧ BytesKept s u ∧ u.net = s.net)

/-- BOARD, LEAVE and RSTAT complete (R123, R139, R388-R390): BOARD arms an idle tap for a layer and its laps, binds stream register q to
it, and goes on 8 bytes further; LEAVE frees the tap that q holds; in a guest slot, with the tap not idle, or q not holding it, they
raise ACCESS; RSTAT gives the tap's state, its lane and, unless it is idle, its stream, laps, layer and counts. -/
def Sys2Proof.Spec.TapHolds : Prop :=
  (∀ (q laps : Nat) (layer : BitVec 16) (s : State) (z : Thread), s.cur = some z → purityForbids s z = none →
    (isGuest s.here.slot = false → (s.tap s.here.tile).state = .idle →
      ∃ u, exec (.board q layer laps) s = .next (retireAt s.here.tile s.here.slot 8 0 u)
        ∧ (u.tap s.here.tile).state = .armed ∧ (u.tap s.here.tile).q = q ∧ (u.tap s.here.tile).slot = s.here.slot
        ∧ (u.tap s.here.tile).layer = layer.toNat ∧ (u.tap s.here.tile).laps = laps - 1
        ∧ (u.tap s.here.tile).lane = (s.tap s.here.tile).lane ∧ (myStream u q).kind = .tap
        ∧ u.me.s = z.s ∧ u.me.v = z.v ∧ u.me.k = z.k ∧ BytesKept s u) ∧
    (isGuest s.here.slot = true ∨ (s.tap s.here.tile).state ≠ .idle →
      exec (.board q layer laps) s = .next (takeTrap accessNoAddr s))) ∧
  (∀ (q laps : Nat) (layer : BitVec 16) (s : State) (z : Thread) (c : TrapInfo), s.cur = some z → purityForbids s z = some c →
    exec (.board q layer laps) s = .next (takeTrap c s)) ∧
  (∀ (q : Nat) (s : State) (z : Thread), s.cur = some z →
    (isGuest s.here.slot = false → holdsTap s q = true →
      ∃ u, exec (.leave q) s = .next (retireV 0 u) ∧ (u.tap s.here.tile).state = .idle
        ∧ (u.tap s.here.tile).lane = (s.tap s.here.tile).lane ∧ u.me.s = z.s ∧ u.me.v = z.v ∧ u.me.k = z.k ∧ u.me.pc = z.pc
        ∧ BytesKept s u) ∧
    (isGuest s.here.slot = true ∨ holdsTap s q = false → exec (.leave q) s = .next (takeTrap accessNoAddr s))) ∧
  (∀ (d : SReg) (s : State) (z : Thread) (x : Tap), s.cur = some z → Room d s → x = s.tap s.here.tile →
    x.q < 8 → x.lane < 8 → x.laps < 64 → x.layer < 65536 → x.reason < 256 →
    ∃ w, exec (.rstat d) s = .next (retireV w (writeS d w 1 s)) ∧ field w 61 3 = tapCode x.state ∧ field w 55 3 = x.lane ∧
      (x.state = .idle → field w 58 3 = 0 ∧ field w 0 55 = 0) ∧
      (x.state ≠ .idle → field w 58 3 = x.q ∧ field w 54 1 = (if x.slot = s.here.slot then 1 else 0) ∧ field w 48 6 = x.laps
        ∧ field w 32 16 = x.layer ∧ field w 24 8 = (if x.state = .faulted then x.reason else 0)
        ∧ field w 16 8 = min 255 x.missed ∧ field w 0 16 = min 65535 x.frel))

/-- The requests to engines and the holds on the ring tap complete (R123, R380, R385, R387-R390). -/
def Obligations.EngineAndTapResults : Prop := Spec.EngineRequests ∧ Spec.TapHolds

/-- SEND, SPAWN, HEND and WCLOSE complete (R85, R94, R99, R391-R394): SEND sends the task to the tile that S[a] names, SPAWN to the
owner of the address S[a], with the thread's window, KEY and CNT, and CNT advances; a destination that is no tile of the region
and no service tile, or an address without an owner, raises ACCESS with S[a]; in a PURE run a service tile raises PURITY first. HEND frees the slot. WCLOSE advances the thread's
window in DET mode once its tasks are delivered, and changes nothing elsewhere. -/
def Obligations.TaskResults : Prop :=
  (∀ (label prio : Nat) (two : Bool) (a b d : SReg) (s s1 s2 s3 : State) (z : Thread) (v w0 w1 : Word), s.cur = some z →
    readS a s = .go v s1 → readS b s1 = .go w0 s2 → (if two then readS d s2 else .go 0 s2) = .go w1 s3 →
    (sendOk s3 s.here.tile v = true → (isService s3 (tileAt (field v 0 8) (field v 8 8)) = true → purityOf s3 s3.me = none) →
      Settled s z → sendJammed s3 s.here.tile (tileAt (field v 0 8) (field v 8 8)) = false →
      ∃ u k, exec (.send label prio two a b d) s = .next (retireV 0 u)
        ∧ SendsTask s s3 u z (tileAt (field v 0 8) (field v 8 8)) k ∧ k.label = label ∧ k.prio = prio ∧ k.aff = false ∧ k.two = two
        ∧ k.w0 = w0 ∧ k.w1 = w1) ∧
    (sendOk s3 s.here.tile v = false → exec (.send label prio two a b d) s = .next (takeTrap (trapOf .access v 0) s)) ∧
    (sendOk s3 s.here.tile v = true → isService s3 (tileAt (field v 0 8) (field v 8 8)) = true → (purityOf s3 s3.me).isSome = true →
      exec (.send label prio two a b d) s = .next (takeTrap (trapOf .purity 0 4) s))) ∧
  (∀ (label prio : Nat) (two : Bool) (a b : SReg) (s s1 s2 : State) (z : Thread) (v w0 : Word), s.cur = some z →
    readS a s = .go v s1 → readS b s1 = .go w0 s2 →
    (namesService s2 v = true → (purityOf s2 s2.me).isSome = true →
      exec (.spawn label prio two a b) s = .next (takeTrap (trapOf .purity 0 4) s)) ∧
    (∀ dst, (namesService s2 v = true → purityOf s2 s2.me = none) → ownerOf s2 s.here.tile v = some dst → Settled s z → sendJammed s2 s.here.tile dst = false →
      ∃ u k, exec (.spawn label prio two a b) s = .next (retireV 0 u) ∧ SendsTask s s2 u z dst k ∧ k.label = label ∧ k.prio = prio
        ∧ k.aff = true ∧ k.two = two ∧ k.w0 = w0 ∧ k.w1 = (if two then v else 0)) ∧
    ((namesService s2 v = true → purityOf s2 s2.me = none) → ownerOf s2 s.here.tile v = none → exec (.spawn label prio two a b) s = .next (takeTrap (trapOf .access v 0) s))) ∧
  (∀ (s : State) (z : Thread), s.cur = some z →
    ∃ u, exec .hend s = .next u ∧ u.cur = none ∧ u.myNative = Native.fresh ∧ BytesKept s u ∧ u.full = s.full) ∧
  (∀ (s : State) (z : Thread), s.cur = some z → detTile s s.here.tile = false → exec .wclose s = .next (retireV 0 s)) ∧
  (∀ (s : State) (z : Thread) (r : RegionRec), s.cur = some z → regionOf s s.here.tile = some r → r.det = true →
    (s.tasksOut z.origin z.key = false → z.window.toNat ≤ r.number.toNat →
      exec .wclose s = .next (retireV 0 (s.upd (fun x => { x with window := z.window + 1 })))) ∧
    (s.tasksOut z.origin z.key = true ∨ r.number.toNat < z.window.toNat → exec .wclose s = .next (waitFor .wclose s)))

/-- LAUNCH and its forms complete (R395, R396): each passes its block to the Scheduler Unit, and d takes the outcome: 1 for a chain
that is malformed; for LAUNCH the outcome of admission, with the root in the queue where that is 0; for LAUNCH.KILL 0 and the kill, or
2 where there is nothing to kill; for LAUNCH.PRE and LAUNCH.RES 0 and the request, or 2. Another tenant's block raises ACCESS, malformed or
not, and LAUNCH.PRE and LAUNCH.RES raise PRIVILEGE below D. -/
def Sys2Proof.Spec.Launches : Prop :=
  (∀ (d a : SReg) (s s1 s2 : State) (z : Thread) (v : Word), LaunchReady d a v s s1 z → blockChain v.toNat s1 = (none, s2) →
    (foreignChain s2 v = false →
      exec (.launch d a) s = .next (outcome d 1 s2) ∧ exec (.launchKill d a) s = .next (outcome d 1 s2)) ∧
    (foreignChain s2 v = true →
      exec (.launch d a) s = .next (takeTrap (trapOf .access v 0) s) ∧ exec (.launchKill d a) s = .next (takeTrap (trapOf .access v 0) s))
    ∧ (z.pl = 2 → exec (.launchPre d a) s = .next (outcome d 1 s2) ∧ exec (.launchRes d a) s = .next (outcome d 1 s2))) ∧
  (∀ (d a : SReg) (s s1 s2 : State) (z : Thread) (v : Word) (c : List (Nat × List Word)), LaunchReady d a v s s1 z →
    blockChain v.toNat s1 = (some c, s2) →
    (otherTenant s2 (chainTenant c) = true →
      exec (.launch d a) s = .next (takeTrap (trapOf .access v 0) s) ∧ exec (.launchKill d a) s = .next (takeTrap (trapOf .access v 0) s)) ∧
    (otherTenant s2 (chainTenant c) = false →
      (∀ n s3, admitRoot (dieOfTile s.here.tile) v.toNat s2 = (n, s3) →
        exec (.launch d a) s = .next (outcome d n s3) ∧ (n = 0 → ∃ m, s3.node v.toNat = some m ∧ m.state = .ready)) ∧
      (killTargets s2 v.toNat = [] → exec (.launchKill d a) s = .next (outcome d 2 s2)) ∧
      (killTargets s2 v.toNat ≠ [] → exec (.launchKill d a) s = .next (outcome d 0 (s2.kill v.toNat)))) ∧
    (z.pl = 2 → c.length = 4 →
      (s2.node v.toNat = none → exec (.launchPre d a) s = .next (outcome d 2 s2) ∧ exec (.launchRes d a) s = .next (outcome d 2 s2)) ∧
      (∀ n, s2.node v.toNat = some n →
        (preemptRefused s2 n = true → exec (.launchPre d a) s = .next (outcome d 2 s2)) ∧
        (preemptRefused s2 n = false → exec (.launchPre d a) s = .next (outcome d 0 (beginPreempt s2 n))) ∧
        (n.state ≠ .preempted → exec (.launchRes d a) s = .next (outcome d 2 s2)) ∧
        (n.state = .preempted →
          exec (.launchRes d a) s = .next (outcome d 0 (s2.updNode n.addr (fun x => { x with resuming := true }))))))) ∧
  (∀ (d a : SReg) (s : State) (z : Thread), s.cur = some z → z.pl < 2 →
    exec (.launchPre d a) s = .next (takeTrap (trapOf .privilege (insnWord (.launchPre d a)) 0) s) ∧
    exec (.launchRes d a) s = .next (takeTrap (trapOf .privilege (insnWord (.launchRes d a)) 0) s))

/-- LAUNCH.SIG, ADIG and AINV on 32 bytes of the own tile's SRAM complete (R107, R395, R400, R401). LAUNCH.SIG of a placed region
stores its signature and gives 0, of one that is not placed gives 2; ADIG of a PURE node arms its argument chunks and hashes, starts again
where one of them is written meanwhile, at most three times, and then stores the key of its block and gives how the Archive answers to it; AINV frees every entry with the key it reads, of the thread's tenant or, at D, of any. -/
def Sys2Proof.Spec.SignaturesAndKeys : Prop :=
  (∀ (d a b : SReg) (s s1 s2 s3 : State) (z : Thread) (v y : Word) (o : Nat) (c : List (Nat × List Word)), Fresh s z → Room d s →
    readS a s = .go v s1 → readS b s1 = .go y s2 → y.toNat % 8 = 0 → purityForbids s2 s2.me = none → blockAddr s2 v = true →
    OwnBytes .write y o s2 → OwnClear o s2 → Settled s z → blockChain v.toNat s2 = (some c, s3) → c.length = 3 →
    otherTenant s3 (chainTenant c) = false →
    (∀ r, s3.region v.toNat = some r → r.on = true → s.words = 0 →
      ∃ u, exec (.launchSig d a b) s = .next (retireV 0 u) ∧ Took d 0 s2 u
        ∧ (∀ i, i < 32 → u.byteAt (own s o + i) = nth 0 (signature s3 r (regionMembers s3 r.blk)) i)
        ∧ BytesKeptBut (own s o) 32 s3 u ∧ u.me.v = z.v) ∧
    ((∀ r, s3.region v.toNat = some r → r.on = false) → exec (.launchSig d a b) s = .next (outcome d 2 s3))) ∧
  (∀ (d a b : SReg) (s s1 s2 s3 s4 : State) (z : Thread) (v y : Word) (o : Nat) (c : List (Nat × List Word)) (f : Found),
    Fresh s z → Room d s → readS a s = .go v s1 → readS b s1 = .go y s2 → OwnBytes .write y o s2 → OwnClear o s2 →
    s.settled s.here.tile z.uid = true → blockAddr s2 v = true → blockChain v.toNat s2 = (some c, s3) → otherTenant s3 (chainTenant c) = false →
    c.length = 4 → blockKind (chainBlock c 0) = 1 → judgeNode v.toNat s3 = (some f, s4) →
    (z.dig = none →
      (∀ ps, adigArm f s4 = .ok ps → ∃ t, exec (.adig d a b) s = .next t ∧ t.me.dig = some ⟨0, ps, false⟩ ∧ t.me.wait = .archive
        ∧ t.me.pc = z.pc ∧ t.me.s = z.s ∧ BytesKept s t) ∧
      (∀ n, adigArm f s4 = .error n → exec (.adig d a b) s = .next (retireV (word n) (writeS d (word n) 1 s4)))) ∧
    (∀ g, z.dig = some g → g.hit = true →
      (g.restarts < 3 → ∃ t, exec (.adig d a b) s = .next t ∧ t.me.dig = some ⟨g.restarts + 1, g.chunks, false⟩ ∧ t.me.wait = .archive
        ∧ t.me.pc = z.pc ∧ t.me.s = z.s ∧ BytesKept s t) ∧
      (3 ≤ g.restarts → exec (.adig d a b) s = .next (retireV 4 (writeS d 4 1 (endDig s4))))) ∧
    (∀ g key s5, z.dig = some g → g.hit = false → adigKey f (endDig s4) = (.ok key, s5) → s.words = 0 →
      ∃ u, exec (.adig d a b) s = .next (retireV 0 u) ∧ Took d (word (adigOutcome s5 (chainTenant c) key)) s2 u ∧ u.me.dig = none
        ∧ (∀ i, i < 32 → u.byteAt (own s o + i) = nth 0 key i) ∧ BytesKeptBut (own s o) 32 s5 u ∧ u.me.v = z.v)) ∧
  (∀ (a : SReg) (s s1 : State) (z : Thread) (x : Word) (o : Nat), Fresh s z → readS a s = .go x s1 → OwnBytes .read x o s1 →
    OwnClear o s1 → s.words = 0 →
    ∃ u, exec (.ainv a) s = .next (retireV 0 u) ∧ BytesKept s u ∧ u.me.s = z.s ∧ u.me.v = z.v ∧
      ∀ m, (u.mpt m).entries = (s.mpt m).entries.filter (fun e =>
        !(decide (e.key = (List.range 32).map (fun i => s.byteAt (own s o + i)))
          && (decide (z.pl = 2) || decide (e.tenant = (tenantOf s z).getD 0)))))

/-- LAUNCH, its forms, ADIG and AINV complete (R395, R396, R400, R401). -/
def Obligations.LaunchAndArchiveResults : Prop := Spec.Launches ∧ Spec.SignaturesAndKeys

/-! System registers, traps, waits and maintenance (R156, R193, R260-R263, R402, R403, R412-R424). -/

namespace Sys2Proof.Spec

/-- The registers and memory that no instruction of this group changes. -/
def DataKept (z : Thread) (s u : State) : Prop := u.me.v = z.v ∧ u.me.k = z.k ∧ BytesKept s u ∧ u.full = s.full

/-- A thread has entered its handler from the instruction at `pc` (R262, R263, R265). -/
def Entered (z : Thread) (cause : Nat) (next : Bool) (pc val val2 : Word) (s t : State) : Prop :=
  t.me.trappc = pc ∧ field t.me.trapcause 0 8 = cause ∧ flag t.me.trapcause 8 = next ∧ t.me.trapval = val ∧ t.me.trapval2 = val2
    ∧ field t.me.status 2 2 = field z.status 0 2 ∧ field t.me.status 0 2 = max (field z.status 0 2) 1 ∧ flag t.me.status 5 = true
    ∧ t.me.pc = BitVec.ofInt 64 ((BitVec.ofNat 48 (field z.trapvec 2 46 * 4)).toInt)
    ∧ t.me.s = z.s ∧ t.me.v = z.v ∧ t.me.k = z.k ∧ t.me.fpcsr = z.fpcsr ∧ t.me.livemask = z.livemask ∧ BytesKept s t

/-- A write of GANG that raises ACCESS (R168, R169): ROLE 3, a SLOT above 3, or a lead of no tile, from a guest slot or another slot than
SLOT, or over a tile outside the row or the region. -/
def GangRefused (v : Word) (s : State) : Prop :=
  field v 0 2 = 3 ∨ 4 ≤ field v 16 3 ∨ (field v 0 2 = 1 ∧ (field v 8 4 = 0 ∨ isGuest s.here.slot = true ∨ field v 16 3 ≠ s.here.slot
    ∨ 64 ≤ tileX s.here.tile + field v 8 4 ∨ ∃ i, i < field v 8 4 ∧ sameRegion s s.here.tile (s.here.tile + 1 + i) = false))

/-- A write of QPOS that raises ACCESS (R155, R346). -/
def PositionRefused (q : Nat) (v : Word) (s : State) : Prop :=
  isGuest s.here.slot = true ∨ v.toNat % 64 ≠ 0 ∨ (myStream s q).kind = .none ∨ (myStream s q).kind = .tap
    ∨ ((myStream s q).wrap = false ∧ (myStream s q).total < v.toNat)

/-- The trap of a privileged register (R412, R417): PRIVILEGE with the word of the MTS, and the register's number. -/
def closedTo (r : Nat) (a : SReg) (s : State) : State := takeTrap (trapOf .privilege (insnWord (.mts r a)) (word r)) s

end Sys2Proof.Spec

/-- MFS completes (R412-R417): once the thread's earlier results are in, d takes the register that the number names; in a guest slot QPOS
raises ACCESS, and in a PURE run TICK, BUDGET, EOLHOURS and LAP raise PURITY. That a number which names no register reads as zero is the
model's own filling: such a word is ILLEGAL (R412, R425), and the decoder refuses it. -/
def Sys2Proof.Spec.SystemReads : Prop :=
  ∀ (d : SReg) (r : Nat) (s : State) (z : Thread), s.cur = some z → z.allRipe s.cycle = true → Room d s →
    (pureClosed r = true → ∀ c, purityForbids s z = some c → exec (.mfs d r) s = .next (takeTrap c s)) ∧
    ((pureClosed r = true → purityForbids s z = none) → 0x030 ≤ r → r ≤ 0x037 → isGuest s.here.slot = true →
      exec (.mfs d r) s = .next (takeTrap accessNoAddr s)) ∧
    ((pureClosed r = true → purityForbids s z = none) → (0x030 ≤ r → r ≤ 0x037 → isGuest s.here.slot = false) →
      ∃ w u, exec (.mfs d r) s = .next (retireV w (writeS d w 1 u)) ∧ u.me = z ∧ u.mem = s.mem ∧ u.tiles = s.tiles
        ∧ u.natives = s.natives ∧
        (r = 0x000 → w = z.status) ∧ (r = 0x001 → w = z.trappc) ∧ (r = 0x002 → w = z.trapcause) ∧ (r = 0x003 → w = z.trapval) ∧
        (r = 0x004 → w = z.trapval2) ∧ (r = 0x005 → w = z.trapvec) ∧ (r = 0x006 → w = z.fpcsr) ∧
        (r = 0x010 → flag w 63 = s.hereTile.sig ∧ (s.here.tile < 3072 → field w 16 12 = s.here.tile)
          ∧ (s.here.tile < 3072 → field w 0 8 = tileX s.here.tile ∧ field w 8 8 = tileY s.here.tile)) ∧
        (r = 0x011 → field w 32 32 = z.key.toNat ∧ (s.here.slot < 6 → field w 0 32 = s.here.slot)) ∧
        (r = 0x014 → w = s.tick) ∧ (r = 0x021 → w = s.hereTile.budgetcfg) ∧ (r = 0x022 → w = z.livemask) ∧
        (r = 0x023 → w = if isGuest s.here.slot then 0 else s.myNative.repstate) ∧
        (0x030 ≤ r → r ≤ 0x037 → w = word (myStream s (r - 0x030)).pos) ∧ (r = 0x040 → w = s.hereTile.gang) ∧
        (r = 0x041 → w = s.hereTile.htab) ∧ (r = 0x044 → w = s.eolhours) ∧
        (r ∉ [0x000, 0x001, 0x002, 0x003, 0x004, 0x005, 0x006, 0x010, 0x011, 0x012, 0x013, 0x014, 0x020, 0x021, 0x022, 0x023, 0x040,
          0x041, 0x042, 0x043, 0x044] → r < 0x030 ∨ 0x037 < r → w = 0))

/-- MTS completes (R237, R260, R412, R417): once the thread's earlier results are in, the writable bits of the register take S[a]'s and
the others keep. TRAPPC to TRAPVEC, BUDGETCFG, REPSTATE, QPOS and GANG are closed to U, STATUS also to S where the value names D; a read-only number is
ignored at D and closed below; a closed one raises PRIVILEGE with TRAPVAL2 the number. GANG refuses ROLE 3, a SLOT above 3 and a chain that
cannot be led (R168, R169), and QPOS a guest slot, an unbound or ring stream, and a position that is no multiple of 64 or past the
end (R346), with ACCESS; QPOS sets its stream's position and discards what is read ahead. SIG keeps the value of an SSIGC of the same cycle
(R408). -/
def Sys2Proof.Spec.SystemWrites : Prop :=
  ∀ (r : Nat) (a : SReg) (s s1 : State) (z : Thread) (v : Word), s.cur = some z → z.allRipe s.cycle = true → readS a s = .go v s1 →
    (r = 0x006 → ∃ u, exec (.mts r a) s = .next (retireV 0 u) ∧ u.me = { z with fpcsr := u.me.fpcsr } ∧ u.mem = s.mem
      ∧ field u.me.fpcsr 3 11 = field v 3 11 ∧ field u.me.fpcsr 0 3 = (if field v 0 3 < 5 then field v 0 3 else field z.fpcsr 0 3)
      ∧ field u.me.fpcsr 14 50 = 0) ∧
    (r = 0x022 → exec (.mts r a) s =
      .next (retireV 0 (s1.upd (fun x => { x with livemask := (v &&& ~~~1) ||| (z.livemask &&& 1) })))) ∧
    (r = 0x010 → exec (.mts r a) s =
      .next (retireV 0 (s1.updHere (fun x => { x with sig := if x.sw.sigAt = s.cycle + 1 then x.sig else flag v 63 })))) ∧
    (r = 0x041 → ∃ u, exec (.mts r a) s = .next (retireV 0 u) ∧ u.me = z ∧ u.mem = s.mem
      ∧ u.hereTile.htab = (v &&& 0x1F0FF801) ||| (s.hereTile.htab &&& ~~~0x1F0FF801)) ∧
    (r = 0x000 → z.pl = 2 ∨ (z.pl = 1 ∧ field v 0 2 ≠ 2 ∧ field v 2 2 ≠ 2) → ∃ u, exec (.mts r a) s = .next (retireV 0 u)
      ∧ u.me = { z with status := u.me.status } ∧ u.mem = s.mem
      ∧ field u.me.status 0 2 = (if field v 0 2 = 3 then field z.status 0 2 else field v 0 2)
      ∧ field u.me.status 2 2 = (if field v 2 2 = 3 then field z.status 2 2 else field v 2 2)
      ∧ flag u.me.status 5 = flag v 5) ∧
    (r = 0x000 → z.pl = 0 ∨ (z.pl = 1 ∧ (field v 0 2 = 2 ∨ field v 2 2 = 2)) → exec (.mts r a) s = .next (closedTo r a s)) ∧
    (z.pl ≠ 0 →
      (r = 0x001 → exec (.mts r a) s = .next (retireV 0 (s1.upd (fun x => { x with trappc := v })))) ∧
      (r = 0x002 → exec (.mts r a) s =
        .next (retireV 0 (s1.upd (fun x => { x with trapcause := (v &&& 0x81FF) ||| (z.trapcause &&& ~~~0x81FF) })))) ∧
      (r = 0x003 → exec (.mts r a) s = .next (retireV 0 (s1.upd (fun x => { x with trapval := v })))) ∧
      (r = 0x004 → exec (.mts r a) s = .next (retireV 0 (s1.upd (fun x => { x with trapval2 := v })))) ∧
      (r = 0x005 → exec (.mts r a) s = .next (retireV 0 (s1.upd (fun x =>
        { x with trapvec := (v &&& 0xFFFFFFFFFFFD) ||| (z.trapvec &&& ~~~0xFFFFFFFFFFFD) })))) ∧
      (r = 0x021 → ∃ u, exec (.mts r a) s = .next (retireV 0 u) ∧ u.me = z ∧ u.mem = s.mem
        ∧ u.hereTile.budgetcfg = (v &&& 0x8FFFFFFFFFFFFFFF) ||| (s.hereTile.budgetcfg &&& ~~~0x8FFFFFFFFFFFFFFF)) ∧
      (r = 0x023 → isGuest s.here.slot = false → ∃ u, exec (.mts r a) s = .next (retireV 0 u) ∧ u.me = z ∧ u.mem = s.mem
        ∧ u.myNative.repstate = (v &&& 0x80FF3F00FFFFFFFF) ||| (s.myNative.repstate &&& ~~~0x80FF3F00FFFFFFFF)) ∧
      (r = 0x040 → GangRefused v s1 → exec (.mts r a) s = .next (takeTrap accessNoAddr s)) ∧
      (r = 0x040 → ¬GangRefused v s1 → ∃ u, exec (.mts r a) s = .next (retireV 0 u) ∧ u.me = z ∧ u.mem = s.mem
        ∧ field u.hereTile.gang 0 2 = field v 0 2 ∧ field u.hereTile.gang 8 4 = field v 8 4 ∧ field u.hereTile.gang 16 3 = field v 16 3
        ∧ flag u.hereTile.gang 19 = (flag s.hereTile.gang 19 && !flag v 19) ∧ field u.hereTile.gang 2 6 = 0
        ∧ field u.hereTile.gang 12 4 = 0 ∧ field u.hereTile.gang 20 44 = 0) ∧
      (∀ q, q < 8 → r = 0x030 + q → PositionRefused q v s → exec (.mts r a) s = .next (takeTrap accessNoAddr s)) ∧
      (∀ q, q < 8 → r = 0x030 + q → ¬PositionRefused q v s → ∃ u, exec (.mts r a) s = .next (retireV 0 u) ∧ u.me = z ∧ u.mem = s.mem
        ∧ (myStream u q).pos = v.toNat ∧ (myStream u q).ahead = [] ∧ ∀ p, p ≠ q → (myStream u p).pos = (myStream s p).pos)) ∧
    (z.pl = 0 → r ∈ [0x001, 0x002, 0x003, 0x004, 0x005, 0x021, 0x023, 0x040] ∨ (0x030 ≤ r ∧ r ≤ 0x037) →
      exec (.mts r a) s = .next (closedTo r a s)) ∧
    (r ∈ [0x011, 0x012, 0x013, 0x014, 0x020, 0x042, 0x043, 0x044] →
      (z.pl = 2 → exec (.mts r a) s = .next (retireV 0 s1)) ∧ (z.pl ≠ 2 → exec (.mts r a) s = .next (closedTo r a s)))

/-- MFS and MTS complete, or raise what the register asks for (R237, R260, R412-R417). A number that names no register, which no word
decodes to (R412, R425), reads as zero: the model's own filling and no rule of the spec. -/
def Obligations.SystemRegisterResults : Prop := Spec.SystemReads ∧ Spec.SystemWrites

/-- TRAP, BRK, ILLEGAL_INSTRUCTION and INSTRUCTION_FETCH_FAULT complete by entering the handler (R263, R265, R279, R298, R418). TRAP and
BRK retire first: TRAPPC is the next instruction, and a flit that TRAP popped stays popped; under BRKHALT a BRK halts the tile
and writes no trap register, and no chain is dissolved. -/
def Obligations.TrapInstructionResults : Prop :=
  (∀ (a : SReg) (s s1 : State) (z : Thread) (v : Word), s.cur = some z → Handles s z → readS a s = .go v s1 →
    ∃ t, exec (.trap a) s = .next t ∧ Entered z 0x13 true (retireV 0 s1).me.pc v 0 s t ∧ t.hereTile.sc = s1.hereTile.sc) ∧
  (∀ (imm : BitVec 15) (s : State) (z : Thread), s.cur = some z →
    (Handles s z → s.hereTile.brkhalt = false →
      ∃ t, exec (.brk imm) s = .next t ∧ Entered z 0x12 true (retireV 0 s).me.pc (imm.setWidth 64) 0 s t) ∧
    (s.hereTile.brkhalt = true →
      ∃ t, exec (.brk imm) s = .next t ∧ t.hereTile.gang = s.hereTile.gang ∧ (t.hereTile.halting = true ∨ t.hereTile.halted = true) ∧ t.me.pc = (retireV 0 s).me.pc
        ∧ t.me.trappc = z.trappc ∧ t.me.trapcause = z.trapcause ∧ t.me.trapval = z.trapval ∧ t.me.trapval2 = z.trapval2
        ∧ t.me.status = z.status ∧ t.me.s = z.s ∧ BytesKept s t)) ∧
  (∀ (w : Word) (s : State) (z : Thread), s.cur = some z → Handles s z →
    ∃ t, exec (.illegalInstruction w) s = .next t ∧ Entered z 0x01 false z.pc w 0 s t) ∧
  (∀ (f : FetchFault) (s : State) (z : Thread), s.cur = some z → Handles s z → f.cause ∈ [0x03, 0x04, 0x05, 0x10, 0x11] →
    ∃ t, exec (.instructionFetchFault f) s = .next t ∧ Entered z f.cause false z.pc f.val f.val2 s t)

/-- LIVE, HOME, WFE, YIELD and HALT complete (R192-R194, R402, R403, R420, R421). LIVE sets LIVEMASK; HOME does nothing on the origin
tile, where migration is barred, or once it is refused, and elsewhere asks the origin tile for a slot and waits; WFE completes
with an event, which it clears, and waits without; YIELD makes way in the next cycle; HALT ends the thread once its stores,
copies and streams are complete. -/
def Obligations.WaitingInstructionResults : Prop :=
  (∀ (remote : Bool) (kmask : BitVec 7) (a : SReg) (s s1 : State) (z : Thread) (v : Word), s.cur = some z → readS a s = .go v s1 →
    ∃ u, exec (.live remote kmask a) s = .next (retireV 0 u) ∧ u.me = { z with livemask := u.me.livemask } ∧ u.mem = s.mem
      ∧ flag u.me.livemask 63 = remote ∧ field u.me.livemask 56 7 = kmask.toNat ∧ field u.me.livemask 1 55 = field v 1 55
      ∧ flag u.me.livemask 0 = false) ∧
  (∀ (s : State) (z : Thread), s.cur = some z →
    (z.origin = s.here.tile ∨ (z.phase ≠ 1 ∧ (staysHere s s.here.tile s.here.slot z = true ∨ z.phase = 2)) →
      exec .home s = .next (retireV 0 s)) ∧
    (z.origin ≠ s.here.tile → z.phase = 1 → exec .home s = .next (waitFor .migrate s)) ∧
    (z.origin ≠ s.here.tile → staysHere s s.here.tile s.here.slot z = false → z.phase = 0 → z.awaited = [] → z.loads = [] →
      z.allRipe s.cycle = true → s.settled s.here.tile z.uid = true → linesBusy s s.here.tile = false →
      ∃ t p, exec .home s = .next t ∧ t.net = s.net ++ [p] ∧ p.dst = .tile z.origin ∧ p.body = .migrate s.who
        ∧ t.me.wait = .migrate ∧ t.me.pc = z.pc ∧ t.me.s = z.s ∧ DataKept z s t)) ∧
  (∀ (s : State) (z : Thread), s.cur = some z →
    (z.ev = true → exec .wfe s = .next (retireV 0 (s.upd (fun x => { x with ev := false })))) ∧
    (z.ev = false → exec .wfe s = .next (waitFor .wfe s)) ∧
    exec .yield s = .next (retireV 0 (s.upd (fun x => { x with yielded := s.cycle + 1 })))) ∧
  (∀ (s : State) (z : Thread), s.cur = some z → owesSeals s = false →
    (s.settled s.here.tile z.uid = true → enginesDone s z = true →
      ∃ u, exec .halt s = .next u ∧ u.cur = none ∧ u.myNative = Native.fresh ∧ BytesKept s u ∧ u.full = s.full) ∧
    (s.settled s.here.tile z.uid = true → enginesDone s z = false → exec .halt s = .next (waitFor .engines s)) ∧
    (s.settled s.here.tile z.uid = false → exec .halt s = .next (waitFor .drain s)))

/-- TLBINV, ICINV and RPACE complete once the thread's earlier stores are performed (R118, R422-R424). TLBINV, at S and D, removes from
the TLBs of the tiles in its scope the entries that map S[a], or all where S[a] is odd; a scope of another package raises
ACCESS. ICINV removes the line of S[a], or every line, from the tile's instruction cache. RPACE, at D, sets the pace, which takes
effect in the next ring cycle, and, with LOAD, starts filling a list that is well formed; that the pace also changes where the LOAD is
refused is the model's choice (log entry 117). Below their level TLBINV and RPACE raise PRIVILEGE. -/
def Obligations.MaintenanceResults : Prop :=
  (∀ (a b : SReg) (s s1 s2 : State) (z : Thread) (v w : Word) (c : Scope), s.cur = some z → z.pl ≠ 0 → readS a s = .go v s1 →
    readS b s1 = .go w s2 → scopeOf s2 s.here.tile w = some c →
    (c.pkg = pkgId s → s.settled s.here.tile z.uid = true →
      ∃ u, exec (.tlbinv a b) s = .next (retireV 0 u) ∧ u.me.s = z.s ∧ DataKept z s u ∧
        ∀ t, (u.tile t).tlb = if c.contains s t then
          (s.tile t).tlb.filter (fun e => !flag v 0 && decide (v.toNat % 2 ^ 48 / 2 ^ levelShift e.1 ≠ e.2.1)) else (s.tile t).tlb) ∧
    (c.pkg ≠ pkgId s → exec (.tlbinv a b) s = .next (takeTrap (trapOf .access w 0) s)) ∧
    (c.pkg = pkgId s → s.settled s.here.tile z.uid = false → exec (.tlbinv a b) s = .next (waitFor .drain s))) ∧
  (∀ (a b : SReg) (s : State) (z : Thread), s.cur = some z →
    (z.pl = 0 → exec (.tlbinv a b) s = .next (takeTrap (trapOf .privilege (insnWord (.tlbinv a b)) 0) s)) ∧
    (z.pl < 2 → exec (.rpace a) s = .next (takeTrap (trapOf .privilege (insnWord (.rpace a)) 0) s))) ∧
  (∀ (a : SReg) (s s1 : State) (z : Thread) (v : Word), s.cur = some z → readS a s = .go v s1 →
    (s.settled s.here.tile z.uid = true →
      ∃ u, exec (.icinv a) s = .next (retireV 0 u) ∧ u.me.s = z.s ∧ DataKept z s u ∧
        u.hereTile.icache = s.hereTile.icache.filter (fun e => !flag v 0 && decide (e.1 / 16 ≠ v.toNat / 64))) ∧
    (s.settled s.here.tile z.uid = false → exec (.icinv a) s = .next (waitFor .drain s)) ∧
    (z.pl = 2 → s.settled s.here.tile z.uid = true →
      ∃ u, exec (.rpace a) s = .next (retireV 0 u) ∧ u.me.s = z.s ∧ u.me.v = z.v ∧ u.me.k = z.k
        ∧ u.ring.pace = some (flag v 0, flag v 1) ∧ u.ring.slowen = s.ring.slowen ∧ u.ring.ghosten = s.ring.ghosten
        ∧ u.ring.step = s.ring.step ∧ u.ring.beats = s.ring.beats ∧
        (flag v 3 = false → u.ring.filling = s.ring.filling ∧ BytesKept s u) ∧
        (∀ x, flag v 3 = true →
          readShelf (foldShelf (field v 12 40 * 4096) (setPace v s1)) (field v 12 40 * 4096) = some x → u.ring.filling = some x)) ∧
    (∀ c n, 0 < n → (ringAdvance c n (setPace v s1)).ring.slowen = flag v 0 ∧ (ringAdvance c n (setPace v s1)).ring.ghosten = flag v 1) ∧
    (z.pl = 2 → s.settled s.here.tile z.uid = false → exec (.rpace a) s = .next (waitFor .drain s)))

/-! The switch (R79, R165-R167, R296, R405-R409). -/

namespace Sys2Proof.Spec

/-- The switch's PC, counters and memory outside an instruction's effect. -/
def SwitchKept (w y : Switch) : Prop := y.mem = w.mem ∧ y.halted = w.halted ∧ y.blocked = w.blocked

/-- A plane's output in a direction has sent the flit its select names into the neighbour's input buffer (R166), behind those usable by
then: usable one cycle later, four across a die edge; without a select the neighbour's buffer keeps. -/
def Sent {α : Type} (get : Tile → Bufs α) (s u : State) (t v : Nat) (p : Plane) (d : Dir) (x : Sels) : Prop :=
  (get (u.tile v)).inp (dirOpp d) =
    (match dirFlit (get (s.tile t)) s.cycle d (dirSel x p d) with
    | some f => ((get (s.tile v)).inp (dirOpp d)).push (s.cycle + (if (edgeModule t v).isSome then 4 else 1)) f.val f.bad
    | none => (get (s.tile v)).inp (dirOpp d))

/-- A tile's own buffers after a word (R166): each input or COUT that a select names has lost its head, the core's CIN has the flit its
select names, the others keep. -/
def Popped {α : Type} (get : Tile → Bufs α) (s u : State) (t : Nat) (p : Plane) (i : Dir) (x : Sels) : Prop :=
  ((get (u.tile t)).inp i).flits =
    (if usesInp x p i then ((get (s.tile t)).inp i).flits.tail else ((get (s.tile t)).inp i).flits)
  ∧ ((get (u.tile t)).cout i).flits =
    (if dirSel x p i = .cout then ((get (s.tile t)).cout i).flits.tail else ((get (s.tile t)).cout i).flits)
  ∧ (get (u.tile t)).cin i =
    (if coreSel x p = .inp i then
      (match ((get (s.tile t)).inp i).head s.cycle with
      | some f => ((get (s.tile t)).cin i).push (s.cycle + 1) f.val f.bad
      | none => (get (s.tile t)).cin i)
     else (get (s.tile t)).cin i)

/-- The moves of a word done (R166): on each plane every selected flit has gone to its neighbour or core, and each source popped once. -/
def Moved (s u : State) (t : Nat) (x : Sels) : Prop :=
  (∀ i, Popped (fun y => y.sc) s u t .scalar i x ∧ Popped (fun y => y.ve) s u t .vector i x) ∧
  (∀ d v, linkTile s t d = some v → Sent (fun y => y.sc) s u t v .scalar d x ∧ Sent (fun y => y.ve) s u t v .vector d x)

end Sys2Proof.Spec

/-- SNOP, SJMP, SCNT, SWAITC, SSIGC, SHALT and SWITCH_ILLEGAL_WORD complete (R79, R405, R406, R408, R409): the PC goes to the next word
modulo 2048, or to the target; SCNT sets its counter; SWAITC goes on where SIG is its value and blocks elsewhere; SSIGC sets SIG
and posts an event at every slot; SHALT and an illegal word stop the switch where it stands, and an illegal word fails a running node
with BLOCKED, naming the lowest of its tiles that block in this cycle and their count. -/
def Sys2Proof.Spec.SwitchControl : Prop :=
  ∀ (s : State) (w : Switch), s.part.populated s.here.tile = true → s.hereTile.sw = w →
    (exec .snop s = .next (swGo ((w.pc + 1) % 2048) s)) ∧
    (∀ n, exec (.sjmp n) s = .next (swGo n s)) ∧
    (∀ c (imm : BitVec 16), c < 4 →
      ∃ u, exec (.scnt c imm) s = .next u ∧ u.hereTile.sw.pc = (w.pc + 1) % 2048
        ∧ (∀ k, k < 4 → u.hereTile.sw.counter k = if k = c then imm else w.counter k) ∧ SwitchKept w u.hereTile.sw) ∧
    (∀ v, s.hereTile.sig = v → exec (.swaitc v) s = .next (swGo ((w.pc + 1) % 2048) s)) ∧
    (∀ v, s.hereTile.sig ≠ v →
      ∃ u, exec (.swaitc v) s = .next u ∧ u.hereTile.sw.pc = w.pc ∧ u.hereTile.sw.waiting = true ∧ u.hereTile.sig = s.hereTile.sig
        ∧ SwitchKept w u.hereTile.sw) ∧
    (∀ v, ∃ u, exec (.ssigc v) s = .next u ∧ u.hereTile.sig = v ∧ u.hereTile.sw.sigAt = s.cycle + 1 ∧ u.hereTile.sw.pc = (w.pc + 1) % 2048
      ∧ (∀ k x, k < 6 → s.thread s.here.tile k = some x → u.thread s.here.tile k = some { x with ev := true })) ∧
    (∃ u, exec .shalt s = .next u ∧ u.hereTile.sw.pc = w.pc ∧ u.hereTile.sw.halted = true ∧ u.hereTile.sw.mem = w.mem) ∧
    (∀ v, s.hereTile.node = none →
      ∃ u, exec (.switchIllegalWord v) s = .next u ∧ u.hereTile.sw.blocked = true ∧ u.hereTile.sw.pc = w.pc) ∧
    (∀ v a r n, s.hereTile.node = some a → regionOf s s.here.tile = some r → s.node a = some n → n.state = .running →
      ∀ bad, bad = r.tiles.filter (fun z => decide (z = s.here.tile) || (s.tile z).sw.blocked || blocksNow s z) →
        exec (.switchIllegalWord v) s = .next ((s.updHere (fun y => { y with sw := { y.sw with blocked := true } })).failNode a
          (bad.foldl min s.here.tile) bad.length codeBlocked .failed))

/-- ROUTE and ROUTEC complete (R166, R167, R407): once every source has a flit and every destination room, all moves are made at once;
ROUTEC also counts its counter down and goes to its target while it is not zero. Until then nothing moves, and the PC and the
counter keep. -/
def Sys2Proof.Spec.SwitchRoutes : Prop :=
  ∀ (x : Sels) (s : State) (w : Switch), s.part.populated s.here.tile = true → s.hereTile.sw = w →
    (routeWaits s s.here.tile x = [] →
      (∃ u, exec (.route x) s = .next u ∧ Moved s u s.here.tile x ∧ u.hereTile.sw.pc = (w.pc + 1) % 2048
        ∧ (∀ k, u.hereTile.sw.counter k = w.counter k) ∧ SwitchKept w u.hereTile.sw ∧ u.mem = s.mem) ∧
      (∀ c n, c < 4 → ∃ u, exec (.routec c n x) s = .next u ∧ Moved s u s.here.tile x
        ∧ (∀ k, k < 4 → u.hereTile.sw.counter k = if k = c then w.counter c - 1 else w.counter k)
        ∧ u.hereTile.sw.pc = (if w.counter c - 1 = 0 then (w.pc + 1) % 2048 else n) ∧ SwitchKept w u.hereTile.sw ∧ u.mem = s.mem)) ∧
    (routeWaits s s.here.tile x ≠ [] →
      ∀ c n, ∃ u, exec (.route x) s = .next u ∧ exec (.routec c n x) s = .next u
        ∧ u = s.updHere (fun y => { y with sw := { y.sw with waiting := true, since := u.hereTile.sw.since } }))

/-- Every word of the switch completes (R166, R405-R409). -/
def Obligations.SwitchResults : Prop := Spec.SwitchControl ∧ Spec.SwitchRoutes

/-! Boot, the host's attachment, power and links (R20-R50, R159, R172-R175, R200, R269, R276-R278). -/

namespace Sys2Proof.Spec

/-- An event sent or queued for the host (R43): with fewer than 16 unacknowledged and none queued it is sent at once, to EVDEST, in a frame
with its port's tag (R36). -/
def Reported (code : Nat) (s u : State) : Prop :=
  s.ep.unacked.length < 16 → s.ep.queued = [] → ∃ e v, u.ep.unacked = s.ep.unacked ++ [e] ∧ e.event = true ∧ e.addr = word code
    ∧ v.port = eventPort u ∧ v.vid = portVid u v.port ∧ u.ep.sent = s.ep.sent ++ [{ e with dest := eventDest s, via := v }]

/-- A frame with a request of a kind (R36-R38), none of whose session waits for the answer of a MSG (R41). -/
def Comes (kind : Nat) (f : Frame) (m : HostMsg) (s : State) : Prop :=
  heard s f = .message m ∧ m.resp = false ∧ m.kind = kind ∧ s.ep.msgs.any (fun e => decide (e.1 = m.session.toNat)) = false

/-- Such a frame whose session performs no span either. -/
def Asks (kind : Nat) (f : Frame) (m : HostMsg) (s : State) : Prop := Comes kind f m s ∧ spanOf s m.session.toNat = none

/-- The session that a request names, once SYNC has been seen to (R40): EXPECT is SEQ after it, and nothing is cached; a new session takes
a free place of the 64, or that of the session idle longest, if for 10 s. -/
def Opened (m : HostMsg) (s s' : State) (x : Session) : Prop :=
  sessionOf s' m.session.toNat = some x ∧
    ((m.sync = false ∧ s' = s) ∨
     (m.sync = true ∧ x.expect = m.seq ∧ x.cache = [] ∧
       (((sessionOf s m.session.toNat).isSome = true ∧ s' = syncSession m s) ∨
        (sessionOf s m.session.toNat = none ∧ ∃ z, sessionRoom s = some z ∧ s' = syncSession m z))))

/-- A response with a status sent by the port of the request to where it came from (R36, R38, R40). -/
def Answered (m : HostMsg) (status : Nat) (payload : List Byte) (s u : State) : Prop :=
  u.ep.sent = s.ep.sent ++ [⟨viaPort s m.port, m.peer, false, m.kind, m.session.toNat, m.seq.toNat, status, m.addr, 0, payload⟩]

/-- The words of a span begun, from `v` on (R41): where the turn comes to all of them the request is answered, POISON where a word read is
poisoned; else the span is kept for a later turn, and nothing is answered. -/
def SpanDone (x : HostSpan) (v u : State) : Prop :=
  ∀ y w, spanWords x.msg (v.piece x.todo.length) x.got x.todo v = (y, w) → u.mem = w.mem ∧ u.tiles = w.tiles ∧ u.mpts = w.mpts ∧
    (y.todo ≠ [] → u.ep.sent = w.ep.sent ∧ u.ep.spans = w.ep.spans ++ [y]) ∧
    (y.todo = [] → y.got.any (fun e => e.2) = false → Answered x.msg 0 (y.got.flatMap (fun e => leBytes 8 e.1.toNat)) w u) ∧
    (y.todo = [] → y.got.any (fun e => e.2) = true → Answered x.msg 6 [] w u)

/-- The frame's events: FRAME_DROP, MWRITE, MREAD, MSG and EVENT_ACK. -/
def frameEvents (f : Frame) : List Instr := [.frameDrop f.port f, .mwrite f, .mread f, .msg f, .eventAck f]

/-- The host protocol's header and payload as bytes (R38). -/
def datagramOf (kind : Nat) (resp sync : Bool) (session seq status : Nat) (addr aux : Word) (payload : List Byte) : List Byte :=
  [0x4E, 0x5A, 0x01] ++ leBytes 1 (kind + 8 * bit resp + 16 * bit sync) ++ leBytes 2 session ++ leBytes 2 payload.length ++ leBytes 4 seq
    ++ leBytes 2 status ++ [0x00, 0x00] ++ leBytes 8 addr.toNat ++ leBytes 8 aux.toNat ++ payload

end Sys2Proof.Spec

/-- RESET, SELF_TEST_DONE, BOOTCTL_GO, IMAGE_VERIFY_COMPLETE, FIRMWARE_STARTED, ATTCTL_GO and ATTEST_COMPLETE complete (R15, R47, R50): the
boot state goes from self-test to Awaiting, or Failed with FAILCODE 1 where a die has more than two defective columns, those of its
fuses among them (log entry 90), to Verifying on GO, to Starting or Failed by the image, whose key's digest is the fused one and whose
SLH-DSA signature verifies where it passes, and to Running; GO of ATTCTL latches the nonce and sets BUSY, and the report's end clears it, counts the
generation and sends an event. What RESET keeps (the part, the agenda and the model's own counters) is the model's choice (log
entry 26). -/
def Obligations.BootResults : Prop :=
  (∀ (s : State), ∃ u, exec .reset s = .next u ∧ u.ep = Endpoint.fresh ∧ u.mem = [] ∧ u.threads = [] ∧ u.tiles = [] ∧ u.nodes = []
    ∧ u.regions = [] ∧ u.net = [] ∧ u.arrived = [] ∧ u.ring = State.reset.ring ∧ u.power = State.reset.power ∧ u.part = s.part
    ∧ u.fuses = s.fuses) ∧
  (∀ (ds : List (List Nat)) (hbm : Bool) (s : State), s.ep.boot = .selfTest →
    ∃ u, exec (.selfTestDone ds hbm) s = .next u ∧ u.tick = 0 ∧ u.ep.portsUp = true ∧
      ((∀ d, d < s.part.dies → dieFails s ds d = false) → u.ep.boot = .awaiting ∧ u.ep.failcode = 0
        ∧ u.ep.spares = (List.range s.part.dies).map (defectColumns s ds)) ∧
      (∀ d, d < s.part.dies → dieFails s ds d = true → u.ep.boot = .failed ∧ u.ep.failcode = 1)) ∧
  (∀ (ds : List (List Nat)) (s : State) (d : Nat), dieFails s ds d = true ↔ 2 < (defectColumns s ds d).length) ∧
  (∀ (i : Sparse Byte), imageFault i = 0 → shake256 32 (Config.imageKey i) = Config.keyDigest
    ∧ slhVerify (Config.imageKey i) (Config.imageBody i) (Config.imageSignature i) = true
    ∧ Config.minimumSvn.toNat ≤ (Config.imageSvn i).toNat) ∧
  (∀ (s : State), s.ep.boot = .awaiting ∨ (s.ep.boot = .failed ∧ s.ep.failcode ≠ 1) →
    ∃ u, exec .bootctlGo s = .next u ∧ u.ep.boot = .verifying ∧ u.ep.image = stagedImage s) ∧
  (∀ (s : State), s.ep.boot ≠ .awaiting → s.ep.boot ≠ .failed ∨ s.ep.failcode = 1 → exec .bootctlGo s = .next s) ∧
  (∀ (s : State), s.ep.boot = .verifying →
    ∃ u, exec .imageVerifyComplete s = .next u ∧
      (imageFault s.ep.image = 0 → u.ep.boot = .starting ∧ u.ep.meas = shake256 32 (imageBytes s.ep.image)
        ∧ u.ep.svn = Config.imageSvn s.ep.image ∧ u.ep.fwver = Config.imageFwver s.ep.image) ∧
      (imageFault s.ep.image ≠ 0 → u.ep.boot = .failed ∧ u.ep.failcode = imageFault s.ep.image)) ∧
  (∀ (s : State), s.ep.boot = .starting → ∃ u, exec .firmwareStarted s = .next u ∧ u.ep.boot = .running) ∧
  (∀ (s : State), s.ep.busy = false →
    ∃ u, exec .attctlGo s = .next u ∧ u.ep.busy = true ∧ u.ep.nonce = (List.range 32).map (fun i => sparseGet 0 s.ep.attnonce i)) ∧
  (∀ (s : State), s.ep.busy = true →
    ∃ u r, exec .attestComplete s = .next u ∧ u.ep.busy = false ∧ u.ep.repgen = s.ep.repgen + 1 ∧ r.length = 32
      ∧ u.ep.report = reportBody s ++ slhPublic identityKey ++ slhSign identityKey r (reportBody s)
      ∧ (reportBody s).length = 256 ∧ u.ep.report.length = 30112 ∧ Reported 5 s u)

/-- Frames and ports (R36-R38, R45). A frame that reaches an open port but fails its FCS, lacks MACsec protection under SECREQ or fails its
ICV, carries another VLAN ID, is for none of the port's addresses, is a fragment, or whose datagram has a bad header or LENGTH, does
nothing but count in DROPFCS, DROPSEC or DROPHDR; a closed port ignores all. -/
def Sys2Proof.Spec.HostFrames : Prop :=
  (∀ (f : Frame) (i : Instr) (s : State) (c : Carried), i ∈ frameEvents f → c = frameCarried (frameData s f) →
    (portOpen s f.port = false → exec i s = .next s) ∧
    (portOpen s f.port = true → fcsOk f = false →
      exec i s = .next { s with ep := { s.ep with dropfcs := dropUp s.ep.dropfcs f.port } }) ∧
    (portOpen s f.port = true → fcsOk f = true → flag s.ep.epctl 3 = true → secureFrame s f = false →
      exec i s = .next { s with ep := { s.ep with dropsec := dropUp s.ep.dropsec f.port } }) ∧
    (portOpen s f.port = true → fcsOk f = true → (flag s.ep.epctl 3 = true → secureFrame s f = true) →
      (∃ v, v ∈ c.tags ∧ v ≠ 0 ∧ v.toNat ≠ portVid s f.port) ∨ (c.ipv6 = true ∧ portAddress s f.port c.dst = false)
        ∨ (c.ipv6 = true ∧ c.fragment = true) ∨ (unsupported s f.octets.length c = false ∧ parseDatagram f.port c = none) →
      exec i s = .next { s with ep := { s.ep with drophdr := dropUp s.ep.drophdr f.port } })) ∧
  (∀ (port : Nat) (s : State), portOpen s port = true →
    (∀ addr, portAddress s port addr = true → ∃ u, exec (.neighbourSolicitation port addr) s = .next u
      ∧ u.ep.adverts = s.ep.adverts ++ [(viaPort s port, addr)]) ∧
    (∃ u, exec (.hostPortLinkDown port) s = .next u ∧ sparseGet true u.ep.linkUp port = false ∧ Reported 4 s u)) ∧
  (∀ (port : Nat) (s : State), ∃ u, exec (.hostPortLinkUp port) s = .next u ∧ sparseGet true u.ep.linkUp port = true)

/-- What a frame carries reads back (R36, R38): the datagram of every header and payload; UDP over IPv6 behind a VLAN's tag or none, whatever
pads the frame; and secure data that was protected under a key, opened under the same key with the sender's SSCI for a packet number
(what R36 does not give of MACsec: log entry 118). -/
def Sys2Proof.Spec.FramesReadBack : Prop :=
  (∀ (port : Nat) (c : Carried) (kind session seq status : Nat) (resp sync : Bool) (addr aux : Word) (payload : List Byte),
    1 ≤ kind → kind ≤ 4 → session < 65536 → seq < 2 ^ 32 → status < 65536 → payload.length < 65536 →
    c.datagram = datagramOf kind resp sync session seq status addr aux payload →
    ∃ m, parseDatagram port c = some m ∧ m.kind = kind ∧ m.resp = resp ∧ m.sync = sync ∧ m.session.toNat = session ∧ m.seq.toNat = seq
      ∧ m.addr = addr ∧ m.aux = aux ∧ m.payload = payload ∧ m.port = port ∧ m.peer = (c.src, c.udp.elim 0 (fun u => u.1))) ∧
  (∀ (src dst : BitVec 128) (sport dport : BitVec 16) (hops : Byte) (b pad : List Byte) (vid : BitVec 12), b.length < 65528 →
    frameCarried ([0x86, 0xDD] ++ udpOctets src dst sport dport hops b ++ pad)
      = ⟨[], true, src, dst, false, false, some (sport, dport), b⟩ ∧
    frameCarried ([0x81, 0x00] ++ beBytes 2 vid.toNat ++ [0x86, 0xDD] ++ udpOctets src dst sport dport hops b ++ pad)
      = ⟨[vid], true, src, dst, false, false, some (sport, dport), b⟩) ∧
  (∀ (k : SecKey) (pn : Nat) (macs sci data : List Byte), sci.length = 8 →
    ∃ t b, readSecTag (sealSecure k pn macs sci data) = some (t, b) ∧ t.pn = BitVec.ofNat 32 pn
      ∧ openSecure { k with rxSsci := k.txSsci } pn macs t (secParts t b).1 (secParts t b).2 = (data, true))

/-- The host's requests complete (R38-R42). MWRITE and MREAD in order in their session, or that restart it with SYNC, write and read their
words one after another, as many as the turn comes to and no module that is down holds (R20, R210), and answer 0 with the last, or POISON;
or they answer the status of R39 and do nothing; MSG sends a task to its die's service tile. A request of a session that
is not known answers NOSESS; one out of order has its cached response sent again, or is dropped and counted; one of a session whose
span is under way takes that span further, or waits. -/
def Sys2Proof.Spec.HostRequests : Prop :=
  (∀ (m : HostMsg) (n : Nat) (got : List (Word × Bool)) (pa : Nat) (v : Word) (es : List (Nat × Word)) (s : State),
    spanWords m n got [] s = (⟨m, [], got⟩, s) ∧ spanWords m 0 got es s = (⟨m, es, got⟩, s) ∧
    (wordHeld s m.port pa = true → spanWords m n got ((pa, v) :: es) s = (⟨m, (pa, v) :: es, got⟩, s)) ∧
    (wordHeld s m.port pa = false → m.kind = 1 → spanWords m (n + 1) got ((pa, v) :: es) s = spanWords m n got es (hostPut s pa v)) ∧
    (wordHeld s m.port pa = false → m.kind = 2 →
      spanWords m (n + 1) got ((pa, v) :: es) s = spanWords m n (got ++ [(hostGet s pa).1]) es (hostGet s pa).2)) ∧
  (∀ (f : Frame) (m : HostMsg) (s s' : State) (x : Session), Opened m (countHeard f s) s' x → m.seq = x.expect →
    (Asks 1 f m s → hostStatus s m.addr m.payload.length = 0 → ∃ u, exec (.mwrite f) s = .next u ∧
      SpanDone ⟨m, (payloadWords m.payload).zipIdx.map (fun e => (m.addr.toNat + 8 * e.2, e.1)), []⟩
        (updSession s' m.session.toNat (fun y => { y with last := s.ring.cycle })) u) ∧
    (Asks 1 f m s → hostStatus s m.addr m.payload.length ≠ 0 → ∃ u, exec (.mwrite f) s = .next u ∧ u.mem = s.mem ∧ u.mpts = s.mpts
      ∧ Answered m (hostStatus s m.addr m.payload.length) [] s u) ∧
    (Asks 2 f m s → hostStatus s m.addr m.aux.toNat ≠ 0 → ∃ u, exec (.mread f) s = .next u ∧ u.mem = s.mem
      ∧ Answered m (hostStatus s m.addr m.aux.toNat) [] s u) ∧
    (Asks 2 f m s → hostStatus s m.addr m.aux.toNat = 0 → ∃ u, exec (.mread f) s = .next u ∧
      SpanDone ⟨m, (hostWords m.addr m.aux.toNat).map (fun pa => (pa, 0)), []⟩
        (updSession s' m.session.toNat (fun y => { y with last := s.ring.cycle })) u) ∧
    (Asks 3 f m s → m.payload.length ≠ 8 → m.payload.length ≠ 16 → ∃ u, exec (.msg f) s = .next u ∧ u.net = s.net
      ∧ Answered m 3 [] s u) ∧
    (Asks 3 f m s → m.payload.length = 8 ∨ m.payload.length = 16 → s.ep.boot = .running → field m.addr 0 2 < s.part.dies →
      field m.addr 2 6 = 0 → flag m.addr 15 = false → field m.addr 18 46 = 0 →
      ∃ u p k, exec (.msg f) s = .next u ∧ u.net = s.net ++ [p] ∧ p.body = .task k ∧ p.dst = .tile (tileAt k.dx k.dy)
        ∧ k.dx = tileX (serviceTile (field m.addr 0 2)) ∧ k.dy = tileY (serviceTile (field m.addr 0 2)) ∧ k.label = field m.addr 8 7
        ∧ k.prio = field m.addr 16 2 ∧ k.host = some (m.session.toNat, m.seq.toNat) ∧ u.ep.sent = s.ep.sent)) ∧
  (∀ (f : Frame) (m : HostMsg) (s : State), sessionOf s m.session.toNat = none → m.sync = false ∨ sessionRoom s = none →
    (Asks 1 f m s → ∃ u, exec (.mwrite f) s = .next u ∧ Answered m 7 [] s u ∧ u.mem = s.mem) ∧
    (Asks 2 f m s → ∃ u, exec (.mread f) s = .next u ∧ Answered m 7 [] s u ∧ u.mem = s.mem) ∧
    (Asks 3 f m s → ∃ u, exec (.msg f) s = .next u ∧ Answered m 7 [] s u ∧ u.net = s.net)) ∧
  (∀ (k : Nat) (f : Frame) (m : HostMsg) (s : State) (x : Session) (i : Instr), Asks k f m s → m.sync = false →
    sessionOf s m.session.toNat = some x → m.seq ≠ x.expect → (k, i) ∈ [(1, Instr.mwrite f), (2, .mread f), (3, .msg f)] →
    (∀ r, 1 ≤ (x.expect - m.seq).toNat → (x.expect - m.seq).toNat ≤ 16 →
      x.cache.find? (fun r => decide (r.seq = m.seq.toNat)) = some r →
      ∃ u, exec i s = .next u ∧ u.ep.sent = s.ep.sent ++ [{ r with dest := m.peer, via := viaPort s m.port }] ∧ u.mem = s.mem
        ∧ u.net = s.net) ∧
    ((x.expect - m.seq).toNat = 0 ∨ 16 < (x.expect - m.seq).toNat ∨ x.cache.find? (fun r => decide (r.seq = m.seq.toNat)) = none →
      ∃ u, exec i s = .next u ∧ u.ep.sent = s.ep.sent ∧ u.mem = s.mem ∧ u.net = s.net
        ∧ u.ep.drophdr = dropUp s.ep.drophdr m.port)) ∧
  (∀ (k : Nat) (f : Frame) (m : HostMsg) (s : State) (x : HostSpan) (i : Instr), Comes k f m s → spanOf s m.session.toNat = some x →
    (k, i) ∈ [(1, Instr.mwrite f), (2, .mread f), (3, .msg f)] →
    (x.msg.kind = k → x.msg.seq = m.seq → ∃ u, exec i s = .next u ∧ SpanDone x (dropSpan m.session.toNat (countHeard f s)) u) ∧
    (x.msg.kind ≠ k ∨ x.msg.seq ≠ m.seq → exec i s = .next (countHeard f s)))

/-- The registers and the events of the endpoint complete (R43, R44, R200, R269): the clearing reads return and clear their counters, a
write to a register acts, after the loads that a store of their thread has passed (log entry 97), a carve that is refused sets REJ alone,
EVENT_ACK removes an event, and EVENT_RETRANSMIT sends those
unacknowledged again to where EVDEST says. -/
def Sys2Proof.Spec.EndpointRegisters : Prop :=
  (∀ (s : State),
    (∃ u, exec .dropfcsRead s = .next u ∧ u.ep.readback = dropWord s.ep.dropfcs ∧ u.ep.dropfcs = []) ∧
    (∃ u, exec .dropsecRead s = .next u ∧ u.ep.readback = dropWord s.ep.dropsec ∧ u.ep.dropsec = []) ∧
    (∃ u, exec .drophdrRead s = .next u ∧ u.ep.readback = dropWord s.ep.drophdr ∧ u.ep.drophdr = []) ∧
    (∃ u, exec .evlostRead s = .next u ∧ u.ep.readback = word s.ep.evlost ∧ u.ep.evlost = 0) ∧
    (∀ die, ∃ u, exec (.mclostRead die) s = .next u ∧ u.ep.readback = word (sparseGet 0 s.mclost die)
      ∧ sparseGet 0 u.mclost die = 0)) ∧
  (∀ (a : Nat) (v : Word) (s : State) (o m : Nat),
    (paKind s (a / 8 * 8) = .endpoint o → exec (.endpointRegWrite a v) s = .next (epWrite s o v)) ∧
    (paKind s (a / 8 * 8) = .config m o →
      exec (.endpointRegWrite a v) s = .next (configWrite (serveSure (fun _ => true) s) m o v)) ∧
    (∀ w, w = serveSure (fun _ => true) s → m < s.part.mpts →
      (carveRefused w m v = false → ∃ u, exec (.carveWrite m v) s = .next u ∧ field (u.mpt m).carve 0 20 = field v 0 20) ∧
      (carveRefused w m v = true → ∃ u, exec (.carveWrite m v) s = .next u ∧ flag (u.mpt m).carve 63 = true
        ∧ field (u.mpt m).carve 0 63 = field (w.mpt m).carve 0 63))) ∧
  (∀ (g : Packet → Bool) (s : State), s.traffic.any (fun p => p.sure s) = false → serveSure g s = s) ∧
  (∀ (f : Frame) (m : HostMsg) (s : State), heard s f = .message m → m.resp = true → m.kind = 4 → m.session = 0xFFFF → s.ep.queued = [] →
    ∃ u, exec (.eventAck f) s = .next u ∧ u.ep.unacked = s.ep.unacked.filter (fun e => decide (e.seq ≠ m.seq.toNat))) ∧
  (∀ (s : State), s.ep.resentAt + ringMillisecond ≤ s.ring.cycle →
    ∃ u vs, exec .eventRetransmit s = .next u ∧ u.ep.resentAt = s.ring.cycle ∧ vs.length = s.ep.unacked.length
      ∧ (∀ v ∈ vs, v.port = eventPort s ∧ v.vid = portVid s v.port)
      ∧ u.ep.sent = s.ep.sent ++ (s.ep.unacked.zip vs).map (fun e => { e.1 with dest := eventDest s, via := e.2 }))

/-- The host's requests, its frames and the endpoint's registers and events complete (R36-R45, R200, R269). -/
def Obligations.HostResults : Prop := Spec.HostFrames ∧ Spec.FramesReadBack ∧ Spec.HostRequests ∧ Spec.EndpointRegisters

namespace Sys2Proof.Spec

/-- A machine check has been raised: its event is counted for the host, and a task of class TSK goes to the service tile of each die
(R43, R269). -/
def Checked (s u : State) : Prop :=
  s.net.length + s.part.dies = u.net.length ∧ (s.ep.unacked.length < 16 → s.ep.queued = [] → u.ep.sent.length = s.ep.sent.length + 1)

/-- The tick brought to a reference time (R46): stepped forward at the first lock or joining, slewed otherwise, at a rate within 100 ppm. -/
def Disciplined (first : Bool) (time : Word) (s u : State) : Prop :=
  (-100000 ≤ u.ptp.rate ∧ u.ptp.rate ≤ 100000) ∧
  (first = true → 0 ≤ (time - s.tick).toInt → u.tick = time ∧ u.ptp.slew = 0) ∧
  (first = false ∨ (time - s.tick).toInt < 0 → u.tick = s.tick ∧ u.ptp.slew = (time - s.tick).toInt)

/-- A copy whose link has failed (R383, R384): LINK, where no earlier code of the table stands. -/
def linked (id : Nat) (c : Copy) : Copy := if c.id = id then { c with code := if 0 < c.code ∧ c.code < 5 then c.code else 5 } else c

end Sys2Proof.Spec

/-- Power, clocks and links complete (R20-R32, R46): a sample at 110 degrees trips the package, and any other sets the throttle step; a
current of 6600 A enters step 3 at once; wear gives EOLDIE and EOLHOURS (of dies that share the minimum EOLHOURS names the lowest-numbered,
the model's choice of log entry 116); a PTP message of a grandmaster no worse than its port's locks the port, of two grandmasters one is the
better, and on the port that is followed the message steps the tick forward at the first lock and otherwise sets the difference to slew, as does a link-up to the package that steers; failed replays are counted, and at the limit of 8
or 16 the module or port goes down; retraining and link-up clear that. -/
def Obligations.PowerAndLinkResults : Prop :=
  (∀ (x : PowerSample) (s : State),
    (1100 ≤ x.tj → ∃ u e, exec (.throttleSample x) s = .next u ∧ u.power.tripped = true ∧ u.ep.sent = s.ep.sent ++ [e]
      ∧ e.event = true ∧ e.addr = word 3 ∧ e.dest = eventDest s) ∧
    (x.tj < 1100 → ∃ u, exec (.throttleSample x) s = .next u ∧ u.power.tripped = s.power.tripped ∧ u.ep = s.ep ∧
      (1050 ≤ x.tj ∨ 6600 ≤ x.current → u.power.step = 3) ∧
      (x.tj < 1050 → x.current < 6600 → s.power.step = 0 → u.power.step = if 950 ≤ x.tj ∨ 100 ≤ (powerHeld s x).aboveCap then 1 else 0) ∧
      (x.tj < 1050 → x.current < 6600 → s.power.step = 1 →
        u.power.step = if 1000 ≤ x.tj ∨ 10000 ≤ (powerHeld s x).inStep1 then 2
          else if x.tj < 920 ∧ 1000 ≤ (powerHeld s x).below95 then 0 else 1) ∧
      (x.tj < 1050 → x.current < 6600 → s.power.step = 2 →
        u.power.step = if x.tj < 970 ∧ 1000 ≤ (powerHeld s x).below90 then 1 else 2) ∧
      (x.tj < 1050 → x.current < 6600 → 3 ≤ s.power.step →
        u.power.step = if x.tj < 1020 ∧ 1000 ≤ (powerHeld s x).lowCurrent then 2 else 3))) ∧
  (∀ (amps : Nat) (s : State), 6600 ≤ amps → ∃ u, exec (.currentExcursion amps) s = .next u ∧ u.power.step = 3) ∧
  (∀ (ds : List (Nat × Nat)) (s : State), ds.length ≤ s.part.dies →
    ∃ u, exec (.eolRecompute ds) s = .next u ∧ (∀ i d, ds[i]? = some d → sparseGet 0 u.ep.eoldie i = eolWord i d) ∧
      (∀ x, eolLeast 0 ds = some x → u.eolhours = eolWord x.1 x.2)) ∧
  (∀ a b : Grandmaster, a.identity ≠ b.identity → betterMaster a b = !betterMaster b a) ∧
  (∀ (port : Nat) (g : Grandmaster) (time : Word) (s : State), keepsMaster s port g = true → exec (.ptpMessage port time g) s = .next s) ∧
  (∀ (port : Nat) (g : Grandmaster) (time : Word) (s l : State), ptpEnabled s = true → portOpen s port = true →
    keepsMaster s port g = false → l = { s with ptp := { s.ptp with locked := sparseSet none s.ptp.locked port (some g) } } →
    ∃ u, exec (.ptpMessage port time g) s = .next u ∧ sparseGet none u.ptp.locked port = some g ∧
      (ptpPort l = some port → u.ptp.everLocked = true ∧ (steering l = pkgId l → Disciplined (!s.ptp.everLocked) time s u)) ∧
      (ptpPort l ≠ some port ∨ steering l ≠ pkgId l → u.tick = s.tick ∧ u.ptp.slew = s.ptp.slew ∧ u.ptp.rate = s.ptp.rate)) ∧
  (∀ (port : Nat) (s : State), ∃ u, exec (.ptpLockLost port) s = .next u ∧ sparseGet none u.ptp.locked port = none ∧ u.tick = s.tick
    ∧ u.ptp.rate = s.ptp.rate ∧ u.ptp.slew = s.ptp.slew) ∧
  (∀ (x : Nat) (s : State), s.part.bare = false → x < 176 → x ∉ s.links.moduleDown →
    (s.here.item = 0 → ∃ u, exec (.ucieCrcReplay x) s = .next u ∧ sparseGet 0 u.links.moduleRetry x = 0
      ∧ u.links.moduleDown = s.links.moduleDown) ∧
    (s.here.item ≠ 0 → sparseGet 0 s.links.moduleRetry x + 1 < 8 →
      ∃ u, exec (.ucieCrcReplay x) s = .next u ∧ sparseGet 0 u.links.moduleRetry x = sparseGet 0 s.links.moduleRetry x + 1
        ∧ u.links.moduleDown = s.links.moduleDown) ∧
    (s.here.item ≠ 0 → 8 ≤ sparseGet 0 s.links.moduleRetry x + 1 →
      ∃ u, exec (.ucieCrcReplay x) s = .next u ∧ x ∈ u.links.moduleDown)) ∧
  (∀ (x : Nat) (s : State), x ∈ s.links.moduleDown →
    ∃ u, exec (.ucieRetrainComplete x) s = .next u ∧ x ∉ u.links.moduleDown ∧ sparseGet 0 u.links.moduleRetry x = 0) ∧
  (∀ (x : Nat) (s : State), hasFlaster s x = true → x ∉ s.links.portDown →
    (s.here.item ≠ 0 → sparseGet 0 s.links.portRetry x + 1 < 16 →
      ∃ u, exec (.flasterCrcReplay x) s = .next u ∧ sparseGet 0 u.links.portRetry x = sparseGet 0 s.links.portRetry x + 1
        ∧ u.links.portDown = s.links.portDown) ∧
    (s.here.item ≠ 0 → 16 ≤ sparseGet 0 s.links.portRetry x + 1 →
      ∃ u, exec (.flasterCrcReplay x) s = .next u ∧ x ∈ u.links.portDown)) ∧
  (∀ (x pkg : Nat) (tick : Word) (s : State), hasFlaster s x = true → pkg < 256 →
    ∃ u, exec (.flasterLinkUp x pkg tick) s = .next u ∧ x ∉ u.links.portDown ∧ sparseGet 0 u.links.portRetry x = 0 ∧
      (pkg ≠ pkgId s → pkg ∈ u.links.domain ∧ ∀ l, l = { s with links := u.links } →
        (steering l = pkg → u.ptp.joined = true ∧ Disciplined (!s.ptp.joined && !s.ptp.everLocked) tick s u) ∧
        (steering l ≠ pkg → u.tick = s.tick ∧ u.ptp = s.ptp)))

/-- Packets complete (R20, R25, R33, R150, R172-R175, R383): a packet is delivered once none of its class, source and destination is before it,
the writes it answers are acknowledged, its crossing is up and its destination takes it; an error in it counts a retry up to 8; a lost bulk packet of a copy ends the copy with
status LINK, unless a code before it in the table's order stands, and raises a machine check; a packet of another package is held before a
module that is down, and otherwise performed at this one and answered. Routers sleep after 4096 idle cycles and wake, which restarts their
count; those without a tile never sleep. A patrolled word that cannot be corrected, of memory, of SHELF or of ARCH, is poisoned, with a machine
check. -/
def Obligations.PacketResults : Prop :=
  (∀ (s : State) (p : Packet), s.inFlight s.here.item = some p →
    (p.notBefore ≤ s.cycle → behind p s.net = false → s.unacked.any (fun z => p.after.contains z.id) = false → downModule s p = none →
      refused s p = false →
      ∃ u, exec .packetDeliver s = .next u ∧ u.net = s.net.filter (fun q => decide (q.id ≠ p.id)) ∧ u.arrived = s.arrived ++ [p]
        ∧ u.mem = s.mem) ∧
    (s.cycle < p.notBefore ∨ behind p s.net = true ∨ s.unacked.any (fun z => p.after.contains z.id) = true →
      exec .packetDeliver s = .next s) ∧
    (∀ m, p.notBefore ≤ s.cycle → behind p s.net = false → s.unacked.any (fun z => p.after.contains z.id) = false →
      downModule s p = some m →
      exec .packetDeliver s = .next (match pendingOf p.body with
        | some w => takeReply w.1 w.2.1 w.2.2 (.link (linkVal2 m)) s
        | none => s)) ∧
    (p.cls ≠ .bulk → p.cls ≠ .side → p.retries < 8 →
      ∃ u, exec .dynamicCrcRetry s = .next u ∧ u.mem = s.mem ∧ u.arrived = s.arrived
        ∧ u.net = s.net.map (fun q => if q.id = p.id then { q with retries := q.retries + 1 } else q)) ∧
    (∀ c, p.cls = .bulk → p.body = .copy c →
      exec .bulkCrcDiscard s = .next ((giveStatus c.who c.tok (statusWord 5 false 0) (s.unsend p.id)).machineCheckAll 6 (routerIndex p.dst) 0)) ∧
    (∀ e, p.cls = .bulk → p.body = .stream e →
      exec .bulkCrcDiscard s = .next ((giveStatus e.who e.tok (statusWord 5 false 0) (s.unsend p.id)).machineCheckAll 6 (routerIndex p.dst) 0)) ∧
    (∀ id words begun, p.cls = .bulk → p.body = .push id words begun →
      ∃ u, exec .bulkCrcDiscard s = .next u ∧ u.mem = s.mem ∧ u.copies = s.copies.map (Spec.linked id)
        ∧ ∀ q, q ∈ u.net ++ u.arrived → q.copyWords id = false)) ∧
  (∀ (net : RouterNet) (r : Nat) (s : State),
    (r < 3072 → s.part.passes r = true → exec (.routerPowerDown net r) s = .next s) ∧
    (sparseGet 0 s.links.routerIdle (routerKey (decide (net = .bulk)) r) + 4096 ≤ s.cycle → (r < 3072 → s.part.passes r = false) →
      ∃ u, exec (.routerPowerDown net r) s = .next u ∧ routerKey (decide (net = .bulk)) r ∈ u.links.asleep ∧ u.net = s.net) ∧
    (∃ u, exec (.routerWake net r) s = .next u ∧ routerKey (decide (net = .bulk)) r ∉ u.links.asleep ∧ u.net = s.net ∧
      (∀ k, sparseGet 0 u.links.routerIdle k = if k = routerKey (decide (net = .bulk)) r then s.cycle else sparseGet 0 s.links.routerIdle k) ∧
      exec (.routerPowerDown net r) u = .next u)) ∧
  (∀ (port : Nat) (p : FlasterPkt) (s : State), flasterHeld s port p = true → exec (.flasterPacketArrive port p) s = .next s) ∧
  (∀ (port pa src tag : Nat) (ws : List Word) (s : State), hasFlaster s port = true → port ∉ s.links.portDown →
    (flasterHeld s port (.store pa ws src tag) = false → ∃ u p, exec (.flasterPacketArrive port (.store pa ws src tag)) s = .next u ∧ u.net = (flasterStore pa ws s).net ++ [p]
      ∧ p.dst = .outside ∧ p.body = .remoteReply src tag 0 ∧ u.mem = (flasterStore pa ws s).mem) ∧
    (∀ n v t, flasterHeld s port (.load pa n src tag) = false → flasterPerform pa (.load n) s = (v, t) →
      ∃ u p, exec (.flasterPacketArrive port (.load pa n src tag)) s = .next u ∧ u.net = t.net ++ [p] ∧ p.dst = .outside
        ∧ p.body = .remoteReply src tag v) ∧
    (∀ op w32 y v t, flasterHeld s port (.atomic op w32 pa y src tag) = false → flasterPerform pa (.amo op w32 y false) s = (v, t) →
      ∃ u p, exec (.flasterPacketArrive port (.atomic op w32 pa y src tag)) s = .next u ∧ u.net = t.net ++ [p]
        ∧ p.body = .remoteReply src tag v) ∧
    (∀ id v, flasterHeld s port (.ack id v) = false → ∃ u, exec (.flasterPacketArrive port (.ack id v)) s = .next u ∧ u.mem = s.mem ∧
      u.copies = s.copies.map (fun c => if c.id = id then
        { c with code := if c.code = 0 then field v 56 8 else if field v 56 8 = 0 then c.code else min c.code (field v 56 8),
                 bytes := c.bytes + field v 0 48, poisoned := c.poisoned || flag v 55 } else c)) ∧
    (∀ id, flasterHeld s port (.linkFail id) = false → ∃ u, exec (.flasterPacketArrive port (.linkFail id)) s = .next u ∧ u.mem = s.mem
      ∧ u.copies = s.copies.map (Spec.linked id)) ∧
    (∀ op w32 v, flasterHeld s port (.reduction op w32 pa v none) = false →
      exec (.flasterPacketArrive port (.reduction op w32 pa v none)) s = .next (flasterPerform pa (.red op w32 v false) s).2) ∧
    (∀ data base words, flasterHeld s port (.copy pa data 0 src tag base words) = false →
      (List.range words).all (fun i => flasterOpen s (base + 8 * i)) = true → base ≤ pa → pa + 8 * data.length ≤ base + 8 * words →
      ∃ u p, exec (.flasterPacketArrive port (.copy pa data 0 src tag base words)) s = .next u
        ∧ u.net = (data.zipIdx.foldl (fun s e => putCopied (pa + 8 * e.2) e.1 s) s).net ++ [p] ∧ p.dst = .outside
        ∧ p.body = .remoteReply src tag (statusWord 0 false (8 * data.length)))) ∧
  (∀ (m pa k : Nat) (w : Word) (b : Bool) (s : State), scrubWord s m pa = some (k, w) → s.isPoisoned k 1 = false →
    b = true ∨ s.latent.contains (k / 8) = true →
    ∃ u, exec (.patrolScrub m pa b) s = .next u ∧ u.isPoisoned k 1 = true ∧ u.mem = (s.beforePoison k).mem ∧ Checked (s.beforePoison k) u) ∧
  (∀ (m pa k : Nat) (s : State), pa < 2 ^ 52 → paKey s pa = some k → homeMpt s pa = m → scrubWord s m pa = some (k, word (pa / 8 * 8))) ∧
  (∀ (m o : Nat) (s : State), m < s.part.mpts → o < carveBytes (s.mpt m).carve 4 → scrubWord s m (2 ^ 52 + o) = some (areaKey .shelf m o, 0)) ∧
  (∀ (m o : Nat) (s : State), m < s.part.mpts → o < carveBytes (s.mpt m).carve 8 →
    scrubWord s m (2 ^ 52 + carveBytes (s.mpt m).carve 4 + o) = some (areaKey .arch m o, 0))

/-- Tile events complete (R159, R169, R276-R278): a refill at a multiple of 1024 cycles from the placement gives every thread of the region
its FILL of the BUDGETCFG that is then in effect, no lean cycle counted, and an event; a chain member takes the leader's next instruction when it is due; a debug halt begins, completes with no access
under way, steps, and ends; DBGREG reads an item of a halted thread into DBGDATA, or writes it. -/
def Obligations.TileEventResults : Prop :=
  (∀ (s : State) (r : RegionRec) (t k : Nat) (x : Thread), s.region s.here.item = some r → r.on = true → r.base < s.cycle →
    (s.cycle - r.base) % 1024 = 0 → t ∈ r.tiles → k < 6 → s.thread t k = some x →
    ∃ u, exec .budgetRefill s = .next u ∧ (u.tile t).fills = (s.tile t).budgetcfg
      ∧ u.thread t k = some { x with left := fillOf (s.tile t).budgetcfg k, lean := 0, ev := true }) ∧
  (∀ (s : State) (g : GangOp) (gs : List GangOp), s.hereTile.gangQ = g :: gs → s.hereTile.gangNow = none → g.due ≤ s.cycle →
    ∃ u, exec .gangChainIssue s = .next u ∧ u.hereTile.gangQ = gs ∧ u.hereTile.gangNow = some g) ∧
  (∀ (s : State), s.hereTile.halted = false → ∃ u, exec .debugHalt s = .next u ∧ u.hereTile.halting = true ∧ u.threads = s.threads) ∧
  (∀ (s : State), s.hereTile.halting = true → (liveThreads s s.here.tile).all (fun e => !awaitsReply s e.2) = true →
    ∃ u, exec .debugHaltComplete s = .next u ∧ u.hereTile.halted = true ∧ u.hereTile.halting = false ∧ BytesKept s u) ∧
  (∀ (s : State), s.hereTile.halted = true →
    (∃ u, exec .debugResume s = .next u ∧ u.hereTile.halted = false ∧ u.hereTile.halting = false) ∧
    (∃ u, exec .debugStep s = .next u
      ∧ u.hereTile.stepOnce = some (if s.hereTile.dbgsel < 6 then s.hereTile.dbgsel else 0)) ∧
    (∃ u, exec .debugSstep s = .next u ∧ u.hereTile.sstep = true) ∧
    (∀ sel k x n, field sel 56 3 = k → k < 6 → s.thread s.here.tile k = some x → field sel 0 16 = n → n < 28 → n ≠ 0 →
      (∃ u, exec (.debugRegRead sel) s = .next u ∧ u.hereTile.dbgdata = sparseGet 0 x.s n ∧ u.threads = s.threads) ∧
      (∃ u y, exec (.debugRegWrite sel) s = .next u ∧ u.thread s.here.tile k = some y
        ∧ ∀ m, sparseGet 0 y.s m = if m = n then s.hereTile.dbgdata else sparseGet 0 x.s m)) ∧
    (∀ sel k x, field sel 56 3 = k → k < 6 → s.thread s.here.tile k = some x → field sel 0 16 = 0x400 →
      (∃ u, exec (.debugRegRead sel) s = .next u ∧ u.hereTile.dbgdata = x.pc) ∧
      (∃ u, exec (.debugRegWrite sel) s = .next u ∧ u.thread s.here.tile k = some { x with pc := s.hereTile.dbgdata })))

/-! Events of memory, engines, tasks and regions. Each acts on the item that the state names; where it is not due it changes nothing. -/

namespace Sys2Proof.Spec

/-- The event acts on an arrived packet, the first of its class, source and destination (R172). -/
def Here (s : State) (p : Packet) : Prop := s.packet s.here.item = some p ∧ behind p s.arrived = false

/-- The state without the packet that an event takes. -/
def lessPacket (s : State) (p : Packet) : State := s.dropPacket p.id

/-- What a memory operation answers, and the state it leaves, at a word's home MPT (R104, R211, R224): its charge is counted, and ordered
atomics of the cell are judged again after a write. -/
def performed (s : State) (w : Who) (a : Nat) (op : MemOp) : Res × State :=
  let r := (s.chargeAccess w op).performPa w a op
  (r.1, ordAfter r.2 a op)

/-- What comes before a write that reached its MPT (R214): the loads of its thread from before it trap no more, nor any load where the write
changes a configuration window. -/
def beforeWrite (s : State) (w : Who) (tok a : Nat) (op : MemOp) : State :=
  let s := if op.writes then passLoads w tok s else s
  if op.writes && isConfig s a then serveSure (fun _ => true) s else s

/-- A copy's word at a place: the state before it is written where it is poisoned (R35). -/
def beforeWord (s : State) (b : Bool) (k : Nat) : State := if b then s.beforePoison k else s

end Sys2Proof.Spec

/-- The packets of memory accesses complete (R104, R188, R196, R211, R222-R225, R358, R375, R377, R150, R162, R163). MPT_ACCESS performs its
operation at the word's home and, unless it is posted, sends the reply, but a write whose thread has an earlier load that may still trap
stands aside until it may not; a load that meets no poison and no REDs replies with the
bytes that stand there. MPT_RED performs once a slot is free; SEAL_MARKER seals the tile's slots, and drops the tile's CACHE lines over them; MPT_AMOORD judges its number;
REMOTE_ACCESS_REQUEST performs at the owning bank; LOAD_REPLY and REMOTE_ACCESS_REPLY give the value to the waiting instruction;
AMOORD_RESEND sends a refused request again; ARRIVAL_COUNT counts 8 bytes; AWAIT_COMPLETE ends a wait, with LINK where a module that is down stands before the word; ARCHIVE_INVALIDATE frees every
entry whose FILTER matches the chunk, which includes all whose key holds it; run-ahead goes on in a copy of its
thread, and its prefetches leave every value as they are (log entry 21). -/
def Obligations.MemoryEventResults : Prop :=
  (∀ (s l : State) (p : Packet) (w : Who) (tok idx a m : Nat) (op : MemOp), Here s p → p.body = .access w tok idx a op → p.dst = .mpt m →
    l = beforeWrite (lessPacket s p) w tok a op → behindHeld (lessPacket s p) w p.id a = false →
    (∀ o n y det, op ≠ .amoord o n y det) → (∀ o w32 y det, op ≠ .red o w32 y det) →
    (op.writes = true → loadsHarmless (lessPacket s p) w tok = false → exec .mptAccess s =
      .next (if p.cls = .side then s else
        { lessPacket s p with arrived := (lessPacket s p).arrived ++ [{ p with cls := .side }] })) ∧
    (op.posted = false → (op.writes = true → loadsHarmless (lessPacket s p) w tok = true) →
      ∃ u q, exec .mptAccess s = .next u ∧ u.net = (performed l w a op).2.net ++ [q] ∧ q.cls = .rsp ∧ q.dst = .tile w.tile
        ∧ q.body = .reply w tok idx (performed l w a op).1 ∧ u.mem = (performed l w a op).2.mem) ∧
    (op.posted = true → (op.writes = true → loadsHarmless (lessPacket s p) w tok = true) →
      exec .mptAccess s = .next (performed l w a op).2) ∧
    (∀ n k, op = .load n → paKey s a = some k → s.isPoisoned k 1 = false → (s.mpt (homeMpt s a)).reds = [] →
      ∃ u q, exec .mptAccess s = .next u ∧ q ∈ u.net ∧ q.dst = .tile w.tile ∧ q.body = .reply w tok idx (.ok (word (s.getNat k n)))
        ∧ BytesKept s u)) ∧
  (∀ (s : State) (p : Packet) (w : Who) (tok idx a m : Nat) (op : MemOp), Here s p → p.body = .access w tok idx a op → p.dst = .mpt m →
    (behindHeld (lessPacket s p) w p.id a = true → exec .mptAccess s = .next s) ∧
    (∀ o w32 y det, op = .red o w32 y det → redBlocked (lessPacket s p) w a op = false →
      exec .mptRed s = .next (performed (lessPacket s p) w a op).2) ∧
    (∀ o n y det, op = .amoord o n y det → (paKey s a).isSome = true ∨ isConfig s a = true →
      exec .mptAmoord s = .next (ordArrive ((lessPacket s p).chargeAccess w op) ⟨w, tok, a, o, n, y, det⟩)) ∧
    (∀ o n y det, op = .amoord o n y det → paKey s a = none → isConfig s a = false →
      ∃ u q, exec .mptAmoord s = .next u ∧ u.net = (lessPacket s p).net ++ [q] ∧ q.dst = .tile w.tile ∧ q.body = .reply w tok 0 .access
        ∧ u.mem = s.mem) ∧
    (op = .prefetch → exec .runAheadPrefetch s = .next (lessPacket s p))) ∧
  (∀ (s : State) (p : Packet) (w : Who) (m : Nat), Here s p → p.body = .sealed w → p.dst = .mpt m →
    ∃ u, exec .sealMarker s = .next u ∧ BytesKept s u ∧ (u.mpt m).reds =
      (s.mpt m).reds.map (fun r => if r.tile = w.tile ∧ r.rid = w.rid then { r with isSealed := true } else r) ∧
      (∀ r i, r ∈ (s.mpt m).reds → r.tile = w.tile → r.rid = w.rid → r.addr / 64 = i → lineGet (u.tile w.tile) (64 * i) = none)) ∧
  (∀ (s : State) (p : Packet) (w : Who) (tok idx a t : Nat) (op : MemOp), Here s p → p.body = .access w tok idx a op → p.dst = .tile t →
    samePlacement s t w = true → w.tile ≠ t →
    (op.writes = true → justEmptied s t a = true → exec .remoteAccessRequest s = .next s) ∧
    ((op.writes = true → justEmptied s t a = false) →
    (∀ r u', (lessPacket s p).performSram w tok t a op = (some r, u') →
      ∃ u q, exec .remoteAccessRequest s = .next u ∧ u.net = u'.net ++ [q] ∧ q.dst = .tile w.tile ∧ q.body = .reply w tok idx r
        ∧ u.mem = u'.mem) ∧
    (∀ u', (lessPacket s p).performSram w tok t a op = (none, u') → exec .remoteAccessRequest s = .next u'))) ∧
  (∀ (s : State) (p : Packet) (w : Who) (tok idx : Nat) (r : Res) (z : Thread) (q : Pend), Here s p → p.body = .reply w tok idx r →
    s.thread w.tile w.slot = some z → z.uid = w.uid → z.pend = some q → q.tok = tok →
    (∀ m, p.src = .mpt m → exec .loadReply s =
      .next (finishPend w.tile w.slot (((lessPacket s p).setAhead w.tile w.slot none).replyHere w tok idx r))) ∧
    (∀ t, p.src = .tile t → exec .remoteAccessReply s =
      .next (finishPend w.tile w.slot (((lessPacket s p).setAhead w.tile w.slot none).replyHere w tok idx r))) ∧
    (∀ m v, p.src = .mpt m → r = .ok v → 1 < q.left → q.bad = none →
      ∃ u, exec .loadReply s = .next u ∧ BytesKept s u ∧
        u.thread w.tile w.slot = some { z with pend := some { q with left := q.left - 1, got := q.got ++ [(idx, v)] } })) ∧
  (∀ (s : State) (p : Packet) (w : Who) (tok idx m : Nat) (v : Word) (z : Thread) (l : LoadOut), Here s p → p.src = .mpt m →
    p.body = .reply w tok idx (.ok v) → s.thread w.tile w.slot = some z → z.uid = w.uid → z.pend = none → z.loads = [l] → l.pend.tok = tok →
    l.pend.left = 1 → l.pend.bad = none →
    ∃ u, exec .loadReply s = .next u ∧ BytesKept s u ∧
      u.thread w.tile w.slot = some (z.landed { l.pend with left := 0, got := l.pend.got ++ [(idx, v)] } s.cycle)) ∧
  (∀ (s : State) (z : Thread) (q : Pend) (pa c : Nat) (op : OrdOp) (n y : Word) (det : Bool), s.cur = some z →
    z.pend = some q → q.again = some (pa, .amoord op n y det) → q.resendAt = some c → c ≤ s.cycle →
    ∃ u p, exec .amoordResend s = .next u ∧ u.net = s.net ++ [p] ∧ p.dst = .mpt (homeMpt s pa)
      ∧ p.body = .access s.who q.tok 0 pa (.amoord op n y det) ∧ BytesKept s u) ∧
  (∀ (s : State) (p : Packet) (id aw n : Nat), Here s p → p.body = .count id aw n → n ≤ 8 →
    (engineLives s id = false → exec .arrivalCount s = .next (lessPacket s p)) ∧
    (∀ u', engineLives s id = true → countWord (lessPacket s p) aw = some u' → exec .arrivalCount s = .next u') ∧
    (engineLives s id = true → countWord (lessPacket s p) aw = none →
      exec .arrivalCount s = .next (markPoisoned id (detectArrival aw (lessPacket s p))))) ∧
  (∀ (s : State) (z : Thread) (q : Pend) (v : Nat × Pend), s.cur = some z → z.wait = .await → z.pend = some q →
    awaitVerdict (awaitFold s q) q = some v →
    (crossDown (awaitFold s q) (.mpt (homeMpt (awaitFold s q) v.1)) (.tile s.here.tile) = none →
      exec .awaitComplete s = .next (awaitDone s.here.tile s.here.slot v.1 v.2 (awaitFold s q))) ∧
    (∀ x, crossDown (awaitFold s q) (.mpt (homeMpt (awaitFold s q) v.1)) (.tile s.here.tile) = some x → exec .awaitComplete s =
      .next (awaitDone s.here.tile s.here.slot v.1 { q with bad := some (0, .link (linkVal2 x)) } s))) ∧
  (∀ (s : State) (z : Thread) (q : Pend), s.cur = some z → z.wait = .await → z.pend = some q → awaitVerdict (awaitFold s q) q = none →
    exec .awaitComplete s = .next (awaitFold s q)) ∧
  (∀ (s : State) (p : Packet) (c id b : Nat), Here s p → p.body = .invalidate c id → p.dst = .mpt b →
    ∃ u, exec .archiveInvalidate s = .next u ∧ BytesKept s u ∧ (u.mpt b).entries = (s.mpt b).entries.filter (fun e => !e.covers c)) ∧
  (∀ (e : Entry) (n len a : Nat), (n, len) ∈ e.chunks → a / 4096 = n → a % 4096 < len → e.covers a = true) ∧
  (∀ (s : State) (z : Thread), s.cur = some z → z.wait = .global → s.aheadOf s.here.tile s.here.slot = none →
    (∃ q, z.pend = some q ∧ q.dest.loads = true) ∨ (z.pend = none ∧ z.loads ≠ []) →
    runAheadOn s s.here.tile = true → chainOf s s.here.tile s.here.slot = [] → haltActive s s.here.tile = false →
    ∃ u a, exec .runAheadBegin s = .next u ∧ u.aheadOf s.here.tile s.here.slot = some a ∧ u.threads = s.threads ∧ u.natives = s.natives
      ∧ BytesKept s u)

/-- The events of the copy engines complete (R33, R60, R382-R384). COPY_BEGIN ends a malformed request with status 1 and writes no byte; one whose
checks pass is begun; one that a module which is down keeps from being checked stays where it is. Its words are then read and written one by
one: a word of a piece is written at its place, unless it is a full SA word, and the packets of a tile never interleave (R174). Ranges
that overlap are malformed, whatever else their checks find. COPY_COMPLETE gives the status once the copy's writes are acknowledged. -/
def Sys2Proof.Spec.CopyEvents : Prop :=
  (∀ (s l : State) (p : Packet) (c : Copy) (m : Nat), Here s p → l = lessPacket s p → p.body = .copy c → p.dst = .mpt m →
    (copyBad l c.who.tile c.req = true → exec .copyBegin s = .next (giveStatus c.who c.tok (statusWord 1 false 0) l)
      ∧ BytesKept s (giveStatus c.who c.tok (statusWord 1 false 0) l)) ∧
    (∀ u, copyBad l c.who.tile c.req = false → copyRemote c.req = false → beginLocal c l = some u → exec .copyBegin s = .next u) ∧
    (∀ u, copyBad l c.who.tile c.req = false → copyRemote c.req = true → beginRemote c l = some u → exec .copyBegin s = .next u) ∧
    (copyBad l c.who.tile c.req = false → (if copyRemote c.req then beginRemote c l else beginLocal c l) = none →
      exec .copyBegin s = .next s) ∧
    (copyBad l c.who.tile c.req = false → copyRemote c.req = false → copyMcast c.req = false →
      vaOverlap c.who.tile (copySrc c.req) (copyDst c.req) (copyLen c.req / 8) = true → s.links.moduleDown = [] →
      ∃ b v, exec .copyBegin s = .next (giveStatus c.who c.tok (statusWord 1 b 0) v) ∧ v.copies = s.copies) ∧
    (∀ r d w, copyBad l c.who.tile c.req = false → copyRemote c.req = false → copyMcast c.req = false →
      spanFrom c.who (.mpt c.engine) c.root c.pl 8 .read (copyLen c.req / 8) (copySrc c.req) l = r → (oneMemory r.1).bad = [] →
      spanFrom c.who (.mpt c.engine) c.root c.pl 8 .write (copyLen c.req / 8) (copyDst c.req) r.2 = d → (oneMemory d.1).bad = [] →
      copyOverlaps c d.2 = false →
      engineArrival (.mpt c.engine) c.root c.pl (copyAw c.req) d.2 = .ok w →
      ∃ u, exec .copyBegin s = .next u
        ∧ u.copies = w.2.copies ++ [{ c with begun := true, counts := (w.1.map (fun pa => (pa, 0))).toList }])) ∧
  (∀ (s : State) (p : Packet) (id : Nat) (words : List (Target × List Target)) (got : List (Word × Bool × List Target)),
    Here s p → p.body = .pull id words got → exec .copyBegin s = .next (pullWord p id words got (lessPacket s p))) ∧
  (∀ (s : State) (p : Packet) (id : Nat) (g : Target) (v : Word) (b : Bool) (rest : List (Target × Word × Bool)) (c : Copy),
    Here s p → (∃ begun, p.body = .push id ((g, v, b) :: rest) begun) → s.copies.find? (fun x => decide (x.id = id)) = some c →
    pushHeld p (lessPacket s p) = false →
    ∃ u, exec .copyBegin s = .next u ∧
      (∀ t off, g = .sram t off → saFull s t off = false → (s.tile t).fewait = [] →
        u.getNat (sramKey t off) 8 = v.toNat ∧ BytesKeptBut (sramKey t off) 8 s u) ∧
      (∀ t off, g = .sram t off → saFull s t off = true → BytesKept s u) ∧
      (∀ pa nol1 k m, g = .glob pa nol1 → paKey s pa = some k → beforeWord (lessPacket s p) b k = m → (m.mpt (homeMpt m pa)).ord = [] →
        u.getNat k 8 = v.toNat ∧ (b = true → u.isPoisoned k 8 = true))) ∧
  (∀ (s : State) (p q : Packet) (id i t : Nat) (words ws : List (Target × Word × Bool)) (b : Bool), Here s p → p.body = .push id words b →
    p.dst = .tile t → q ∈ (lessPacket s p).arrived → q.dst = .tile t → q.body = .push i ws true → exec .copyBegin s = .next s) ∧
  (∀ (s : State) (c : Copy), s.copies.find? (fun x => decide (x.id = s.here.item)) = some c → c.begun = true →
    engineDone s c.id c.who = true →
    exec .copyComplete s = .next (giveStatus c.who c.tok (statusWord c.code c.poisoned c.bytes)
      (c.counts.foldl (fun s e => poolUse s e.1 false) { s with copies := s.copies.filter (fun x => decide (x.id ≠ c.id)) })))

/-- The events of the stream generators at edge ports complete (R20, R210, R385-R387). STREAM_BIND leaves a request that a STRB holds at its
generator, ends a malformed one with status 1, and binds one whose checks pass where the port is free; a loader's flit takes the bytes at its
position into the edge port's input once its words are all read, and a storer's leaves the generator once its words are all written, unless a
module on the way is down; STREAM_END gives the status. -/
def Sys2Proof.Spec.StreamEvents : Prop :=
  (∀ (s l : State) (p : Packet) (e : EdgeStream) (m : Nat), Here s p → l = lessPacket s p → p.body = .stream e → p.dst = .mpt m →
    (streamHeld l e = true → exec .streamBind s = .next (if p.cls = .side then s else
      { l with arrived := l.arrived ++ [{ p with cls := .side }] })) ∧
    (streamHeld l e = false → edgeBad l e.who.tile e.req = true →
      exec .streamBind s = .next (giveStatus e.who e.tok (statusWord 1 false 0) l)) ∧
    (∀ u, streamHeld l e = false → edgeBad l e.who.tile e.req = false → bindStream e l = some u → exec .streamBind s = .next u) ∧
    (streamHeld l e = false → edgeBad l e.who.tile e.req = false → bindStream e l = none → exec .streamBind s = .next s) ∧
    (∀ r w b, streamHeld l e = false → edgeBad l e.who.tile e.req = false → patternSpan e (e.pat.total / 64) 0 l = r → r.1.bad = [] →
      engineArrival (.mpt e.mpt) e.root e.pl e.aw r.2 = .ok (w, b) → portBusy b e = false →
      ∃ u, exec .streamBind s = .next u ∧ u.edges = b.edges ++ [{ e with bound := true, aw := word (w.getD 0), lines := r.1.targets, movedAt := b.cycle }])) ∧
  (∀ (s : State) (e : EdgeStream) (n : Nat), hereStream s = some e → streamMoves s e = true → flitHeld s e e.place = false →
    (e.store = false → inputRoom s e = true → e.got.length + n = e.flitBytes / 8 → s.words = 0 ∨ n ≤ s.words →
      ∃ u x, exec .streamLoaderFlit s = .next u ∧ x ∈ u.edges ∧ x.id = e.id ∧ x.pat.pos = e.pat.pos + e.flitBytes
        ∧ x.total = e.total + e.flitBytes
        ∧ (e.vector = false → ((u.tile e.tile).sc.inp e.side).flits.length = ((s.tile e.tile).sc.inp e.side).flits.length + 1)
        ∧ (e.vector = true → ((u.tile e.tile).ve.inp e.side).flits.length = ((s.tile e.tile).ve.inp e.side).flits.length + 1)) ∧
    (e.store = false → inputRoom s e = true → e.got.length + n = e.flitBytes / 8 → 0 < s.words → s.words < n →
      ∃ u x, exec .streamLoaderFlit s = .next u ∧ x ∈ u.edges ∧ x.id = e.id ∧ x.pat = e.pat ∧ x.got.length = e.got.length + s.words
        ∧ (u.tile e.tile).sc = (s.tile e.tile).sc ∧ (u.tile e.tile).ve = (s.tile e.tile).ve) ∧
    (e.store = true → ∀ f fs r, e.flits = f :: fs → n = min (e.flitBytes / 8 - e.put) (s.piece (e.flitBytes / 8 - e.put)) →
      writeFlit e e.place f.1 f.2 n e.put s = r → exec .streamStorerFlit s = .next (
        let u := r.2.setEdge (e.stored f fs n r.1 r.2.cycle)
        if e.aw = 0 ∨ r.1 = 0 then u
        else u.send .bulk (.mpt e.mpt) (.mpt (homeMpt u e.aw.toNat)) (.count e.id e.aw.toNat (8 * r.1)))) ∧
    (e.store = true → e.vector = false → e.put = 0 → ∀ f fs pa nol1 k, e.flits = f :: fs → f.2 = false → e.place = .glob pa nol1 →
      paKey s pa = some k → (s.mpt (homeMpt s pa)).ord = [] →
      ∃ u, exec .streamStorerFlit s = .next u ∧ u.getNat k 8 = f.1.toNat % 2 ^ 64)) ∧
  (∀ (e : EdgeStream) (f : Vec × Bool) (fs : List (Vec × Bool)) (n done now : Nat) (x : EdgeStream), x = e.stored f fs n done now →
    x.id = e.id ∧ x.total = e.total + 8 * done ∧ (done < n → e.code = 0 → x.code = 7) ∧ (done = n ∨ e.code ≠ 0 → x.code = e.code) ∧
    (e.put + n < e.flitBytes / 8 → x.pat = e.pat ∧ x.flits = e.flits ∧ x.put = e.put + n) ∧
    (e.flitBytes / 8 ≤ e.put + n → x.pat.pos = e.pat.pos + e.flitBytes ∧ x.flits = fs ∧ x.put = 0)) ∧
  (∀ (s : State) (e : EdgeStream), hereStream s = some e → e.pat.pos = e.pat.total ∨ (0 < e.code ∧ e.code ≤ 5) →
    engineDone s e.id e.who = true →
    exec .streamEnd s = .next (giveStatus e.who e.tok (statusWord e.code e.poisoned e.total)
      (unquiet e.tile (poolUse { s with edges := s.edges.filter (fun x => decide (x.id ≠ e.id)) } e.aw.toNat false))))

/-- The lookahead of read streams (R343, R344): STREAM_LOOKAHEAD_FILL adds bytes to what is fetched ahead, the line at its end first where 4 KiB
have room for it and T is not passed, and leaves the position; a cluster's block goes to every stream of its members that has
requested it, once each member has, up to a line that faults. -/
def Sys2Proof.Spec.LookaheadEvents : Prop :=
  (∀ (q n : Nat) (s : State) (z : Thread) (x : Stream), s.cur = some z → isGuest s.here.slot = false → myStream s q = x → x.write = false →
    x.kind ≠ .none → x.kind ≠ .tap → x.members = 0 →
    ∃ u bs, exec (.streamLookaheadFill q n) s = .next u ∧ (myStream u q).pos = x.pos ∧ (myStream u q).ahead = x.ahead ++ bs
      ∧ (x.kind = .tileLocal → BytesKept s u)
      ∧ (4096 < x.ahead.length - x.taken + 64 ∨ x.past (x.pos + x.ahead.length + 64) = true → bs = [])
      ∧ (∀ ls u', 64 ≤ n → x.ahead.length - x.taken + 64 ≤ 4096 → x.past (x.pos + x.ahead.length + 64) = false →
        readLine s.here.tile z x.kind (x.addr (x.pos + x.ahead.length)) s = .bytes ls u' → ∃ more, bs = ls ++ more)) ∧
  (∀ (s : State) (d : Stream) (b : Nat) (ms : List Nat), d = s.streamAt s.here.tile s.here.slot s.here.item → d.wantsBlock = some b →
    ms = ((List.range 16).filter (fun i => d.members.getLsbD i)).map (memberTile s.here.tile) →
    ms.all (fun v => !(wanting s v d b).isEmpty) = true →
    ∃ u, exec .clusterBlockSend s = .next u ∧ BytesKept s u ∧
      ∀ v e x bs u', v ∈ ms → e ∈ wanting s v d b → s.thread v e.1 = some x →
        goodLines v x (s.streamAt v e.1 e.2) (blockLines (s.streamAt v e.1 e.2) b) (s.streamAt v e.1 e.2).nextPos s = (bs, u') →
        (u.streamAt v e.1 e.2).ahead = (s.streamAt v e.1 e.2).ahead ++ bs)

/-- The events of the engines complete (R343, R344, R382-R386). -/
def Obligations.EngineEventResults : Prop := Spec.CopyEvents ∧ Spec.StreamEvents ∧ Spec.LookaheadEvents


namespace Sys2Proof.Spec

/-- Whether a task comes from outside the region of the tile that takes it (R101). -/
def fromOutside (s : State) (t : Nat) (src : Node) : Bool :=
  match src with
  | .tile v => !sameRegion s t v
  | _ => true

end Sys2Proof.Spec

/-- Tasks, windows, stealing, migration and deadlock detection complete (R87-R102, R176-R178, R194, R195). A task that its tile takes and
whose label is installed is buffered with its ready bit; a full tile refuses it where it stands; TASK_PICK and DET_DISPATCH start the
picked task's handler in a free slot; a window closes by one; a probe goes to a neighbour, and a stealable task to the thief, who
buffers it or sends it back; a migrating thread is granted a slot, queued, refused or timed out, and its state arrives with its
registers, but a grant waits while a debug halt is active in the region (R277), one that no thread waits for frees the slot, and a
region that drains takes no thread (R81); a wait of 1024 cycles sends probes, which are forwarded; a quiescent region's node fails. -/
def Obligations.TaskEventResults : Prop :=
  (∀ (s : State) (p : Packet) (k : Task) (t : Nat), Here s p → p.body = .task k → p.dst = .tile t → refused (lessPacket s p) p = false →
    k.check = false → k.host = none → ofPlacement s t k = true → (handlerEntry s t k.label).isSome = true →
    ∃ u, exec .taskArrive s = .next u ∧ BytesKept s u ∧ k.label ∈ (u.tile t).ready ∧
      (u.tile t).tasks = (s.tile t).tasks ++ [{ k with since := s.cycle, win := acceptedWindow s t (fromOutside s t p.src) k }]) ∧
  (∀ (s : State) (p : Packet) (k : Task) (t : Nat), Here s p → p.body = .task k → p.dst = .tile t → refused (lessPacket s p) p = true →
    exec .taskArrive s = .next s) ∧
  (∀ (s : State) (slot : Nat) (k : Task), freeNative s s.here.tile = some slot → mayDispatch s s.here.tile = true →
    (handlerEntry s s.here.tile k.label).isSome = true →
    (detTile s s.here.tile = false → s.hereTile.pickedAt ≠ some s.cycle → ∀ level, pickTask s s.here.tile = some (k, level) →
      ∃ u x, exec .taskPick s = .next u ∧ u.thread s.here.tile slot = some x ∧ x.sreg 1 = k.w0 ∧ x.sreg 2 = k.w1
        ∧ x.sreg 4 = flit0 k ∧ x.sreg 5 = flit1 k ∧ x.origin = s.here.tile ∧ x.status = 0 ∧ x.issueFrom = s.cycle + 1
        ∧ u.hereTile.pickedAt = some s.cycle ∧ BytesKept s u) ∧
    (s.hereTile.pickedAt = some s.cycle → exec .taskPick s = .next s) ∧
    (∀ r, regionOf s s.here.tile = some r → r.det = true →
      firstTask (s.hereTile.tasks.filter (fun j => decide (j.win.toNat < r.number.toNat))) = some k →
      ∃ u x, exec .detDispatch s = .next u ∧ u.thread s.here.tile slot = some x ∧ x.sreg 1 = k.w0 ∧ x.sreg 2 = k.w1
        ∧ x.window = r.number ∧ BytesKept s u)) ∧
  (∀ (s : State) (r : RegionRec), s.region s.here.item = some r → windowCloses s r = true →
    exec .windowClose s = .next (s.updRegion r.blk (fun x => { x with number := x.number + 1 }))) ∧
  (∀ (s : State) (i v : Nat) (es : List (Nat × Nat)), (freeNative s s.here.tile).isSome = true → s.hereTile.tasks = [] →
    detTile s s.here.tile = false → mayDispatch s s.here.tile = true → s.hereTile.idleFrom + 256 ≤ s.cycle →
    probing s s.here.tile = false → probeOrder s s.here.tile = (i, v) :: es →
    ∃ u p, exec .stealProbe s = .next u ∧ u.net = s.net ++ [p] ∧ p.dst = .tile v ∧ p.body = .probe s.here.tile
      ∧ u.hereTile.stealNext = (i + 1) % 4) ∧
  (∀ (s : State) (p : Packet) (thief t : Nat) (k : Task), Here s p → p.body = .probe thief → p.dst = .tile t →
    sameRegion s t thief = true → oldestTask ((s.tile t).tasks.filter (stealable s t)) = some k →
    ∃ u q, exec .stealRequest s = .next u ∧ u.net = s.net ++ [q] ∧ q.dst = .tile thief
      ∧ q.body = .stolen { k with stolen := true, since := s.cycle - k.since } t
      ∧ (u.tile t).tasks = (s.tile t).tasks.erase k) ∧
  (∀ (s : State) (p : Packet) (t v : Nat) (k : Task), Here s p → p.dst = .tile t → ofPlacement s t k = true →
    (p.body = .stolen k v → (handlerEntry s t k.label).isSome = true → stolenHeld s t = false →
      ∃ u, exec .stealReply s = .next u ∧ (u.tile t).tasks = (s.tile t).tasks ++ [{ k with since := s.cycle - k.since }]) ∧
    (p.body = .stolen k v → handlerEntry s t k.label = none →
      ∃ u q, exec .stealReply s = .next u ∧ u.net = s.net ++ [q] ∧ q.dst = .tile v ∧ q.body = .stolenBack k) ∧
    (p.body = .stolenBack k → (handlerEntry s t k.label).isSome = true → stolenHeld s t = false →
      ∃ u, exec .stolenTaskReturn s = .next u ∧ (u.tile t).tasks = (s.tile t).tasks ++ [{ k with since := s.cycle - k.since }])) ∧
  (∀ (s : State) (p : Packet) (w : Who) (t : Nat), Here s p → p.body = .migrate w → p.dst = .tile t → samePlacement s t w = true →
    (∀ k, freeGuest s t = some k → exec .migrateRequest s = .next (grantSlot (lessPacket s p) t k w)) ∧
    (freeGuest s t = none → (s.tile t).inbound.length < 8 →
      ∃ u, exec .migrateRequest s = .next u ∧ (u.tile t).inbound = (s.tile t).inbound ++ [(w, s.cycle)]) ∧
    (freeGuest s t = none → 8 ≤ (s.tile t).inbound.length →
      ∃ u q, exec .migrateRequest s = .next u ∧ u.net = s.net ++ [q] ∧ q.dst = .tile w.tile ∧ q.body = .refuse w)) ∧
  (∀ (s : State) (w : Who) (c : Nat) (qs : List (Who × Nat)), s.hereTile.inbound = (w, c) :: qs → c + 4096 ≤ s.cycle →
    ∃ u q, exec .migrateQueueTimeout s = .next u ∧ u.net = s.net ++ [q] ∧ q.dst = .tile w.tile ∧ q.body = .refuse w
      ∧ u.hereTile.inbound = qs) ∧
  (∀ (s : State) (p : Packet) (w : Who) (z : Thread), Here s p → s.thread w.tile w.slot = some z → migrating z w = true →
    (∀ owner k, p.body = .grant w owner k → haltActive s w.tile = true → exec .migrateGrant s = .next (if p.cls = .side then s else
      { lessPacket s p with arrived := (lessPacket s p).arrived ++ [{ p with cls := .side }] })) ∧
    (∀ owner k, p.body = .grant w owner k → haltActive s w.tile = false →
      ∃ u, exec .migrateGrant s = .next u ∧ u.thread w.tile w.slot = none ∧ BytesKept s u) ∧
    (p.body = .refuse w →
      ∃ u, exec .migrateRefuse s = .next u ∧ u.thread w.tile w.slot = some { z with phase := 2, wait := .none } ∧ BytesKept s u)) ∧
  (∀ (s : State) (p : Packet) (w : Who) (owner k : Nat), Here s p → p.body = .grant w owner k →
    (∀ z, s.thread w.tile w.slot = some z → migrating z w = false) →
    exec .migrateGrant s = .next (unreserve owner k w (lessPacket s p))) ∧
  (∀ (s : State) (p : Packet) (m : Moving) (rid gen t : Nat), Here s p → p.body = .moved m rid gen → p.dst = .tile t →
    tileDraining s t = true → exec .migrateStateArrive s = .next (lessPacket s p)) ∧
  (∀ (s : State) (p : Packet) (m : Moving) (rid gen t : Nat), Here s p → p.body = .moved m rid gen → p.dst = .tile t →
    (s.tile t).rid = rid → (s.tile t).gen = gen → tileDraining s t = false →
    ∃ u, exec .migrateStateArrive s = .next u ∧ BytesKept s u ∧ (u.tile t).lines = [] ∧
      u.thread t m.slot = some { m.thread with left := fillOf (s.tile t).fills m.slot, lean := 0 }) ∧
  (∀ (s : State), longWait s s.here.tile = true → haltActive s s.here.tile = false →
    ((waitsOn s s.here.tile) ≠ [] → s.hereTile.probed ≠ some s.hereTile.sw.since →
      exec .waitForProbeSend s = .next (sendProbes s.here.tile s.here.tile 1 s.hereTile.sw.since
        (s.updHere (fun x => { x with probed := some x.sw.since })))) ∧
    (∀ b, portBlocked s s.here.tile = some b → b.2.1.since + 1024 ≤ s.cycle →
      (switchWaits s s.here.tile).any (fun w => decide (w.code = 4)) = true →
      exec .localCycleDetect s = .next (cycleAt s.here.tile 0 (s.updHere (fun x => { x with sw := { x.sw with since := s.cycle } }))))) ∧
  (∀ (s : State) (p : Packet) (origin hops since t : Nat), Here s p → p.body = .waitFor origin hops since → p.dst = .tile t →
    haltActive s t = false → t ≠ origin → origin ≤ t → waitsOn (lessPacket s p) t ≠ [] → hops < 3072 →
    exec .waitForProbeArrive s = .next (sendProbes t origin (hops + 1) since (lessPacket s p))) ∧
  (∀ (s : State) (r : RegionRec) (c : Nat) (n : NodeRec), s.region s.here.item = some r → regionQuietFrom s r = some c →
    runningNode s r.blk = some n → c + 65536 ≤ s.cycle → exec .quiescenceTimeout s = .next (quietFault s r n))

namespace Sys2Proof.Spec

/-- A gang message taken at a Scheduler Unit (R75). -/
def GangHere (s : State) (p : Packet) (pkg node d : Nat) (m : GangMsg) : Prop :=
  Here s p ∧ p.body = .gangMsg pkg node m ∧ p.dst = .su d

/-- A node ended: it has left the Scheduler Unit's table unless an Archive insertion of its run goes on, and it is in no other
state (R53, R62). -/
def Ended (u : State) (a : Nat) : Prop := ∀ n, u.node a = some n → n.look.isSome = true

/-- A HELD node checked again at an ageing step (R60, R66). -/
def rechecked (s : State) (a : Nat) : State :=
  match s.node a with
  | some n => if (startCheck s n).1 then (startCheck s n).2.enterReady a else (startCheck s n).2
  | none => s

end Sys2Proof.Spec

/-- The Scheduler Unit's events complete (R60-R74, R82, R83, R137, R141-R153, R272-R274). A pass considers the die's ready nodes in order;
a placed node starts; ageing raises the priority of a ready node; a signal lowers the count of its successor, which becomes ready at
none, is skipped where none was DONE, or fails; a COND node ends by its predicate; a tile retires; a drained MPT, in which no pool word stays
allocated to the drained RID (R378), certifies, and its last certificate or the timeout ends the drain; pre-emption proceeds, saves and resumes; an Archive lookup goes from its hash to a probe, a
hit or a run, and an insertion ends. -/
def Obligations.SchedulerEventResults : Prop :=
  (∀ (s : State), exec .schedulerPass s = .next (((dispatchOrder s s.here.item).map (fun n => n.addr)).foldl (considerNode s.here.item)
    { s with reserve := s.reserve.filter (fun q => decide (q.die ≠ s.here.item)) })) ∧
  (∀ (s : State) (n : NodeRec) (r : RegionRec), s.node s.here.item = some n → s.region n.region = some r → r.on = true → n.stop = .no →
    rollHeld s n = false → (n.state = .ready ∧ n.begun = true ∧ r.tiles.any (tileReady s) = true) ∨
      (n.state = .running ∧ n.todo.any (tileReady s) = true) →
    exec .nodeStart s = .next (startNode s n r)) ∧
  (∀ (s s1 : State), s.cycle % 65536 = 0 → s1 = { s with nodes := s.nodes.map (fun n =>
      if nodeDie s n = s.here.item ∧ n.state = .ready ∧ n.prio < min 7 (n.base + (s.cycle - n.readyAt) / 65536)
      then { n with prio := min 7 (n.base + (s.cycle - n.readyAt) / 65536), prioAt := s.cycle } else n) } →
    exec .ageingStep s =
      .next (((s1.nodes.filter (fun n => decide (n.state = .held) && decide (nodeDie s1 n = s.here.item))).map (fun n => n.addr)).foldl
        rechecked s1)) ∧
  (∀ (s : State) (g : SignalRec) (n : NodeRec), s.signals.find? (fun x => decide (x.succ = s.here.item)) = some g →
    s.node g.succ = some n → n.aid = g.aid → n.state = .waiting →
    (g.sig = .done → n.pending ≤ 1 → ∃ u m, exec .nodeSignal s = .next u ∧ u.node g.succ = some m ∧ m.state = .ready
      ∧ u.signals = s.signals.erase g) ∧
    (g.sig ≠ .fail → 1 < n.pending → ∃ u m, exec .nodeSignal s = .next u ∧ u.node g.succ = some m ∧ m.pending = n.pending - 1
      ∧ m.state = .waiting) ∧
    (g.sig = .skip → n.pending ≤ 1 → n.sawDone = false → ∃ u, exec .nodeSignal s = .next u ∧ Ended u g.succ) ∧
    (g.sig = .fail → ∃ u, exec .nodeSignal s = .next u ∧ Ended u g.succ)) ∧
  (∀ (s s1 s2 : State) (n : NodeRec) (v : Word), s.node s.here.item = some n → n.state = .ready → n.kind = 2 →
    startCheck s n = (true, s1) → predicateWord n s1 = (some v, s2) →
    exec .condEvaluate s = .next (s2.endNode n.addr .done codeOk (condSignals n (condHolds n v)))) ∧
  (∀ (s s1 : State) (n : NodeRec), s.node s.here.item = some n → n.state = .ready → n.kind = 2 →
    (startCheck s n = (false, s1) → exec .condEvaluate s = .next (s1.setNState n.addr .held)) ∧
    (∀ s2, startCheck s n = (true, s1) → predicateWord n s1 = (none, s2) →
      exec .condEvaluate s = .next (s2.endAll n.addr .failed codePoison .fail))) ∧
  (∀ (s : State) (a : Nat) (n : NodeRec), s.hereTile.node = some a → s.node a = some n → n.state = .running → n.stop.saves = false →
    s.hereTile.retired = false → tileDone s s.here.tile = true →
    (retireTile s s.here.tile n).hereTile.retired = true ∧ (retireTile s s.here.tile n).hereTile.started = s.cycle ∧
    ((retireTile s s.here.tile n).region n.region = none → exec .tileRetire s = .next (retireTile s s.here.tile n)) ∧
    (∀ r, (retireTile s s.here.tile n).region n.region = some r →
      exec .tileRetire s = .next (if nodeRetired (retireTile s s.here.tile n) n r then nodeDone (retireTile s s.here.tile n) n
        else retireTile s s.here.tile n))) ∧
  (∀ (s : State) (p : Packet) (rid gen m : Nat), Here s p → p.body = .drain rid gen → p.dst = .mpt m →
    drainWaits (lessPacket s p) m rid gen = false →
    ∃ u q x y, exec .mptDrain s = .next u ∧ q ∈ u.net ∧ q.dst = p.src ∧ q.body = .certificate m rid gen x y
      ∧ (∀ r, r ∈ (u.mpt m).reds → r.rid ≠ rid) ∧ sparseGet none (u.mpt m).live rid = some ((gen + 1) % 65536)
      ∧ ∀ i, (poolGet (u.mpt m) i).alloc = true → (poolGet (u.mpt m) i).rid ≠ rid) ∧
  (∀ (s : State) (p : Packet) (m rid gen x y : Nat), Here s p → p.body = .certificate m rid gen x y →
    s.regions.find? (fun r => decide (r.rid = rid) && decide (r.gen = gen)) = none → exec .drainCertificate s = .next (lessPacket s p)) ∧
  (∀ (s : State) (p : Packet) (m rid gen x y c since : Nat) (r : RegionRec) (n : NodeRec) (cs : List Nat) (f : NState), Here s p →
    p.body = .certificate m rid gen x y → s.regions.find? (fun r => decide (r.rid = rid) && decide (r.gen = gen)) = some r →
    s.nodes.find? (fun n => decide (n.region = r.blk) && match n.stop with
      | .drain _ _ _ => true
      | _ => false) = some n →
    n.stop = .drain (m :: c :: cs) since f → c ≠ m → s.node n.addr = some n →
    ∃ u k, exec .drainCertificate s = .next u ∧ u.node n.addr = some k ∧ k.stop = .drain (keyErase (m :: c :: cs) m) since f) ∧
  (∀ (s : State) (p : Packet) (m rid gen x y since : Nat) (r : RegionRec) (n : NodeRec) (f : NState), Here s p →
    p.body = .certificate m rid gen x y → s.regions.find? (fun r => decide (r.rid = rid) && decide (r.gen = gen)) = some r →
    s.nodes.find? (fun n => decide (n.region = r.blk) && match n.stop with
      | .drain _ _ _ => true
      | _ => false) = some n →
    n.stop = .drain [m] since f → exec .drainCertificate s =
      .next (finishDrain ((lessPacket s p).updNode n.addr (fun x => { x with stop := .drain [] since f })) r.blk)) ∧
  (∀ (s : State) (n : NodeRec) (c since : Nat) (cs : List Nat) (f : NState), s.node s.here.item = some n →
    n.state = .draining → n.stop = .drain (c :: cs) since f → since + 2 ^ 20 ≤ s.cycle → ∃ u, exec .drainTimeout s = .next u ∧ Ended u n.addr) ∧
  (∀ (s : State) (n : NodeRec) (r : RegionRec), s.node s.here.item = some n → s.region n.region = some r →
    (n.stop = .deferred → r.tiles.any (fun t => (s.tap t).taking) = false →
      exec .preemptProceed s = .next ((r.tiles.foldl holdTap s).updNode n.addr (fun x => { x with stop := .saving s.cycle }))) ∧
    (∀ c, n.state = .running → n.stop = .saving c → c < s.cycle → regionLanded s r = true →
      r.tiles.any (fun t => (s.tap t).taking) = false → r.w * r.h ≤ (freeUnits s).length →
      exec .preemptSave s = .next (saveRegion (serveSure (fun _ => true) s) n r)) ∧
    (n.state = .preempted → n.resuming = true → r.on = false → rectFree s n.addr r.x0 r.y0 r.w r.h = true →
      ∃ u k, exec .resumePlace s = .next u ∧ u.node n.addr = some k ∧ k.state = .running ∧ k.resuming = false)) ∧
  (∀ (s : State) (n : NodeRec) (l : Lookup), s.node s.here.item = some n → n.look = some l →
    (l.st = .hash → l.hit = false → exec .archiveHashComplete s = .next (hashLookup s n l)) ∧
    (l.st = .probe → l.hit = false → findEntry s l.key n.tenant = none →
      exec .archiveProbeResult s = .next (s.updLook n.addr (fun x => { x with st := .run }))) ∧
    (∀ e, l.st = .probe → l.hit = false → findEntry s l.key n.tenant = some e → e.state = .valid →
      exec .archiveProbeResult s = .next (hitEntry s n l e)) ∧
    (l.hit = true → exec .archiveWatchHit s = .next (watchHit s n l)) ∧
    (l.st = .deliver → ∃ u, exec .archiveDeliverComplete s = .next u ∧ Ended u n.addr) ∧
    (l.st = .insert → exec .archiveInsertComplete s = .next (completeInsert s n l)))

/-- The messages of a gang complete (R75, R76). A prepared member is admitted, with the home's node noted, or refuses; the home counts a
member's ready once, and starts the gang when all are; a member takes its start time, LATE where it has passed, and starts at it;
the home counts a done member; a silent member, a failure or an abort fails the gang, also where the node drains to run again (R76). -/
def Obligations.GangEventResults : Prop :=
  (∀ (s : State) (p : Packet) (pkg node d home : Nat), GangHere s p pkg node d (.prepare home) →
    (∀ u', admitMember d node (lessPacket s p) = (0, u') → exec .gangPrepare s = .next
      (u'.updNode node (fun n => { n with gang := some ⟨[(pkg, home)], [], [], s.tick.toNat, none, false⟩ }))) ∧
    (∀ c u', admitMember d node (lessPacket s p) = (c, u') → c ≠ 0 →
      ∃ u q, exec .gangPrepare s = .next u ∧ u.net = u'.net ++ [q] ∧ q.body = .gangMsg pkg home (.fail codeGangfail))) ∧
  (∀ (s : State) (p : Packet) (pkg node d : Nat) (n : NodeRec) (g : Gang) (tick : Word), gangOf s node = some (n, g) → g.home = true →
    (∀ i, memberIndex g pkg = some i → g.readyAt.any (fun r => decide (r.1 = i)) = false → GangHere s p pkg node d (.ready tick) →
      exec .gangReady s = .next
        (gangTryStart n.addr ((lessPacket s p).updGang n.addr (fun g => { g with readyAt := g.readyAt ++ [(i, tick.toNat)] })))) ∧
    (∀ i u k r, memberIndex g pkg = some i → GangHere s p pkg node d .done →
      u = (lessPacket s p).updGang n.addr (fun g => { g with done := keyInsert g.done i }) → u.node n.addr = some k →
      u.region k.region = some r →
      exec .gangMemberDone s = .next (if k.state = .running ∧ nodeRetired u k r = true then nodeDone u k else u)) ∧
    (∀ c, GangHere s p pkg node d (.fail c) → g.start = none →
      exec .gangMemberFail s = .next (gangAbort n g pkg (lessPacket s p))) ∧
    (∀ c, GangHere s p pkg node d (.fail c) → g.start ≠ none →
      exec .gangMemberFail s = .next (gangFail n.addr pkg (lessPacket s p)))) ∧
  (∀ (s : State) (p : Packet) (pkg node d : Nat) (n : NodeRec) (g : Gang) (t : Word), gangOf s node = some (n, g) →
    GangHere s p pkg node d (.start t) →
    ∃ u k h, exec .gangStartReceive s = .next u ∧ u.node n.addr = some k ∧ k.gang = some h ∧ h.start = some t.toNat
      ∧ k.late = decide (t.toNat < s.tick.toNat)) ∧
  (∀ (s : State) (p : Packet) (pkg node d a : Nat) (n : NodeRec) (g : Gang), gangOf s node = some (n, g) →
    GangHere s p pkg node d (.abort a) →
    exec .gangAbort s = .next (gangFail node a ((lessPacket s p).updNode n.addr (fun n => { n with gang := none })))) ∧
  (∀ (s : State) (a pkg : Nat) (n : NodeRec), s.node a = some n → n.state = .draining → n.stop.reruns = true →
    ∃ k, (gangFail a pkg s).node a = some k ∧ k.state = .draining ∧ k.code = codeGangfail ∧ k.detail = pkg ∧ k.stop.reruns = false) ∧
  (∀ (s u' : State) (n : NodeRec) (g : Gang) (r : RegionRec) (t : Nat) (i : Image), gangOf s s.here.item = some (n, g) →
    g.start = some t → s.region n.region = some r → n.state = .ready → n.begun = true → t ≤ s.tick.toNat →
    readImage (blockCode n.blk) r.w r.h s = (some i, u') → exec .gangMemberStart s = .next (beginRun n r i u')) ∧
  (∀ (s : State) (n : NodeRec) (g : Gang), gangOf s s.here.item = some (n, g) → g.home = true → g.start = none →
    g.began + 1000 * field (nth 0 n.blk 17) 0 16 ≤ s.tick.toNat →
    exec .gangWaitTimeout s = .next (gangAbort n g (nth (0, 0) g.members (firstSilent g)).1 s))

namespace Sys2Proof.Spec

/-- The state once a tap has seen a beat (R124, R127). -/
def saw (s : State) (b : Beat) : State :=
  s.placeTap s.here.tile (sawBeat (s.tap s.here.tile) b (b.arrival s.part (stopOfTile s.here.tile)))

/-- The step in which a beat arrives at the tile's stop (R109). -/
def arrivalOf (s : State) (b : Beat) : Nat := b.arrival s.part (stopOfTile s.here.tile)

end Sys2Proof.Spec

/-- The ring's events and those of its taps complete (R20, R21, R109-R138). A hand-over that is due starts its layer, or waits for a
re-read; a beat that is due goes onto the ring, in order; a list that is filled waits at each lane that runs one; a silent lane that
has started restarts, with the next lap's number once; arm notices are counted and a report begins a re-read, whose end clears it. A header opens the window of an armed
tap or begins the next folio, a payload beat adds its bytes, a good trailer puts the folio in line and a bad one faults, but a tap in HOLD stays there to be saved
(R129); a folio is released two steps later; silence, a lane that is down and a stall fault the taps that they concern. -/
def Obligations.RingEventResults : Prop :=
  (∀ (s : State) (h : Nat) (y : Layer), (s.lane s.here.item).handAt = some h → (s.lane s.here.item).layer s.here.item = some y →
    h ≤ s.ring.step → (s.lane s.here.item).down = false →
    (s.here.slot ≠ 0 → fromAfar (s.lane s.here.item) s.here.item = true →
      exec .handOver s = .next (s.updLane s.here.item (fun x => { x with handAt := none }))) ∧
    (s.here.slot = 0 ∨ fromAfar (s.lane s.here.item) s.here.item = false →
    (rereading s y.layer = true → exec .handOver s = .next s) ∧
    (rereading s y.layer = false → ∃ u, exec .handOver s = .next u ∧ (u.lane s.here.item).handAt = none
      ∧ (u.lane s.here.item).started = true ∧ BytesKept s u))) ∧
  (∀ (s s1 : State) (k : BeatKind) (d : List Byte) (q : List (BeatKind × List Byte)) (y : Layer) (x : Lane), s1 = takeOff s s.here.item →
    x = s1.lane s.here.item → x.queue = (k, d) :: q → x.layer s.here.item = some y → x.beatAt ≤ s.ring.step → x.down = false →
    ∃ u b, exec .injectBeat s = .next u ∧ u.ring.beats = s1.ring.beats ++ [b] ∧ b.lane = s.here.item ∧ b.serial = x.serial ∧ b.kind = k
      ∧ b.data = d ∧ b.step = x.beatAt ∧ (u.lane s.here.item).serial = x.serial + 1
      ∧ (k ≠ .trailer → (u.lane s.here.item).queue = q ∧ (u.lane s.here.item).beatAt = x.beatAt + 1)) ∧
  (∀ (s : State) (x : Shelf), s.ring.filling = some x →
    ∃ u, exec .rpaceListFillComplete s = .next u ∧ u.ring.filling = none ∧
      ∀ l, l < 8 → (s.lane l).shelf.isSome = true → (u.lane l).shelf = (s.lane l).shelf ∧ (u.lane l).next.isSome = true) ∧
  (∀ (s : State) (stop : Nat), firstStop (s.lane s.here.item) s.here.item = some stop → (s.lane s.here.item).down = false →
    (s.lane s.here.item).started = true → lastPassed s s.here.item stop + 2 * s.part.loop + 65536 ≤ s.ring.step →
    ∃ u, exec .laneRestart s = .next u ∧ (u.lane s.here.item).queue = [] ∧ (u.lane s.here.item).passedAt = s.ring.step ∧ Checked s u ∧
      ((u.lane s.here.item).layers s.here.item ≠ [] →
        (u.lane s.here.item).lap = if (s.lane s.here.item).begun then (s.lane s.here.item).lap + 1 else (s.lane s.here.item).lap)) ∧
  (∀ (s : State) (p : Packet) (layer sent : Nat) (off : Bool), Here s p → p.body = .arm layer off sent →
    (noticeBlocked s p = false → ∃ u, exec .armNoticeArrive s = .next u ∧ ∀ n, armCount u n = if n = layer then
      (if off then armCount s layer - 1 else armCount s layer + 1) else armCount s n) ∧
    (noticeBlocked s p = true → exec .armNoticeArrive s = .next s)) ∧
  (∀ (s : State) (p : Packet) (layer index lap m : Nat) (y : Layer), Here s p → p.body = .report layer index lap → p.dst = .mpt m →
    layerOf s layer = some y → y.home = m → index < y.folios.length → (layer, index) ∉ s.ring.reread →
    ∃ u, exec .tapReport s = .next u ∧ u.ring.reread = s.ring.reread ++ [(layer, index)]) ∧
  (∀ (s : State) (layer index : Nat), (layer, index) ∈ s.ring.reread →
    ∃ u, exec (.rereadComplete layer index) s = .next u ∧ u.ring.reread = s.ring.reread.filter (fun e => decide (e ≠ (layer, index)))) ∧
  (∀ (s : State) (b : Beat), nextBeat s s.here.tile s.here.item = some b →
    (b.kind = .header → s.here.slot = 0 → (s.tap s.here.tile).state = .armed →
      exec .tapHeader s = .next (absentCheck s.here.tile (armedHeader s.here.tile (Spec.arrivalOf s b) b (saw s b)))) ∧
    (b.kind = .header → s.here.slot = 0 → (s.tap s.here.tile).taking = true → b.lane = (s.tap s.here.tile).lane →
      exec .tapHeader s = .next (absentCheck s.here.tile (nextHeader s.here.tile (Spec.arrivalOf s b) b (headerOf b.data).src (saw s b)))) ∧
    (b.kind = .payload → (s.tap s.here.tile).taking = true → b.lane = (s.tap s.here.tile).lane → (s.tap s.here.tile).folio ≠ [] →
      ((s.tap s.here.tile).noRoom = false →
        ∃ u, exec .tapPayloadBeat s = .next u ∧ (u.tap s.here.tile).folio = (s.tap s.here.tile).folio
          ++ b.data.take ((s.tap s.here.tile).len + 64 - (s.tap s.here.tile).folio.length)) ∧
      ((s.tap s.here.tile).noRoom = true → (s.ring.paceAt (Spec.arrivalOf s b)).1 = true → exec .tapPayloadBeat s = .next s) ∧
      ((s.tap s.here.tile).noRoom = true → (s.ring.paceAt (Spec.arrivalOf s b)).1 = false →
        ∃ u, exec .tapPayloadBeat s = .next u ∧ (u.tap s.here.tile).reason = 3
          ∧ (u.tap s.here.tile).state = if (s.tap s.here.tile).state = .hold then .hold else .faulted)) ∧
    (b.kind = .trailer → (s.tap s.here.tile).taking = true → b.lane = (s.tap s.here.tile).lane → (s.tap s.here.tile).folio ≠ [] →
      (s.here.slot = 0 → crc64 (s.tap s.here.tile).folio = leNat (b.data.take 8) → (s.tap s.here.tile).last = false →
        (s.tap s.here.tile).resume = none →
        ∃ u, exec .tapTrailer s = .next u ∧ (u.tap s.here.tile).folio = [] ∧ (u.tap s.here.tile).waiting = (s.tap s.here.tile).waiting
          ++ [(Spec.arrivalOf s b + 2, (s.tap s.here.tile).laps, (s.tap s.here.tile).index, (s.tap s.here.tile).folio.drop 64)]) ∧
      (s.here.slot ≠ 0 ∨ crc64 (s.tap s.here.tile).folio ≠ leNat (b.data.take 8) →
        ∃ u, exec .tapTrailer s = .next u ∧ (u.tap s.here.tile).reason = 1
          ∧ (u.tap s.here.tile).state = if (s.tap s.here.tile).state = .hold then .hold else .faulted))) ∧
  (∀ (s : State) (c n i : Nat) (bs : List Byte) (es : List (Nat × Nat × Nat × List Byte)),
    (s.tap s.here.tile).waiting = (c, n, i, bs) :: es → c ≤ s.ring.step → (s.tap s.here.tile).state ≠ .done →
    ∃ u, exec .folioRelease s = .next u ∧ (u.tap s.here.tile).waiting = es ∧ (u.tap s.here.tile).frel = (s.tap s.here.tile).frel + 1
      ∧ (u.tap s.here.tile).bytes = (s.tap s.here.tile).bytes ++ bs.drop (s.tap s.here.tile).skip) ∧
  (∀ (s : State), (s.tap s.here.tile).state = .capture → (s.tap s.here.tile).lane = s.here.item →
    (laneQuiet s s.here.tile s.here.item = true →
      ∃ u, exec .tapLaneSilent s = .next u ∧ (u.tap s.here.tile).state = .faulted ∧ (u.tap s.here.tile).reason = 8) ∧
    (sideBlocked s (Config.sequencerStop % s.part.stops) (stopOfTile s.here.tile) = true → exec .laneDownNotice s = .next s) ∧
    ((s.lane s.here.item).down = true → s.ring.step ≤ (s.lane s.here.item).downAt + s.part.loop + 32 →
      sideBlocked s (Config.sequencerStop % s.part.stops) (stopOfTile s.here.tile) = false →
      ∃ u, exec .laneDownNotice s = .next u ∧ (u.tap s.here.tile).state = .faulted ∧ (u.tap s.here.tile).reason = 8)) ∧
  (∀ (s : State),
    (s.ring.slowFrom.isSome = true → exec .ringStallStart s = .next { s with ring := { s.ring with stalled := true } }) ∧
    (s.ring.slowFrom = none → exec .ringStallEnd s = .next { s with ring := { s.ring with stalled := false } }) ∧
    (∀ c, s.ring.slowFrom = some c → c + 2 ^ 22 ≤ s.ring.cycle →
      ∃ u, exec .slowStallTimeout s = .next u ∧ u.ring.stalled = false))
end

