-- ==== Sys2Proof/Laws/Sparse.lean ====
section
/-! SUPPORT. Laws of sparse tables: a read after a write, and the canonical form that every operation keeps. -/

namespace Sys2Proof.Machine

variable {α : Type}

theorem sparseGet_erase_self (d : α) (m : Sparse α) (i : Nat) : sparseGet d (sparseErase m i) i = d := by
  induction m with
  | nil => rfl
  | cons e m ih =>
    obtain ⟨k, v⟩ := e
    by_cases h : k = i <;> simp [sparseErase, sparseGet, h, ih]

theorem sparseGet_erase_other (d : α) (m : Sparse α) {i j : Nat} (h : j ≠ i) :
    sparseGet d (sparseErase m i) j = sparseGet d m j := by
  induction m with
  | nil => rfl
  | cons e m ih =>
    obtain ⟨k, v⟩ := e
    by_cases hk : k = i
    · subst hk
      simp [sparseErase, sparseGet, ih, Ne.symm h]
    · simp only [sparseErase, hk, if_false, sparseGet, ih]

/-- No entry has key `i`. -/
theorem sparseErase_keys (m : Sparse α) (i : Nat) : ∀ e ∈ sparseErase m i, e.1 ≠ i := by
  induction m with
  | nil => simp [sparseErase]
  | cons e m ih =>
    obtain ⟨k, v⟩ := e
    by_cases hk : k = i
    · simpa [sparseErase, hk] using ih
    · simp only [sparseErase, hk, if_false, List.mem_cons, forall_eq_or_imp]
      exact ⟨by simp [hk], ih⟩

theorem sparseGet_insert_self (d : α) (m : Sparse α) (i : Nat) (x : α) (h : ∀ e ∈ m, e.1 ≠ i) :
    sparseGet d (sparseInsert m i x) i = x := by
  induction m with
  | nil => simp [sparseInsert, sparseGet]
  | cons e m ih =>
    obtain ⟨k, v⟩ := e
    have hk : k ≠ i := h (k, v) (by simp)
    by_cases hi : i < k
    · simp [sparseInsert, hi, sparseGet]
    · simp only [sparseInsert, hi, if_false, sparseGet, hk]
      exact ih (fun e he => h e (by simp [he]))

theorem sparseGet_insert_other (d : α) (m : Sparse α) {i j : Nat} (x : α) (h : j ≠ i) :
    sparseGet d (sparseInsert m i x) j = sparseGet d m j := by
  induction m with
  | nil => simp [sparseInsert, sparseGet, Ne.symm h]
  | cons e m ih =>
    obtain ⟨k, v⟩ := e
    by_cases hi : i < k
    · simp [sparseInsert, hi, sparseGet, Ne.symm h]
    · simp only [sparseInsert, hi, if_false, sparseGet, ih]

/-- A read of the key that was written. -/
@[simp] theorem sparseGet_set_self [DecidableEq α] (d : α) (m : Sparse α) (i : Nat) (x : α) :
    sparseGet d (sparseSet d m i x) i = x := by
  by_cases h : x = d
  · subst h
    simp [sparseSet, sparseGet_erase_self]
  · simp [sparseSet, h, sparseGet_insert_self d _ i x (sparseErase_keys m i)]

/-- A read of any other key. -/
theorem sparseGet_set_other [DecidableEq α] (d : α) (m : Sparse α) {i j : Nat} (x : α) (h : j ≠ i) :
    sparseGet d (sparseSet d m i x) j = sparseGet d m j := by
  by_cases hx : x = d
  · simp [sparseSet, hx, sparseGet_erase_other d m h]
  · simp [sparseSet, hx, sparseGet_insert_other d _ x h, sparseGet_erase_other d m h]

/-- A read after a write, by cases. -/
theorem sparseGet_set [DecidableEq α] (d : α) (m : Sparse α) (i j : Nat) (x : α) :
    sparseGet d (sparseSet d m i x) j = if j = i then x else sparseGet d m j := by
  by_cases h : j = i
  · subst h
    simp
  · simp [h, sparseGet_set_other d m x h]

/-- A read of a table that has been cleared over a range. -/
theorem sparseGet_clear (d : α) (m : Sparse α) (lo hi j : Nat) :
    sparseGet d (sparseClear m lo hi) j = if lo ≤ j ∧ j < hi then d else sparseGet d m j := by
  induction m with
  | nil => simp [sparseClear, sparseGet]
  | cons e m ih =>
    obtain ⟨k, v⟩ := e
    simp only [sparseClear] at ih
    by_cases hk : lo ≤ k ∧ k < hi
    · have hf : (!(decide (lo ≤ k) && decide (k < hi))) = false := by simp [hk.1, hk.2]
      simp only [sparseClear, List.filter_cons, hf, Bool.false_eq_true, if_false, ih, sparseGet]
      by_cases hj : lo ≤ j ∧ j < hi
      · simp [hj]
      · have : k ≠ j := fun h => hj (h ▸ hk)
        simp [hj, this]
    · have hf : (!(decide (lo ≤ k) && decide (k < hi))) = true := by
        rw [Bool.not_eq_true', ← Bool.decide_and, decide_eq_false_iff_not]
        exact hk
      simp only [sparseClear, List.filter_cons, hf, if_true, sparseGet, ih]
      by_cases hj : k = j
      · subst hj
        simp [hk]
      · simp [hj]

/-! The canonical form. -/

/-- Every key of a rising table that follows a key is greater than it. -/
theorem sparseRising_mem {j : Nat} {m : Sparse α} (h : sparseRising (some j) m = true) : ∀ e ∈ m, j < e.1 := by
  induction m generalizing j with
  | nil => simp
  | cons e m ih =>
    obtain ⟨k, v⟩ := e
    simp only [sparseRising, Bool.and_eq_true, decide_eq_true_eq] at h
    intro e he
    rcases List.mem_cons.mp he with rfl | he
    · exact h.1
    · exact Nat.lt_trans h.1 (ih h.2 e he)

/-- A rising table rises after any smaller bound. -/
theorem sparseRising_of_le {j k : Nat} {m : Sparse α} (hjk : j ≤ k) (h : sparseRising (some k) m = true) :
    sparseRising (some j) m = true := by
  cases m with
  | nil => rfl
  | cons e m =>
    simp only [sparseRising, Bool.and_eq_true, decide_eq_true_eq] at h ⊢
    exact ⟨by omega, h.2⟩

/-- A rising table rises without a bound. -/
theorem sparseRising_none {j : Nat} {m : Sparse α} (h : sparseRising (some j) m = true) : sparseRising none m = true := by
  cases m with
  | nil => rfl
  | cons e m =>
    simp only [sparseRising, Bool.and_eq_true] at h ⊢
    exact h.2

/-- A filter keeps keys rising. -/
theorem sparseRising_filter (p : Nat × α → Bool) (o : Option Nat) (m : Sparse α) (h : sparseRising o m = true) :
    sparseRising o (m.filter p) = true := by
  induction m generalizing o with
  | nil => simpa using h
  | cons e m ih =>
    obtain ⟨k, v⟩ := e
    have hm : sparseRising (some k) m = true := by
      cases o with
      | none => simpa [sparseRising] using h
      | some j => simp only [sparseRising, Bool.and_eq_true] at h; exact h.2
    by_cases hp : p (k, v) = true
    · rw [List.filter_cons_of_pos hp]
      cases o with
      | none => simpa [sparseRising] using ih _ hm
      | some j =>
        simp only [sparseRising, Bool.and_eq_true] at h ⊢
        exact ⟨h.1, ih _ hm⟩
    · rw [List.filter_cons_of_neg hp]
      cases o with
      | none => exact sparseRising_none (ih _ hm)
      | some j =>
        simp only [sparseRising, Bool.and_eq_true, decide_eq_true_eq] at h
        exact sparseRising_of_le (Nat.le_of_lt h.1) (ih _ hm)

theorem sparseErase_eq_filter (m : Sparse α) (i : Nat) : sparseErase m i = m.filter (fun e => decide (e.1 ≠ i)) := by
  induction m with
  | nil => rfl
  | cons e m ih =>
    obtain ⟨k, v⟩ := e
    by_cases hk : k = i <;> simp [sparseErase, hk, ih]

/-- An insertion keeps keys rising. -/
theorem sparseRising_insert (o : Option Nat) (m : Sparse α) (i : Nat) (x : α) (h : sparseRising o m = true)
    (ho : ∀ j, o = some j → j < i) (hi : ∀ e ∈ m, e.1 ≠ i) : sparseRising o (sparseInsert m i x) = true := by
  induction m generalizing o with
  | nil => cases o with
    | none => rfl
    | some j => simp [sparseInsert, sparseRising, ho j rfl]
  | cons e m ih =>
    obtain ⟨k, v⟩ := e
    have hk : k ≠ i := hi (k, v) (by simp)
    have hm : sparseRising (some k) m = true := by
      cases o with
      | none => simpa [sparseRising] using h
      | some j => simp only [sparseRising, Bool.and_eq_true] at h; exact h.2
    by_cases hik : i < k
    · simp only [sparseInsert, hik, if_true]
      cases o with
      | none => simp [sparseRising, hik, hm]
      | some j => simp [sparseRising, hik, hm, ho j rfl]
    · simp only [sparseInsert, hik, if_false]
      have := ih (some k) hm (fun j hj => by cases hj; omega) (fun e he => hi e (by simp [he]))
      cases o with
      | none => simpa [sparseRising] using this
      | some j =>
        simp only [sparseRising, Bool.and_eq_true] at h ⊢
        exact ⟨h.1, this⟩

theorem sparseInsert_mem (m : Sparse α) (i : Nat) (x : α) : ∀ e ∈ sparseInsert m i x, e = (i, x) ∨ e ∈ m := by
  induction m with
  | nil => simp [sparseInsert]
  | cons e m ih =>
    obtain ⟨k, v⟩ := e
    by_cases hik : i < k
    · simp [sparseInsert, hik]
    · simp only [sparseInsert, hik, if_false, List.mem_cons]
      intro e he
      rcases he with rfl | he
      · exact Or.inr (Or.inl rfl)
      · exact (ih e he).imp_right Or.inr

/-- The canonical form, as two facts. -/
theorem sparseWf_iff [DecidableEq α] (d : α) (m : Sparse α) :
    sparseWf d m = true ↔ sparseRising none m = true ∧ ∀ e ∈ m, e.2 ≠ d := by
  simp [sparseWf]

theorem sparseWf_nil [DecidableEq α] (d : α) : sparseWf d [] = true := rfl

/-- A filter keeps the canonical form. -/
theorem sparseWf_filter [DecidableEq α] (d : α) (m : Sparse α) (p : Nat × α → Bool) (h : sparseWf d m = true) :
    sparseWf d (m.filter p) = true := by
  rw [sparseWf_iff] at h ⊢
  exact ⟨sparseRising_filter p none m h.1, fun e he => h.2 e (List.mem_filter.mp he).1⟩

/-- Clearing a range keeps the canonical form. -/
theorem sparseWf_clear [DecidableEq α] (d : α) (m : Sparse α) (lo hi : Nat) (h : sparseWf d m = true) :
    sparseWf d (sparseClear m lo hi) = true := sparseWf_filter d m _ h

/-- A write keeps the canonical form. -/
theorem sparseWf_set [DecidableEq α] (d : α) (m : Sparse α) (i : Nat) (x : α) (h : sparseWf d m = true) :
    sparseWf d (sparseSet d m i x) = true := by
  have he : sparseWf d (sparseErase m i) = true := by
    rw [sparseErase_eq_filter]
    exact sparseWf_filter d m _ h
  by_cases hx : x = d
  · simpa [sparseSet, hx] using he
  · rw [sparseWf_iff] at he
    simp only [sparseSet, hx, if_false]
    rw [sparseWf_iff]
    refine ⟨sparseRising_insert none _ i x he.1 (fun j hj => by cases hj) (sparseErase_keys m i), fun e hm => ?_⟩
    rcases sparseInsert_mem _ i x e hm with rfl | hm
    · exact hx
    · exact he.2 e hm

end Sys2Proof.Machine
end

