-- ==== Sys2Proof/Laws/State.lean ====
section
/-! SUPPORT. What each elementary update of the state leaves: one lemma per field and per accessor, and the read after the
write. -/

namespace Sys2Proof.Machine

@[simp] theorem State.setThread_part (s : State) (t k : Nat) (x : Option Thread) : (s.setThread t k x).part = s.part := rfl
@[simp] theorem State.setThread_hbm (s : State) (t k : Nat) (x : Option Thread) : (s.setThread t k x).hbm = s.hbm := rfl
@[simp] theorem State.setThread_cycle (s : State) (t k : Nat) (x : Option Thread) : (s.setThread t k x).cycle = s.cycle := rfl
@[simp] theorem State.setThread_tick (s : State) (t k : Nat) (x : Option Thread) : (s.setThread t k x).tick = s.tick := rfl
@[simp] theorem State.setThread_mem (s : State) (t k : Nat) (x : Option Thread) : (s.setThread t k x).mem = s.mem := rfl
@[simp] theorem State.setThread_poison (s : State) (t k : Nat) (x : Option Thread) : (s.setThread t k x).poison = s.poison := rfl
@[simp] theorem State.setThread_latent (s : State) (t k : Nat) (x : Option Thread) : (s.setThread t k x).latent = s.latent := rfl
@[simp] theorem State.setThread_hbmBad (s : State) (t k : Nat) (x : Option Thread) : (s.setThread t k x).hbmBad = s.hbmBad := rfl
@[simp] theorem State.setThread_full (s : State) (t k : Nat) (x : Option Thread) : (s.setThread t k x).full = s.full := rfl
@[simp] theorem State.setThread_natives (s : State) (t k : Nat) (x : Option Thread) : (s.setThread t k x).natives = s.natives := rfl
@[simp] theorem State.setThread_shadows (s : State) (t k : Nat) (x : Option Thread) : (s.setThread t k x).shadows = s.shadows := rfl
@[simp] theorem State.setThread_aheads (s : State) (t k : Nat) (x : Option Thread) : (s.setThread t k x).aheads = s.aheads := rfl
@[simp] theorem State.setThread_tiles (s : State) (t k : Nat) (x : Option Thread) : (s.setThread t k x).tiles = s.tiles := rfl
@[simp] theorem State.setThread_taps (s : State) (t k : Nat) (x : Option Thread) : (s.setThread t k x).taps = s.taps := rfl
@[simp] theorem State.setThread_mpts (s : State) (t k : Nat) (x : Option Thread) : (s.setThread t k x).mpts = s.mpts := rfl
@[simp] theorem State.setThread_net (s : State) (t k : Nat) (x : Option Thread) : (s.setThread t k x).net = s.net := rfl
@[simp] theorem State.setThread_arrived (s : State) (t k : Nat) (x : Option Thread) : (s.setThread t k x).arrived = s.arrived := rfl
@[simp] theorem State.setThread_unacked (s : State) (t k : Nat) (x : Option Thread) : (s.setThread t k x).unacked = s.unacked := rfl
@[simp] theorem State.setThread_copies (s : State) (t k : Nat) (x : Option Thread) : (s.setThread t k x).copies = s.copies := rfl
@[simp] theorem State.setThread_edges (s : State) (t k : Nat) (x : Option Thread) : (s.setThread t k x).edges = s.edges := rfl
@[simp] theorem State.setThread_collectives (s : State) (t k : Nat) (x : Option Thread) : (s.setThread t k x).collectives = s.collectives := rfl
@[simp] theorem State.setThread_nodes (s : State) (t k : Nat) (x : Option Thread) : (s.setThread t k x).nodes = s.nodes := rfl
@[simp] theorem State.setThread_regions (s : State) (t k : Nat) (x : Option Thread) : (s.setThread t k x).regions = s.regions := rfl
@[simp] theorem State.setThread_signals (s : State) (t k : Nat) (x : Option Thread) : (s.setThread t k x).signals = s.signals := rfl
@[simp] theorem State.setThread_reserve (s : State) (t k : Nat) (x : Option Thread) : (s.setThread t k x).reserve = s.reserve := rfl
@[simp] theorem State.setThread_lastGen (s : State) (t k : Nat) (x : Option Thread) : (s.setThread t k x).lastGen = s.lastGen := rfl
@[simp] theorem State.setThread_charges (s : State) (t k : Nat) (x : Option Thread) : (s.setThread t k x).charges = s.charges := rfl
@[simp] theorem State.setThread_used (s : State) (t k : Nat) (x : Option Thread) : (s.setThread t k x).used = s.used := rfl
@[simp] theorem State.setThread_mclost (s : State) (t k : Nat) (x : Option Thread) : (s.setThread t k x).mclost = s.mclost := rfl
@[simp] theorem State.setThread_eolhours (s : State) (t k : Nat) (x : Option Thread) : (s.setThread t k x).eolhours = s.eolhours := rfl
@[simp] theorem State.setThread_ring (s : State) (t k : Nat) (x : Option Thread) : (s.setThread t k x).ring = s.ring := rfl
@[simp] theorem State.setThread_ep (s : State) (t k : Nat) (x : Option Thread) : (s.setThread t k x).ep = s.ep := rfl
@[simp] theorem State.setThread_power (s : State) (t k : Nat) (x : Option Thread) : (s.setThread t k x).power = s.power := rfl
@[simp] theorem State.setThread_ptp (s : State) (t k : Nat) (x : Option Thread) : (s.setThread t k x).ptp = s.ptp := rfl
@[simp] theorem State.setThread_links (s : State) (t k : Nat) (x : Option Thread) : (s.setThread t k x).links = s.links := rfl
@[simp] theorem State.setThread_free (s : State) (t k : Nat) (x : Option Thread) : (s.setThread t k x).free = s.free := rfl
@[simp] theorem State.setThread_nextId (s : State) (t k : Nat) (x : Option Thread) : (s.setThread t k x).nextId = s.nextId := rfl
@[simp] theorem State.setThread_here (s : State) (t k : Nat) (x : Option Thread) : (s.setThread t k x).here = s.here := rfl
@[simp] theorem State.setThread_retired (s : State) (t k : Nat) (x : Option Thread) : (s.setThread t k x).retired = s.retired := rfl
@[simp] theorem State.setThread_agenda (s : State) (t k : Nat) (x : Option Thread) : (s.setThread t k x).agenda = s.agenda := rfl
@[simp] theorem State.setThread_words (s : State) (t k : Nat) (x : Option Thread) : (s.setThread t k x).words = s.words := rfl
@[simp] theorem State.setThread_fuses (s : State) (t k : Nat) (x : Option Thread) : (s.setThread t k x).fuses = s.fuses := rfl
@[simp] theorem State.setThread_tile (s : State) (t k : Nat) (x : Option Thread) (u : Nat) : (s.setThread t k x).tile u = s.tile u := rfl
@[simp] theorem State.setThread_native (s : State) (t k : Nat) (x : Option Thread) (u j : Nat) : (s.setThread t k x).native u j = s.native u j := rfl
@[simp] theorem State.setThread_tap (s : State) (t k : Nat) (x : Option Thread) (u : Nat) : (s.setThread t k x).tap u = s.tap u := rfl
@[simp] theorem State.setThread_mpt (s : State) (t k : Nat) (x : Option Thread) (u : Nat) : (s.setThread t k x).mpt u = s.mpt u := rfl
@[simp] theorem State.setThread_byteAt (s : State) (t k : Nat) (x : Option Thread) (a : Nat) : (s.setThread t k x).byteAt a = s.byteAt a := rfl
@[simp] theorem State.setThread_getBytes (s : State) (t k : Nat) (x : Option Thread) (a n : Nat) : (s.setThread t k x).getBytes a n = s.getBytes a n := rfl
@[simp] theorem State.setThread_getNat (s : State) (t k : Nat) (x : Option Thread) (a n : Nat) : (s.setThread t k x).getNat a n = s.getNat a n := rfl
@[simp] theorem State.setThread_isPoisoned (s : State) (t k : Nat) (x : Option Thread) (a n : Nat) : (s.setThread t k x).isPoisoned a n = s.isPoisoned a n := rfl
@[simp] theorem State.setThread_isFull (s : State) (t k : Nat) (x : Option Thread) (u a : Nat) : (s.setThread t k x).isFull u a = s.isFull u a := rfl
@[simp] theorem State.setThread_hereTile (s : State) (t k : Nat) (x : Option Thread) : (s.setThread t k x).hereTile = s.hereTile := rfl
@[simp] theorem State.setThread_myNative (s : State) (t k : Nat) (x : Option Thread) : (s.setThread t k x).myNative = s.myNative := rfl

@[simp] theorem State.setTile_part (s : State) (t : Nat) (x : Tile) : (s.setTile t x).part = s.part := rfl
@[simp] theorem State.setTile_hbm (s : State) (t : Nat) (x : Tile) : (s.setTile t x).hbm = s.hbm := rfl
@[simp] theorem State.setTile_cycle (s : State) (t : Nat) (x : Tile) : (s.setTile t x).cycle = s.cycle := rfl
@[simp] theorem State.setTile_tick (s : State) (t : Nat) (x : Tile) : (s.setTile t x).tick = s.tick := rfl
@[simp] theorem State.setTile_mem (s : State) (t : Nat) (x : Tile) : (s.setTile t x).mem = s.mem := rfl
@[simp] theorem State.setTile_poison (s : State) (t : Nat) (x : Tile) : (s.setTile t x).poison = s.poison := rfl
@[simp] theorem State.setTile_latent (s : State) (t : Nat) (x : Tile) : (s.setTile t x).latent = s.latent := rfl
@[simp] theorem State.setTile_hbmBad (s : State) (t : Nat) (x : Tile) : (s.setTile t x).hbmBad = s.hbmBad := rfl
@[simp] theorem State.setTile_full (s : State) (t : Nat) (x : Tile) : (s.setTile t x).full = s.full := rfl
@[simp] theorem State.setTile_threads (s : State) (t : Nat) (x : Tile) : (s.setTile t x).threads = s.threads := rfl
@[simp] theorem State.setTile_natives (s : State) (t : Nat) (x : Tile) : (s.setTile t x).natives = s.natives := rfl
@[simp] theorem State.setTile_shadows (s : State) (t : Nat) (x : Tile) : (s.setTile t x).shadows = s.shadows := rfl
@[simp] theorem State.setTile_aheads (s : State) (t : Nat) (x : Tile) : (s.setTile t x).aheads = s.aheads := rfl
@[simp] theorem State.setTile_taps (s : State) (t : Nat) (x : Tile) : (s.setTile t x).taps = s.taps := rfl
@[simp] theorem State.setTile_mpts (s : State) (t : Nat) (x : Tile) : (s.setTile t x).mpts = s.mpts := rfl
@[simp] theorem State.setTile_net (s : State) (t : Nat) (x : Tile) : (s.setTile t x).net = s.net := rfl
@[simp] theorem State.setTile_arrived (s : State) (t : Nat) (x : Tile) : (s.setTile t x).arrived = s.arrived := rfl
@[simp] theorem State.setTile_unacked (s : State) (t : Nat) (x : Tile) : (s.setTile t x).unacked = s.unacked := rfl
@[simp] theorem State.setTile_copies (s : State) (t : Nat) (x : Tile) : (s.setTile t x).copies = s.copies := rfl
@[simp] theorem State.setTile_edges (s : State) (t : Nat) (x : Tile) : (s.setTile t x).edges = s.edges := rfl
@[simp] theorem State.setTile_collectives (s : State) (t : Nat) (x : Tile) : (s.setTile t x).collectives = s.collectives := rfl
@[simp] theorem State.setTile_nodes (s : State) (t : Nat) (x : Tile) : (s.setTile t x).nodes = s.nodes := rfl
@[simp] theorem State.setTile_regions (s : State) (t : Nat) (x : Tile) : (s.setTile t x).regions = s.regions := rfl
@[simp] theorem State.setTile_signals (s : State) (t : Nat) (x : Tile) : (s.setTile t x).signals = s.signals := rfl
@[simp] theorem State.setTile_reserve (s : State) (t : Nat) (x : Tile) : (s.setTile t x).reserve = s.reserve := rfl
@[simp] theorem State.setTile_lastGen (s : State) (t : Nat) (x : Tile) : (s.setTile t x).lastGen = s.lastGen := rfl
@[simp] theorem State.setTile_charges (s : State) (t : Nat) (x : Tile) : (s.setTile t x).charges = s.charges := rfl
@[simp] theorem State.setTile_used (s : State) (t : Nat) (x : Tile) : (s.setTile t x).used = s.used := rfl
@[simp] theorem State.setTile_mclost (s : State) (t : Nat) (x : Tile) : (s.setTile t x).mclost = s.mclost := rfl
@[simp] theorem State.setTile_eolhours (s : State) (t : Nat) (x : Tile) : (s.setTile t x).eolhours = s.eolhours := rfl
@[simp] theorem State.setTile_ring (s : State) (t : Nat) (x : Tile) : (s.setTile t x).ring = s.ring := rfl
@[simp] theorem State.setTile_ep (s : State) (t : Nat) (x : Tile) : (s.setTile t x).ep = s.ep := rfl
@[simp] theorem State.setTile_power (s : State) (t : Nat) (x : Tile) : (s.setTile t x).power = s.power := rfl
@[simp] theorem State.setTile_ptp (s : State) (t : Nat) (x : Tile) : (s.setTile t x).ptp = s.ptp := rfl
@[simp] theorem State.setTile_links (s : State) (t : Nat) (x : Tile) : (s.setTile t x).links = s.links := rfl
@[simp] theorem State.setTile_free (s : State) (t : Nat) (x : Tile) : (s.setTile t x).free = s.free := rfl
@[simp] theorem State.setTile_nextId (s : State) (t : Nat) (x : Tile) : (s.setTile t x).nextId = s.nextId := rfl
@[simp] theorem State.setTile_here (s : State) (t : Nat) (x : Tile) : (s.setTile t x).here = s.here := rfl
@[simp] theorem State.setTile_retired (s : State) (t : Nat) (x : Tile) : (s.setTile t x).retired = s.retired := rfl
@[simp] theorem State.setTile_agenda (s : State) (t : Nat) (x : Tile) : (s.setTile t x).agenda = s.agenda := rfl
@[simp] theorem State.setTile_words (s : State) (t : Nat) (x : Tile) : (s.setTile t x).words = s.words := rfl
@[simp] theorem State.setTile_fuses (s : State) (t : Nat) (x : Tile) : (s.setTile t x).fuses = s.fuses := rfl
@[simp] theorem State.setTile_thread (s : State) (t : Nat) (x : Tile) (u j : Nat) : (s.setTile t x).thread u j = s.thread u j := rfl
@[simp] theorem State.setTile_native (s : State) (t : Nat) (x : Tile) (u j : Nat) : (s.setTile t x).native u j = s.native u j := rfl
@[simp] theorem State.setTile_tap (s : State) (t : Nat) (x : Tile) (u : Nat) : (s.setTile t x).tap u = s.tap u := rfl
@[simp] theorem State.setTile_mpt (s : State) (t : Nat) (x : Tile) (u : Nat) : (s.setTile t x).mpt u = s.mpt u := rfl
@[simp] theorem State.setTile_byteAt (s : State) (t : Nat) (x : Tile) (a : Nat) : (s.setTile t x).byteAt a = s.byteAt a := rfl
@[simp] theorem State.setTile_getBytes (s : State) (t : Nat) (x : Tile) (a n : Nat) : (s.setTile t x).getBytes a n = s.getBytes a n := rfl
@[simp] theorem State.setTile_getNat (s : State) (t : Nat) (x : Tile) (a n : Nat) : (s.setTile t x).getNat a n = s.getNat a n := rfl
@[simp] theorem State.setTile_isPoisoned (s : State) (t : Nat) (x : Tile) (a n : Nat) : (s.setTile t x).isPoisoned a n = s.isPoisoned a n := rfl
@[simp] theorem State.setTile_isFull (s : State) (t : Nat) (x : Tile) (u a : Nat) : (s.setTile t x).isFull u a = s.isFull u a := rfl
@[simp] theorem State.setTile_cur (s : State) (t : Nat) (x : Tile) : (s.setTile t x).cur = s.cur := rfl
@[simp] theorem State.setTile_me (s : State) (t : Nat) (x : Tile) : (s.setTile t x).me = s.me := rfl
@[simp] theorem State.setTile_myNative (s : State) (t : Nat) (x : Tile) : (s.setTile t x).myNative = s.myNative := rfl

@[simp] theorem State.setNative_part (s : State) (t k : Nat) (x : Native) : (s.setNative t k x).part = s.part := rfl
@[simp] theorem State.setNative_hbm (s : State) (t k : Nat) (x : Native) : (s.setNative t k x).hbm = s.hbm := rfl
@[simp] theorem State.setNative_cycle (s : State) (t k : Nat) (x : Native) : (s.setNative t k x).cycle = s.cycle := rfl
@[simp] theorem State.setNative_tick (s : State) (t k : Nat) (x : Native) : (s.setNative t k x).tick = s.tick := rfl
@[simp] theorem State.setNative_mem (s : State) (t k : Nat) (x : Native) : (s.setNative t k x).mem = s.mem := rfl
@[simp] theorem State.setNative_poison (s : State) (t k : Nat) (x : Native) : (s.setNative t k x).poison = s.poison := rfl
@[simp] theorem State.setNative_latent (s : State) (t k : Nat) (x : Native) : (s.setNative t k x).latent = s.latent := rfl
@[simp] theorem State.setNative_hbmBad (s : State) (t k : Nat) (x : Native) : (s.setNative t k x).hbmBad = s.hbmBad := rfl
@[simp] theorem State.setNative_full (s : State) (t k : Nat) (x : Native) : (s.setNative t k x).full = s.full := rfl
@[simp] theorem State.setNative_threads (s : State) (t k : Nat) (x : Native) : (s.setNative t k x).threads = s.threads := rfl
@[simp] theorem State.setNative_shadows (s : State) (t k : Nat) (x : Native) : (s.setNative t k x).shadows = s.shadows := rfl
@[simp] theorem State.setNative_aheads (s : State) (t k : Nat) (x : Native) : (s.setNative t k x).aheads = s.aheads := rfl
@[simp] theorem State.setNative_tiles (s : State) (t k : Nat) (x : Native) : (s.setNative t k x).tiles = s.tiles := rfl
@[simp] theorem State.setNative_taps (s : State) (t k : Nat) (x : Native) : (s.setNative t k x).taps = s.taps := rfl
@[simp] theorem State.setNative_mpts (s : State) (t k : Nat) (x : Native) : (s.setNative t k x).mpts = s.mpts := rfl
@[simp] theorem State.setNative_net (s : State) (t k : Nat) (x : Native) : (s.setNative t k x).net = s.net := rfl
@[simp] theorem State.setNative_arrived (s : State) (t k : Nat) (x : Native) : (s.setNative t k x).arrived = s.arrived := rfl
@[simp] theorem State.setNative_unacked (s : State) (t k : Nat) (x : Native) : (s.setNative t k x).unacked = s.unacked := rfl
@[simp] theorem State.setNative_copies (s : State) (t k : Nat) (x : Native) : (s.setNative t k x).copies = s.copies := rfl
@[simp] theorem State.setNative_edges (s : State) (t k : Nat) (x : Native) : (s.setNative t k x).edges = s.edges := rfl
@[simp] theorem State.setNative_collectives (s : State) (t k : Nat) (x : Native) : (s.setNative t k x).collectives = s.collectives := rfl
@[simp] theorem State.setNative_nodes (s : State) (t k : Nat) (x : Native) : (s.setNative t k x).nodes = s.nodes := rfl
@[simp] theorem State.setNative_regions (s : State) (t k : Nat) (x : Native) : (s.setNative t k x).regions = s.regions := rfl
@[simp] theorem State.setNative_signals (s : State) (t k : Nat) (x : Native) : (s.setNative t k x).signals = s.signals := rfl
@[simp] theorem State.setNative_reserve (s : State) (t k : Nat) (x : Native) : (s.setNative t k x).reserve = s.reserve := rfl
@[simp] theorem State.setNative_lastGen (s : State) (t k : Nat) (x : Native) : (s.setNative t k x).lastGen = s.lastGen := rfl
@[simp] theorem State.setNative_charges (s : State) (t k : Nat) (x : Native) : (s.setNative t k x).charges = s.charges := rfl
@[simp] theorem State.setNative_used (s : State) (t k : Nat) (x : Native) : (s.setNative t k x).used = s.used := rfl
@[simp] theorem State.setNative_mclost (s : State) (t k : Nat) (x : Native) : (s.setNative t k x).mclost = s.mclost := rfl
@[simp] theorem State.setNative_eolhours (s : State) (t k : Nat) (x : Native) : (s.setNative t k x).eolhours = s.eolhours := rfl
@[simp] theorem State.setNative_ring (s : State) (t k : Nat) (x : Native) : (s.setNative t k x).ring = s.ring := rfl
@[simp] theorem State.setNative_ep (s : State) (t k : Nat) (x : Native) : (s.setNative t k x).ep = s.ep := rfl
@[simp] theorem State.setNative_power (s : State) (t k : Nat) (x : Native) : (s.setNative t k x).power = s.power := rfl
@[simp] theorem State.setNative_ptp (s : State) (t k : Nat) (x : Native) : (s.setNative t k x).ptp = s.ptp := rfl
@[simp] theorem State.setNative_links (s : State) (t k : Nat) (x : Native) : (s.setNative t k x).links = s.links := rfl
@[simp] theorem State.setNative_free (s : State) (t k : Nat) (x : Native) : (s.setNative t k x).free = s.free := rfl
@[simp] theorem State.setNative_nextId (s : State) (t k : Nat) (x : Native) : (s.setNative t k x).nextId = s.nextId := rfl
@[simp] theorem State.setNative_here (s : State) (t k : Nat) (x : Native) : (s.setNative t k x).here = s.here := rfl
@[simp] theorem State.setNative_retired (s : State) (t k : Nat) (x : Native) : (s.setNative t k x).retired = s.retired := rfl
@[simp] theorem State.setNative_agenda (s : State) (t k : Nat) (x : Native) : (s.setNative t k x).agenda = s.agenda := rfl
@[simp] theorem State.setNative_words (s : State) (t k : Nat) (x : Native) : (s.setNative t k x).words = s.words := rfl
@[simp] theorem State.setNative_fuses (s : State) (t k : Nat) (x : Native) : (s.setNative t k x).fuses = s.fuses := rfl
@[simp] theorem State.setNative_thread (s : State) (t k : Nat) (x : Native) (u j : Nat) : (s.setNative t k x).thread u j = s.thread u j := rfl
@[simp] theorem State.setNative_tile (s : State) (t k : Nat) (x : Native) (u : Nat) : (s.setNative t k x).tile u = s.tile u := rfl
@[simp] theorem State.setNative_tap (s : State) (t k : Nat) (x : Native) (u : Nat) : (s.setNative t k x).tap u = s.tap u := rfl
@[simp] theorem State.setNative_mpt (s : State) (t k : Nat) (x : Native) (u : Nat) : (s.setNative t k x).mpt u = s.mpt u := rfl
@[simp] theorem State.setNative_byteAt (s : State) (t k : Nat) (x : Native) (a : Nat) : (s.setNative t k x).byteAt a = s.byteAt a := rfl
@[simp] theorem State.setNative_getBytes (s : State) (t k : Nat) (x : Native) (a n : Nat) : (s.setNative t k x).getBytes a n = s.getBytes a n := rfl
@[simp] theorem State.setNative_getNat (s : State) (t k : Nat) (x : Native) (a n : Nat) : (s.setNative t k x).getNat a n = s.getNat a n := rfl
@[simp] theorem State.setNative_isPoisoned (s : State) (t k : Nat) (x : Native) (a n : Nat) : (s.setNative t k x).isPoisoned a n = s.isPoisoned a n := rfl
@[simp] theorem State.setNative_isFull (s : State) (t k : Nat) (x : Native) (u a : Nat) : (s.setNative t k x).isFull u a = s.isFull u a := rfl
@[simp] theorem State.setNative_cur (s : State) (t k : Nat) (x : Native) : (s.setNative t k x).cur = s.cur := rfl
@[simp] theorem State.setNative_me (s : State) (t k : Nat) (x : Native) : (s.setNative t k x).me = s.me := rfl
@[simp] theorem State.setNative_hereTile (s : State) (t k : Nat) (x : Native) : (s.setNative t k x).hereTile = s.hereTile := rfl

@[simp] theorem State.setTap_part (s : State) (t : Nat) (x : Tap) : (s.setTap t x).part = s.part := rfl
@[simp] theorem State.setTap_hbm (s : State) (t : Nat) (x : Tap) : (s.setTap t x).hbm = s.hbm := rfl
@[simp] theorem State.setTap_cycle (s : State) (t : Nat) (x : Tap) : (s.setTap t x).cycle = s.cycle := rfl
@[simp] theorem State.setTap_tick (s : State) (t : Nat) (x : Tap) : (s.setTap t x).tick = s.tick := rfl
@[simp] theorem State.setTap_mem (s : State) (t : Nat) (x : Tap) : (s.setTap t x).mem = s.mem := rfl
@[simp] theorem State.setTap_poison (s : State) (t : Nat) (x : Tap) : (s.setTap t x).poison = s.poison := rfl
@[simp] theorem State.setTap_latent (s : State) (t : Nat) (x : Tap) : (s.setTap t x).latent = s.latent := rfl
@[simp] theorem State.setTap_hbmBad (s : State) (t : Nat) (x : Tap) : (s.setTap t x).hbmBad = s.hbmBad := rfl
@[simp] theorem State.setTap_full (s : State) (t : Nat) (x : Tap) : (s.setTap t x).full = s.full := rfl
@[simp] theorem State.setTap_threads (s : State) (t : Nat) (x : Tap) : (s.setTap t x).threads = s.threads := rfl
@[simp] theorem State.setTap_natives (s : State) (t : Nat) (x : Tap) : (s.setTap t x).natives = s.natives := rfl
@[simp] theorem State.setTap_shadows (s : State) (t : Nat) (x : Tap) : (s.setTap t x).shadows = s.shadows := rfl
@[simp] theorem State.setTap_aheads (s : State) (t : Nat) (x : Tap) : (s.setTap t x).aheads = s.aheads := rfl
@[simp] theorem State.setTap_tiles (s : State) (t : Nat) (x : Tap) : (s.setTap t x).tiles = s.tiles := rfl
@[simp] theorem State.setTap_mpts (s : State) (t : Nat) (x : Tap) : (s.setTap t x).mpts = s.mpts := rfl
@[simp] theorem State.setTap_net (s : State) (t : Nat) (x : Tap) : (s.setTap t x).net = s.net := rfl
@[simp] theorem State.setTap_arrived (s : State) (t : Nat) (x : Tap) : (s.setTap t x).arrived = s.arrived := rfl
@[simp] theorem State.setTap_unacked (s : State) (t : Nat) (x : Tap) : (s.setTap t x).unacked = s.unacked := rfl
@[simp] theorem State.setTap_copies (s : State) (t : Nat) (x : Tap) : (s.setTap t x).copies = s.copies := rfl
@[simp] theorem State.setTap_edges (s : State) (t : Nat) (x : Tap) : (s.setTap t x).edges = s.edges := rfl
@[simp] theorem State.setTap_collectives (s : State) (t : Nat) (x : Tap) : (s.setTap t x).collectives = s.collectives := rfl
@[simp] theorem State.setTap_nodes (s : State) (t : Nat) (x : Tap) : (s.setTap t x).nodes = s.nodes := rfl
@[simp] theorem State.setTap_regions (s : State) (t : Nat) (x : Tap) : (s.setTap t x).regions = s.regions := rfl
@[simp] theorem State.setTap_signals (s : State) (t : Nat) (x : Tap) : (s.setTap t x).signals = s.signals := rfl
@[simp] theorem State.setTap_reserve (s : State) (t : Nat) (x : Tap) : (s.setTap t x).reserve = s.reserve := rfl
@[simp] theorem State.setTap_lastGen (s : State) (t : Nat) (x : Tap) : (s.setTap t x).lastGen = s.lastGen := rfl
@[simp] theorem State.setTap_charges (s : State) (t : Nat) (x : Tap) : (s.setTap t x).charges = s.charges := rfl
@[simp] theorem State.setTap_used (s : State) (t : Nat) (x : Tap) : (s.setTap t x).used = s.used := rfl
@[simp] theorem State.setTap_mclost (s : State) (t : Nat) (x : Tap) : (s.setTap t x).mclost = s.mclost := rfl
@[simp] theorem State.setTap_eolhours (s : State) (t : Nat) (x : Tap) : (s.setTap t x).eolhours = s.eolhours := rfl
@[simp] theorem State.setTap_ring (s : State) (t : Nat) (x : Tap) : (s.setTap t x).ring = s.ring := rfl
@[simp] theorem State.setTap_ep (s : State) (t : Nat) (x : Tap) : (s.setTap t x).ep = s.ep := rfl
@[simp] theorem State.setTap_power (s : State) (t : Nat) (x : Tap) : (s.setTap t x).power = s.power := rfl
@[simp] theorem State.setTap_ptp (s : State) (t : Nat) (x : Tap) : (s.setTap t x).ptp = s.ptp := rfl
@[simp] theorem State.setTap_links (s : State) (t : Nat) (x : Tap) : (s.setTap t x).links = s.links := rfl
@[simp] theorem State.setTap_free (s : State) (t : Nat) (x : Tap) : (s.setTap t x).free = s.free := rfl
@[simp] theorem State.setTap_nextId (s : State) (t : Nat) (x : Tap) : (s.setTap t x).nextId = s.nextId := rfl
@[simp] theorem State.setTap_here (s : State) (t : Nat) (x : Tap) : (s.setTap t x).here = s.here := rfl
@[simp] theorem State.setTap_retired (s : State) (t : Nat) (x : Tap) : (s.setTap t x).retired = s.retired := rfl
@[simp] theorem State.setTap_agenda (s : State) (t : Nat) (x : Tap) : (s.setTap t x).agenda = s.agenda := rfl
@[simp] theorem State.setTap_words (s : State) (t : Nat) (x : Tap) : (s.setTap t x).words = s.words := rfl
@[simp] theorem State.setTap_fuses (s : State) (t : Nat) (x : Tap) : (s.setTap t x).fuses = s.fuses := rfl
@[simp] theorem State.setTap_thread (s : State) (t : Nat) (x : Tap) (u j : Nat) : (s.setTap t x).thread u j = s.thread u j := rfl
@[simp] theorem State.setTap_tile (s : State) (t : Nat) (x : Tap) (u : Nat) : (s.setTap t x).tile u = s.tile u := rfl
@[simp] theorem State.setTap_native (s : State) (t : Nat) (x : Tap) (u j : Nat) : (s.setTap t x).native u j = s.native u j := rfl
@[simp] theorem State.setTap_mpt (s : State) (t : Nat) (x : Tap) (u : Nat) : (s.setTap t x).mpt u = s.mpt u := rfl
@[simp] theorem State.setTap_byteAt (s : State) (t : Nat) (x : Tap) (a : Nat) : (s.setTap t x).byteAt a = s.byteAt a := rfl
@[simp] theorem State.setTap_getBytes (s : State) (t : Nat) (x : Tap) (a n : Nat) : (s.setTap t x).getBytes a n = s.getBytes a n := rfl
@[simp] theorem State.setTap_getNat (s : State) (t : Nat) (x : Tap) (a n : Nat) : (s.setTap t x).getNat a n = s.getNat a n := rfl
@[simp] theorem State.setTap_isPoisoned (s : State) (t : Nat) (x : Tap) (a n : Nat) : (s.setTap t x).isPoisoned a n = s.isPoisoned a n := rfl
@[simp] theorem State.setTap_isFull (s : State) (t : Nat) (x : Tap) (u a : Nat) : (s.setTap t x).isFull u a = s.isFull u a := rfl
@[simp] theorem State.setTap_cur (s : State) (t : Nat) (x : Tap) : (s.setTap t x).cur = s.cur := rfl
@[simp] theorem State.setTap_me (s : State) (t : Nat) (x : Tap) : (s.setTap t x).me = s.me := rfl
@[simp] theorem State.setTap_hereTile (s : State) (t : Nat) (x : Tap) : (s.setTap t x).hereTile = s.hereTile := rfl
@[simp] theorem State.setTap_myNative (s : State) (t : Nat) (x : Tap) : (s.setTap t x).myNative = s.myNative := rfl

@[simp] theorem State.setMpt_part (s : State) (m : Nat) (x : Mpt) : (s.setMpt m x).part = s.part := rfl
@[simp] theorem State.setMpt_hbm (s : State) (m : Nat) (x : Mpt) : (s.setMpt m x).hbm = s.hbm := rfl
@[simp] theorem State.setMpt_cycle (s : State) (m : Nat) (x : Mpt) : (s.setMpt m x).cycle = s.cycle := rfl
@[simp] theorem State.setMpt_tick (s : State) (m : Nat) (x : Mpt) : (s.setMpt m x).tick = s.tick := rfl
@[simp] theorem State.setMpt_mem (s : State) (m : Nat) (x : Mpt) : (s.setMpt m x).mem = s.mem := rfl
@[simp] theorem State.setMpt_poison (s : State) (m : Nat) (x : Mpt) : (s.setMpt m x).poison = s.poison := rfl
@[simp] theorem State.setMpt_latent (s : State) (m : Nat) (x : Mpt) : (s.setMpt m x).latent = s.latent := rfl
@[simp] theorem State.setMpt_hbmBad (s : State) (m : Nat) (x : Mpt) : (s.setMpt m x).hbmBad = s.hbmBad := rfl
@[simp] theorem State.setMpt_full (s : State) (m : Nat) (x : Mpt) : (s.setMpt m x).full = s.full := rfl
@[simp] theorem State.setMpt_threads (s : State) (m : Nat) (x : Mpt) : (s.setMpt m x).threads = s.threads := rfl
@[simp] theorem State.setMpt_natives (s : State) (m : Nat) (x : Mpt) : (s.setMpt m x).natives = s.natives := rfl
@[simp] theorem State.setMpt_shadows (s : State) (m : Nat) (x : Mpt) : (s.setMpt m x).shadows = s.shadows := rfl
@[simp] theorem State.setMpt_aheads (s : State) (m : Nat) (x : Mpt) : (s.setMpt m x).aheads = s.aheads := rfl
@[simp] theorem State.setMpt_tiles (s : State) (m : Nat) (x : Mpt) : (s.setMpt m x).tiles = s.tiles := rfl
@[simp] theorem State.setMpt_taps (s : State) (m : Nat) (x : Mpt) : (s.setMpt m x).taps = s.taps := rfl
@[simp] theorem State.setMpt_net (s : State) (m : Nat) (x : Mpt) : (s.setMpt m x).net = s.net := rfl
@[simp] theorem State.setMpt_arrived (s : State) (m : Nat) (x : Mpt) : (s.setMpt m x).arrived = s.arrived := rfl
@[simp] theorem State.setMpt_unacked (s : State) (m : Nat) (x : Mpt) : (s.setMpt m x).unacked = s.unacked := rfl
@[simp] theorem State.setMpt_copies (s : State) (m : Nat) (x : Mpt) : (s.setMpt m x).copies = s.copies := rfl
@[simp] theorem State.setMpt_edges (s : State) (m : Nat) (x : Mpt) : (s.setMpt m x).edges = s.edges := rfl
@[simp] theorem State.setMpt_collectives (s : State) (m : Nat) (x : Mpt) : (s.setMpt m x).collectives = s.collectives := rfl
@[simp] theorem State.setMpt_nodes (s : State) (m : Nat) (x : Mpt) : (s.setMpt m x).nodes = s.nodes := rfl
@[simp] theorem State.setMpt_regions (s : State) (m : Nat) (x : Mpt) : (s.setMpt m x).regions = s.regions := rfl
@[simp] theorem State.setMpt_signals (s : State) (m : Nat) (x : Mpt) : (s.setMpt m x).signals = s.signals := rfl
@[simp] theorem State.setMpt_reserve (s : State) (m : Nat) (x : Mpt) : (s.setMpt m x).reserve = s.reserve := rfl
@[simp] theorem State.setMpt_lastGen (s : State) (m : Nat) (x : Mpt) : (s.setMpt m x).lastGen = s.lastGen := rfl
@[simp] theorem State.setMpt_charges (s : State) (m : Nat) (x : Mpt) : (s.setMpt m x).charges = s.charges := rfl
@[simp] theorem State.setMpt_used (s : State) (m : Nat) (x : Mpt) : (s.setMpt m x).used = s.used := rfl
@[simp] theorem State.setMpt_mclost (s : State) (m : Nat) (x : Mpt) : (s.setMpt m x).mclost = s.mclost := rfl
@[simp] theorem State.setMpt_eolhours (s : State) (m : Nat) (x : Mpt) : (s.setMpt m x).eolhours = s.eolhours := rfl
@[simp] theorem State.setMpt_ring (s : State) (m : Nat) (x : Mpt) : (s.setMpt m x).ring = s.ring := rfl
@[simp] theorem State.setMpt_ep (s : State) (m : Nat) (x : Mpt) : (s.setMpt m x).ep = s.ep := rfl
@[simp] theorem State.setMpt_power (s : State) (m : Nat) (x : Mpt) : (s.setMpt m x).power = s.power := rfl
@[simp] theorem State.setMpt_ptp (s : State) (m : Nat) (x : Mpt) : (s.setMpt m x).ptp = s.ptp := rfl
@[simp] theorem State.setMpt_links (s : State) (m : Nat) (x : Mpt) : (s.setMpt m x).links = s.links := rfl
@[simp] theorem State.setMpt_free (s : State) (m : Nat) (x : Mpt) : (s.setMpt m x).free = s.free := rfl
@[simp] theorem State.setMpt_nextId (s : State) (m : Nat) (x : Mpt) : (s.setMpt m x).nextId = s.nextId := rfl
@[simp] theorem State.setMpt_here (s : State) (m : Nat) (x : Mpt) : (s.setMpt m x).here = s.here := rfl
@[simp] theorem State.setMpt_retired (s : State) (m : Nat) (x : Mpt) : (s.setMpt m x).retired = s.retired := rfl
@[simp] theorem State.setMpt_agenda (s : State) (m : Nat) (x : Mpt) : (s.setMpt m x).agenda = s.agenda := rfl
@[simp] theorem State.setMpt_words (s : State) (m : Nat) (x : Mpt) : (s.setMpt m x).words = s.words := rfl
@[simp] theorem State.setMpt_fuses (s : State) (m : Nat) (x : Mpt) : (s.setMpt m x).fuses = s.fuses := rfl
@[simp] theorem State.setMpt_thread (s : State) (m : Nat) (x : Mpt) (u j : Nat) : (s.setMpt m x).thread u j = s.thread u j := rfl
@[simp] theorem State.setMpt_tile (s : State) (m : Nat) (x : Mpt) (u : Nat) : (s.setMpt m x).tile u = s.tile u := rfl
@[simp] theorem State.setMpt_native (s : State) (m : Nat) (x : Mpt) (u j : Nat) : (s.setMpt m x).native u j = s.native u j := rfl
@[simp] theorem State.setMpt_tap (s : State) (m : Nat) (x : Mpt) (u : Nat) : (s.setMpt m x).tap u = s.tap u := rfl
@[simp] theorem State.setMpt_byteAt (s : State) (m : Nat) (x : Mpt) (a : Nat) : (s.setMpt m x).byteAt a = s.byteAt a := rfl
@[simp] theorem State.setMpt_getBytes (s : State) (m : Nat) (x : Mpt) (a n : Nat) : (s.setMpt m x).getBytes a n = s.getBytes a n := rfl
@[simp] theorem State.setMpt_getNat (s : State) (m : Nat) (x : Mpt) (a n : Nat) : (s.setMpt m x).getNat a n = s.getNat a n := rfl
@[simp] theorem State.setMpt_isPoisoned (s : State) (m : Nat) (x : Mpt) (a n : Nat) : (s.setMpt m x).isPoisoned a n = s.isPoisoned a n := rfl
@[simp] theorem State.setMpt_isFull (s : State) (m : Nat) (x : Mpt) (u a : Nat) : (s.setMpt m x).isFull u a = s.isFull u a := rfl
@[simp] theorem State.setMpt_cur (s : State) (m : Nat) (x : Mpt) : (s.setMpt m x).cur = s.cur := rfl
@[simp] theorem State.setMpt_me (s : State) (m : Nat) (x : Mpt) : (s.setMpt m x).me = s.me := rfl
@[simp] theorem State.setMpt_hereTile (s : State) (m : Nat) (x : Mpt) : (s.setMpt m x).hereTile = s.hereTile := rfl
@[simp] theorem State.setMpt_myNative (s : State) (m : Nat) (x : Mpt) : (s.setMpt m x).myNative = s.myNative := rfl

@[simp] theorem State.updTile_part (s : State) (t : Nat) (f : Tile → Tile) : (s.updTile t f).part = s.part := rfl
@[simp] theorem State.updTile_hbm (s : State) (t : Nat) (f : Tile → Tile) : (s.updTile t f).hbm = s.hbm := rfl
@[simp] theorem State.updTile_cycle (s : State) (t : Nat) (f : Tile → Tile) : (s.updTile t f).cycle = s.cycle := rfl
@[simp] theorem State.updTile_tick (s : State) (t : Nat) (f : Tile → Tile) : (s.updTile t f).tick = s.tick := rfl
@[simp] theorem State.updTile_mem (s : State) (t : Nat) (f : Tile → Tile) : (s.updTile t f).mem = s.mem := rfl
@[simp] theorem State.updTile_poison (s : State) (t : Nat) (f : Tile → Tile) : (s.updTile t f).poison = s.poison := rfl
@[simp] theorem State.updTile_latent (s : State) (t : Nat) (f : Tile → Tile) : (s.updTile t f).latent = s.latent := rfl
@[simp] theorem State.updTile_hbmBad (s : State) (t : Nat) (f : Tile → Tile) : (s.updTile t f).hbmBad = s.hbmBad := rfl
@[simp] theorem State.updTile_full (s : State) (t : Nat) (f : Tile → Tile) : (s.updTile t f).full = s.full := rfl
@[simp] theorem State.updTile_threads (s : State) (t : Nat) (f : Tile → Tile) : (s.updTile t f).threads = s.threads := rfl
@[simp] theorem State.updTile_natives (s : State) (t : Nat) (f : Tile → Tile) : (s.updTile t f).natives = s.natives := rfl
@[simp] theorem State.updTile_shadows (s : State) (t : Nat) (f : Tile → Tile) : (s.updTile t f).shadows = s.shadows := rfl
@[simp] theorem State.updTile_aheads (s : State) (t : Nat) (f : Tile → Tile) : (s.updTile t f).aheads = s.aheads := rfl
@[simp] theorem State.updTile_taps (s : State) (t : Nat) (f : Tile → Tile) : (s.updTile t f).taps = s.taps := rfl
@[simp] theorem State.updTile_mpts (s : State) (t : Nat) (f : Tile → Tile) : (s.updTile t f).mpts = s.mpts := rfl
@[simp] theorem State.updTile_net (s : State) (t : Nat) (f : Tile → Tile) : (s.updTile t f).net = s.net := rfl
@[simp] theorem State.updTile_arrived (s : State) (t : Nat) (f : Tile → Tile) : (s.updTile t f).arrived = s.arrived := rfl
@[simp] theorem State.updTile_unacked (s : State) (t : Nat) (f : Tile → Tile) : (s.updTile t f).unacked = s.unacked := rfl
@[simp] theorem State.updTile_copies (s : State) (t : Nat) (f : Tile → Tile) : (s.updTile t f).copies = s.copies := rfl
@[simp] theorem State.updTile_edges (s : State) (t : Nat) (f : Tile → Tile) : (s.updTile t f).edges = s.edges := rfl
@[simp] theorem State.updTile_collectives (s : State) (t : Nat) (f : Tile → Tile) : (s.updTile t f).collectives = s.collectives := rfl
@[simp] theorem State.updTile_nodes (s : State) (t : Nat) (f : Tile → Tile) : (s.updTile t f).nodes = s.nodes := rfl
@[simp] theorem State.updTile_regions (s : State) (t : Nat) (f : Tile → Tile) : (s.updTile t f).regions = s.regions := rfl
@[simp] theorem State.updTile_signals (s : State) (t : Nat) (f : Tile → Tile) : (s.updTile t f).signals = s.signals := rfl
@[simp] theorem State.updTile_reserve (s : State) (t : Nat) (f : Tile → Tile) : (s.updTile t f).reserve = s.reserve := rfl
@[simp] theorem State.updTile_lastGen (s : State) (t : Nat) (f : Tile → Tile) : (s.updTile t f).lastGen = s.lastGen := rfl
@[simp] theorem State.updTile_charges (s : State) (t : Nat) (f : Tile → Tile) : (s.updTile t f).charges = s.charges := rfl
@[simp] theorem State.updTile_used (s : State) (t : Nat) (f : Tile → Tile) : (s.updTile t f).used = s.used := rfl
@[simp] theorem State.updTile_mclost (s : State) (t : Nat) (f : Tile → Tile) : (s.updTile t f).mclost = s.mclost := rfl
@[simp] theorem State.updTile_eolhours (s : State) (t : Nat) (f : Tile → Tile) : (s.updTile t f).eolhours = s.eolhours := rfl
@[simp] theorem State.updTile_ring (s : State) (t : Nat) (f : Tile → Tile) : (s.updTile t f).ring = s.ring := rfl
@[simp] theorem State.updTile_ep (s : State) (t : Nat) (f : Tile → Tile) : (s.updTile t f).ep = s.ep := rfl
@[simp] theorem State.updTile_power (s : State) (t : Nat) (f : Tile → Tile) : (s.updTile t f).power = s.power := rfl
@[simp] theorem State.updTile_ptp (s : State) (t : Nat) (f : Tile → Tile) : (s.updTile t f).ptp = s.ptp := rfl
@[simp] theorem State.updTile_links (s : State) (t : Nat) (f : Tile → Tile) : (s.updTile t f).links = s.links := rfl
@[simp] theorem State.updTile_free (s : State) (t : Nat) (f : Tile → Tile) : (s.updTile t f).free = s.free := rfl
@[simp] theorem State.updTile_nextId (s : State) (t : Nat) (f : Tile → Tile) : (s.updTile t f).nextId = s.nextId := rfl
@[simp] theorem State.updTile_here (s : State) (t : Nat) (f : Tile → Tile) : (s.updTile t f).here = s.here := rfl
@[simp] theorem State.updTile_retired (s : State) (t : Nat) (f : Tile → Tile) : (s.updTile t f).retired = s.retired := rfl
@[simp] theorem State.updTile_agenda (s : State) (t : Nat) (f : Tile → Tile) : (s.updTile t f).agenda = s.agenda := rfl
@[simp] theorem State.updTile_words (s : State) (t : Nat) (f : Tile → Tile) : (s.updTile t f).words = s.words := rfl
@[simp] theorem State.updTile_fuses (s : State) (t : Nat) (f : Tile → Tile) : (s.updTile t f).fuses = s.fuses := rfl
@[simp] theorem State.updTile_thread (s : State) (t : Nat) (f : Tile → Tile) (u j : Nat) : (s.updTile t f).thread u j = s.thread u j := rfl
@[simp] theorem State.updTile_native (s : State) (t : Nat) (f : Tile → Tile) (u j : Nat) : (s.updTile t f).native u j = s.native u j := rfl
@[simp] theorem State.updTile_tap (s : State) (t : Nat) (f : Tile → Tile) (u : Nat) : (s.updTile t f).tap u = s.tap u := rfl
@[simp] theorem State.updTile_mpt (s : State) (t : Nat) (f : Tile → Tile) (u : Nat) : (s.updTile t f).mpt u = s.mpt u := rfl
@[simp] theorem State.updTile_byteAt (s : State) (t : Nat) (f : Tile → Tile) (a : Nat) : (s.updTile t f).byteAt a = s.byteAt a := rfl
@[simp] theorem State.updTile_getBytes (s : State) (t : Nat) (f : Tile → Tile) (a n : Nat) : (s.updTile t f).getBytes a n = s.getBytes a n := rfl
@[simp] theorem State.updTile_getNat (s : State) (t : Nat) (f : Tile → Tile) (a n : Nat) : (s.updTile t f).getNat a n = s.getNat a n := rfl
@[simp] theorem State.updTile_isPoisoned (s : State) (t : Nat) (f : Tile → Tile) (a n : Nat) : (s.updTile t f).isPoisoned a n = s.isPoisoned a n := rfl
@[simp] theorem State.updTile_isFull (s : State) (t : Nat) (f : Tile → Tile) (u a : Nat) : (s.updTile t f).isFull u a = s.isFull u a := rfl
@[simp] theorem State.updTile_cur (s : State) (t : Nat) (f : Tile → Tile) : (s.updTile t f).cur = s.cur := rfl
@[simp] theorem State.updTile_me (s : State) (t : Nat) (f : Tile → Tile) : (s.updTile t f).me = s.me := rfl
@[simp] theorem State.updTile_myNative (s : State) (t : Nat) (f : Tile → Tile) : (s.updTile t f).myNative = s.myNative := rfl

@[simp] theorem State.updHere_part (s : State) (f : Tile → Tile) : (s.updHere f).part = s.part := rfl
@[simp] theorem State.updHere_hbm (s : State) (f : Tile → Tile) : (s.updHere f).hbm = s.hbm := rfl
@[simp] theorem State.updHere_cycle (s : State) (f : Tile → Tile) : (s.updHere f).cycle = s.cycle := rfl
@[simp] theorem State.updHere_tick (s : State) (f : Tile → Tile) : (s.updHere f).tick = s.tick := rfl
@[simp] theorem State.updHere_mem (s : State) (f : Tile → Tile) : (s.updHere f).mem = s.mem := rfl
@[simp] theorem State.updHere_poison (s : State) (f : Tile → Tile) : (s.updHere f).poison = s.poison := rfl
@[simp] theorem State.updHere_latent (s : State) (f : Tile → Tile) : (s.updHere f).latent = s.latent := rfl
@[simp] theorem State.updHere_hbmBad (s : State) (f : Tile → Tile) : (s.updHere f).hbmBad = s.hbmBad := rfl
@[simp] theorem State.updHere_full (s : State) (f : Tile → Tile) : (s.updHere f).full = s.full := rfl
@[simp] theorem State.updHere_threads (s : State) (f : Tile → Tile) : (s.updHere f).threads = s.threads := rfl
@[simp] theorem State.updHere_natives (s : State) (f : Tile → Tile) : (s.updHere f).natives = s.natives := rfl
@[simp] theorem State.updHere_shadows (s : State) (f : Tile → Tile) : (s.updHere f).shadows = s.shadows := rfl
@[simp] theorem State.updHere_aheads (s : State) (f : Tile → Tile) : (s.updHere f).aheads = s.aheads := rfl
@[simp] theorem State.updHere_taps (s : State) (f : Tile → Tile) : (s.updHere f).taps = s.taps := rfl
@[simp] theorem State.updHere_mpts (s : State) (f : Tile → Tile) : (s.updHere f).mpts = s.mpts := rfl
@[simp] theorem State.updHere_net (s : State) (f : Tile → Tile) : (s.updHere f).net = s.net := rfl
@[simp] theorem State.updHere_arrived (s : State) (f : Tile → Tile) : (s.updHere f).arrived = s.arrived := rfl
@[simp] theorem State.updHere_unacked (s : State) (f : Tile → Tile) : (s.updHere f).unacked = s.unacked := rfl
@[simp] theorem State.updHere_copies (s : State) (f : Tile → Tile) : (s.updHere f).copies = s.copies := rfl
@[simp] theorem State.updHere_edges (s : State) (f : Tile → Tile) : (s.updHere f).edges = s.edges := rfl
@[simp] theorem State.updHere_collectives (s : State) (f : Tile → Tile) : (s.updHere f).collectives = s.collectives := rfl
@[simp] theorem State.updHere_nodes (s : State) (f : Tile → Tile) : (s.updHere f).nodes = s.nodes := rfl
@[simp] theorem State.updHere_regions (s : State) (f : Tile → Tile) : (s.updHere f).regions = s.regions := rfl
@[simp] theorem State.updHere_signals (s : State) (f : Tile → Tile) : (s.updHere f).signals = s.signals := rfl
@[simp] theorem State.updHere_reserve (s : State) (f : Tile → Tile) : (s.updHere f).reserve = s.reserve := rfl
@[simp] theorem State.updHere_lastGen (s : State) (f : Tile → Tile) : (s.updHere f).lastGen = s.lastGen := rfl
@[simp] theorem State.updHere_charges (s : State) (f : Tile → Tile) : (s.updHere f).charges = s.charges := rfl
@[simp] theorem State.updHere_used (s : State) (f : Tile → Tile) : (s.updHere f).used = s.used := rfl
@[simp] theorem State.updHere_mclost (s : State) (f : Tile → Tile) : (s.updHere f).mclost = s.mclost := rfl
@[simp] theorem State.updHere_eolhours (s : State) (f : Tile → Tile) : (s.updHere f).eolhours = s.eolhours := rfl
@[simp] theorem State.updHere_ring (s : State) (f : Tile → Tile) : (s.updHere f).ring = s.ring := rfl
@[simp] theorem State.updHere_ep (s : State) (f : Tile → Tile) : (s.updHere f).ep = s.ep := rfl
@[simp] theorem State.updHere_power (s : State) (f : Tile → Tile) : (s.updHere f).power = s.power := rfl
@[simp] theorem State.updHere_ptp (s : State) (f : Tile → Tile) : (s.updHere f).ptp = s.ptp := rfl
@[simp] theorem State.updHere_links (s : State) (f : Tile → Tile) : (s.updHere f).links = s.links := rfl
@[simp] theorem State.updHere_free (s : State) (f : Tile → Tile) : (s.updHere f).free = s.free := rfl
@[simp] theorem State.updHere_nextId (s : State) (f : Tile → Tile) : (s.updHere f).nextId = s.nextId := rfl
@[simp] theorem State.updHere_here (s : State) (f : Tile → Tile) : (s.updHere f).here = s.here := rfl
@[simp] theorem State.updHere_retired (s : State) (f : Tile → Tile) : (s.updHere f).retired = s.retired := rfl
@[simp] theorem State.updHere_agenda (s : State) (f : Tile → Tile) : (s.updHere f).agenda = s.agenda := rfl
@[simp] theorem State.updHere_words (s : State) (f : Tile → Tile) : (s.updHere f).words = s.words := rfl
@[simp] theorem State.updHere_fuses (s : State) (f : Tile → Tile) : (s.updHere f).fuses = s.fuses := rfl
@[simp] theorem State.updHere_thread (s : State) (f : Tile → Tile) (u j : Nat) : (s.updHere f).thread u j = s.thread u j := rfl
@[simp] theorem State.updHere_native (s : State) (f : Tile → Tile) (u j : Nat) : (s.updHere f).native u j = s.native u j := rfl
@[simp] theorem State.updHere_tap (s : State) (f : Tile → Tile) (u : Nat) : (s.updHere f).tap u = s.tap u := rfl
@[simp] theorem State.updHere_mpt (s : State) (f : Tile → Tile) (u : Nat) : (s.updHere f).mpt u = s.mpt u := rfl
@[simp] theorem State.updHere_byteAt (s : State) (f : Tile → Tile) (a : Nat) : (s.updHere f).byteAt a = s.byteAt a := rfl
@[simp] theorem State.updHere_getBytes (s : State) (f : Tile → Tile) (a n : Nat) : (s.updHere f).getBytes a n = s.getBytes a n := rfl
@[simp] theorem State.updHere_getNat (s : State) (f : Tile → Tile) (a n : Nat) : (s.updHere f).getNat a n = s.getNat a n := rfl
@[simp] theorem State.updHere_isPoisoned (s : State) (f : Tile → Tile) (a n : Nat) : (s.updHere f).isPoisoned a n = s.isPoisoned a n := rfl
@[simp] theorem State.updHere_isFull (s : State) (f : Tile → Tile) (u a : Nat) : (s.updHere f).isFull u a = s.isFull u a := rfl
@[simp] theorem State.updHere_cur (s : State) (f : Tile → Tile) : (s.updHere f).cur = s.cur := rfl
@[simp] theorem State.updHere_me (s : State) (f : Tile → Tile) : (s.updHere f).me = s.me := rfl
@[simp] theorem State.updHere_myNative (s : State) (f : Tile → Tile) : (s.updHere f).myNative = s.myNative := rfl

@[simp] theorem State.updNative_part (s : State) (t k : Nat) (f : Native → Native) : (s.updNative t k f).part = s.part := rfl
@[simp] theorem State.updNative_hbm (s : State) (t k : Nat) (f : Native → Native) : (s.updNative t k f).hbm = s.hbm := rfl
@[simp] theorem State.updNative_cycle (s : State) (t k : Nat) (f : Native → Native) : (s.updNative t k f).cycle = s.cycle := rfl
@[simp] theorem State.updNative_tick (s : State) (t k : Nat) (f : Native → Native) : (s.updNative t k f).tick = s.tick := rfl
@[simp] theorem State.updNative_mem (s : State) (t k : Nat) (f : Native → Native) : (s.updNative t k f).mem = s.mem := rfl
@[simp] theorem State.updNative_poison (s : State) (t k : Nat) (f : Native → Native) : (s.updNative t k f).poison = s.poison := rfl
@[simp] theorem State.updNative_latent (s : State) (t k : Nat) (f : Native → Native) : (s.updNative t k f).latent = s.latent := rfl
@[simp] theorem State.updNative_hbmBad (s : State) (t k : Nat) (f : Native → Native) : (s.updNative t k f).hbmBad = s.hbmBad := rfl
@[simp] theorem State.updNative_full (s : State) (t k : Nat) (f : Native → Native) : (s.updNative t k f).full = s.full := rfl
@[simp] theorem State.updNative_threads (s : State) (t k : Nat) (f : Native → Native) : (s.updNative t k f).threads = s.threads := rfl
@[simp] theorem State.updNative_shadows (s : State) (t k : Nat) (f : Native → Native) : (s.updNative t k f).shadows = s.shadows := rfl
@[simp] theorem State.updNative_aheads (s : State) (t k : Nat) (f : Native → Native) : (s.updNative t k f).aheads = s.aheads := rfl
@[simp] theorem State.updNative_tiles (s : State) (t k : Nat) (f : Native → Native) : (s.updNative t k f).tiles = s.tiles := rfl
@[simp] theorem State.updNative_taps (s : State) (t k : Nat) (f : Native → Native) : (s.updNative t k f).taps = s.taps := rfl
@[simp] theorem State.updNative_mpts (s : State) (t k : Nat) (f : Native → Native) : (s.updNative t k f).mpts = s.mpts := rfl
@[simp] theorem State.updNative_net (s : State) (t k : Nat) (f : Native → Native) : (s.updNative t k f).net = s.net := rfl
@[simp] theorem State.updNative_arrived (s : State) (t k : Nat) (f : Native → Native) : (s.updNative t k f).arrived = s.arrived := rfl
@[simp] theorem State.updNative_unacked (s : State) (t k : Nat) (f : Native → Native) : (s.updNative t k f).unacked = s.unacked := rfl
@[simp] theorem State.updNative_copies (s : State) (t k : Nat) (f : Native → Native) : (s.updNative t k f).copies = s.copies := rfl
@[simp] theorem State.updNative_edges (s : State) (t k : Nat) (f : Native → Native) : (s.updNative t k f).edges = s.edges := rfl
@[simp] theorem State.updNative_collectives (s : State) (t k : Nat) (f : Native → Native) : (s.updNative t k f).collectives = s.collectives := rfl
@[simp] theorem State.updNative_nodes (s : State) (t k : Nat) (f : Native → Native) : (s.updNative t k f).nodes = s.nodes := rfl
@[simp] theorem State.updNative_regions (s : State) (t k : Nat) (f : Native → Native) : (s.updNative t k f).regions = s.regions := rfl
@[simp] theorem State.updNative_signals (s : State) (t k : Nat) (f : Native → Native) : (s.updNative t k f).signals = s.signals := rfl
@[simp] theorem State.updNative_reserve (s : State) (t k : Nat) (f : Native → Native) : (s.updNative t k f).reserve = s.reserve := rfl
@[simp] theorem State.updNative_lastGen (s : State) (t k : Nat) (f : Native → Native) : (s.updNative t k f).lastGen = s.lastGen := rfl
@[simp] theorem State.updNative_charges (s : State) (t k : Nat) (f : Native → Native) : (s.updNative t k f).charges = s.charges := rfl
@[simp] theorem State.updNative_used (s : State) (t k : Nat) (f : Native → Native) : (s.updNative t k f).used = s.used := rfl
@[simp] theorem State.updNative_mclost (s : State) (t k : Nat) (f : Native → Native) : (s.updNative t k f).mclost = s.mclost := rfl
@[simp] theorem State.updNative_eolhours (s : State) (t k : Nat) (f : Native → Native) : (s.updNative t k f).eolhours = s.eolhours := rfl
@[simp] theorem State.updNative_ring (s : State) (t k : Nat) (f : Native → Native) : (s.updNative t k f).ring = s.ring := rfl
@[simp] theorem State.updNative_ep (s : State) (t k : Nat) (f : Native → Native) : (s.updNative t k f).ep = s.ep := rfl
@[simp] theorem State.updNative_power (s : State) (t k : Nat) (f : Native → Native) : (s.updNative t k f).power = s.power := rfl
@[simp] theorem State.updNative_ptp (s : State) (t k : Nat) (f : Native → Native) : (s.updNative t k f).ptp = s.ptp := rfl
@[simp] theorem State.updNative_links (s : State) (t k : Nat) (f : Native → Native) : (s.updNative t k f).links = s.links := rfl
@[simp] theorem State.updNative_free (s : State) (t k : Nat) (f : Native → Native) : (s.updNative t k f).free = s.free := rfl
@[simp] theorem State.updNative_nextId (s : State) (t k : Nat) (f : Native → Native) : (s.updNative t k f).nextId = s.nextId := rfl
@[simp] theorem State.updNative_here (s : State) (t k : Nat) (f : Native → Native) : (s.updNative t k f).here = s.here := rfl
@[simp] theorem State.updNative_retired (s : State) (t k : Nat) (f : Native → Native) : (s.updNative t k f).retired = s.retired := rfl
@[simp] theorem State.updNative_agenda (s : State) (t k : Nat) (f : Native → Native) : (s.updNative t k f).agenda = s.agenda := rfl
@[simp] theorem State.updNative_words (s : State) (t k : Nat) (f : Native → Native) : (s.updNative t k f).words = s.words := rfl
@[simp] theorem State.updNative_fuses (s : State) (t k : Nat) (f : Native → Native) : (s.updNative t k f).fuses = s.fuses := rfl
@[simp] theorem State.updNative_thread (s : State) (t k : Nat) (f : Native → Native) (u j : Nat) : (s.updNative t k f).thread u j = s.thread u j := rfl
@[simp] theorem State.updNative_tile (s : State) (t k : Nat) (f : Native → Native) (u : Nat) : (s.updNative t k f).tile u = s.tile u := rfl
@[simp] theorem State.updNative_tap (s : State) (t k : Nat) (f : Native → Native) (u : Nat) : (s.updNative t k f).tap u = s.tap u := rfl
@[simp] theorem State.updNative_mpt (s : State) (t k : Nat) (f : Native → Native) (u : Nat) : (s.updNative t k f).mpt u = s.mpt u := rfl
@[simp] theorem State.updNative_byteAt (s : State) (t k : Nat) (f : Native → Native) (a : Nat) : (s.updNative t k f).byteAt a = s.byteAt a := rfl
@[simp] theorem State.updNative_getBytes (s : State) (t k : Nat) (f : Native → Native) (a n : Nat) : (s.updNative t k f).getBytes a n = s.getBytes a n := rfl
@[simp] theorem State.updNative_getNat (s : State) (t k : Nat) (f : Native → Native) (a n : Nat) : (s.updNative t k f).getNat a n = s.getNat a n := rfl
@[simp] theorem State.updNative_isPoisoned (s : State) (t k : Nat) (f : Native → Native) (a n : Nat) : (s.updNative t k f).isPoisoned a n = s.isPoisoned a n := rfl
@[simp] theorem State.updNative_isFull (s : State) (t k : Nat) (f : Native → Native) (u a : Nat) : (s.updNative t k f).isFull u a = s.isFull u a := rfl
@[simp] theorem State.updNative_cur (s : State) (t k : Nat) (f : Native → Native) : (s.updNative t k f).cur = s.cur := rfl
@[simp] theorem State.updNative_me (s : State) (t k : Nat) (f : Native → Native) : (s.updNative t k f).me = s.me := rfl
@[simp] theorem State.updNative_hereTile (s : State) (t k : Nat) (f : Native → Native) : (s.updNative t k f).hereTile = s.hereTile := rfl

@[simp] theorem State.updMyNative_part (s : State) (f : Native → Native) : (s.updMyNative f).part = s.part := rfl
@[simp] theorem State.updMyNative_hbm (s : State) (f : Native → Native) : (s.updMyNative f).hbm = s.hbm := rfl
@[simp] theorem State.updMyNative_cycle (s : State) (f : Native → Native) : (s.updMyNative f).cycle = s.cycle := rfl
@[simp] theorem State.updMyNative_tick (s : State) (f : Native → Native) : (s.updMyNative f).tick = s.tick := rfl
@[simp] theorem State.updMyNative_mem (s : State) (f : Native → Native) : (s.updMyNative f).mem = s.mem := rfl
@[simp] theorem State.updMyNative_poison (s : State) (f : Native → Native) : (s.updMyNative f).poison = s.poison := rfl
@[simp] theorem State.updMyNative_latent (s : State) (f : Native → Native) : (s.updMyNative f).latent = s.latent := rfl
@[simp] theorem State.updMyNative_hbmBad (s : State) (f : Native → Native) : (s.updMyNative f).hbmBad = s.hbmBad := rfl
@[simp] theorem State.updMyNative_full (s : State) (f : Native → Native) : (s.updMyNative f).full = s.full := rfl
@[simp] theorem State.updMyNative_threads (s : State) (f : Native → Native) : (s.updMyNative f).threads = s.threads := rfl
@[simp] theorem State.updMyNative_shadows (s : State) (f : Native → Native) : (s.updMyNative f).shadows = s.shadows := rfl
@[simp] theorem State.updMyNative_aheads (s : State) (f : Native → Native) : (s.updMyNative f).aheads = s.aheads := rfl
@[simp] theorem State.updMyNative_tiles (s : State) (f : Native → Native) : (s.updMyNative f).tiles = s.tiles := rfl
@[simp] theorem State.updMyNative_taps (s : State) (f : Native → Native) : (s.updMyNative f).taps = s.taps := rfl
@[simp] theorem State.updMyNative_mpts (s : State) (f : Native → Native) : (s.updMyNative f).mpts = s.mpts := rfl
@[simp] theorem State.updMyNative_net (s : State) (f : Native → Native) : (s.updMyNative f).net = s.net := rfl
@[simp] theorem State.updMyNative_arrived (s : State) (f : Native → Native) : (s.updMyNative f).arrived = s.arrived := rfl
@[simp] theorem State.updMyNative_unacked (s : State) (f : Native → Native) : (s.updMyNative f).unacked = s.unacked := rfl
@[simp] theorem State.updMyNative_copies (s : State) (f : Native → Native) : (s.updMyNative f).copies = s.copies := rfl
@[simp] theorem State.updMyNative_edges (s : State) (f : Native → Native) : (s.updMyNative f).edges = s.edges := rfl
@[simp] theorem State.updMyNative_collectives (s : State) (f : Native → Native) : (s.updMyNative f).collectives = s.collectives := rfl
@[simp] theorem State.updMyNative_nodes (s : State) (f : Native → Native) : (s.updMyNative f).nodes = s.nodes := rfl
@[simp] theorem State.updMyNative_regions (s : State) (f : Native → Native) : (s.updMyNative f).regions = s.regions := rfl
@[simp] theorem State.updMyNative_signals (s : State) (f : Native → Native) : (s.updMyNative f).signals = s.signals := rfl
@[simp] theorem State.updMyNative_reserve (s : State) (f : Native → Native) : (s.updMyNative f).reserve = s.reserve := rfl
@[simp] theorem State.updMyNative_lastGen (s : State) (f : Native → Native) : (s.updMyNative f).lastGen = s.lastGen := rfl
@[simp] theorem State.updMyNative_charges (s : State) (f : Native → Native) : (s.updMyNative f).charges = s.charges := rfl
@[simp] theorem State.updMyNative_used (s : State) (f : Native → Native) : (s.updMyNative f).used = s.used := rfl
@[simp] theorem State.updMyNative_mclost (s : State) (f : Native → Native) : (s.updMyNative f).mclost = s.mclost := rfl
@[simp] theorem State.updMyNative_eolhours (s : State) (f : Native → Native) : (s.updMyNative f).eolhours = s.eolhours := rfl
@[simp] theorem State.updMyNative_ring (s : State) (f : Native → Native) : (s.updMyNative f).ring = s.ring := rfl
@[simp] theorem State.updMyNative_ep (s : State) (f : Native → Native) : (s.updMyNative f).ep = s.ep := rfl
@[simp] theorem State.updMyNative_power (s : State) (f : Native → Native) : (s.updMyNative f).power = s.power := rfl
@[simp] theorem State.updMyNative_ptp (s : State) (f : Native → Native) : (s.updMyNative f).ptp = s.ptp := rfl
@[simp] theorem State.updMyNative_links (s : State) (f : Native → Native) : (s.updMyNative f).links = s.links := rfl
@[simp] theorem State.updMyNative_free (s : State) (f : Native → Native) : (s.updMyNative f).free = s.free := rfl
@[simp] theorem State.updMyNative_nextId (s : State) (f : Native → Native) : (s.updMyNative f).nextId = s.nextId := rfl
@[simp] theorem State.updMyNative_here (s : State) (f : Native → Native) : (s.updMyNative f).here = s.here := rfl
@[simp] theorem State.updMyNative_retired (s : State) (f : Native → Native) : (s.updMyNative f).retired = s.retired := rfl
@[simp] theorem State.updMyNative_agenda (s : State) (f : Native → Native) : (s.updMyNative f).agenda = s.agenda := rfl
@[simp] theorem State.updMyNative_words (s : State) (f : Native → Native) : (s.updMyNative f).words = s.words := rfl
@[simp] theorem State.updMyNative_fuses (s : State) (f : Native → Native) : (s.updMyNative f).fuses = s.fuses := rfl
@[simp] theorem State.updMyNative_thread (s : State) (f : Native → Native) (u j : Nat) : (s.updMyNative f).thread u j = s.thread u j := rfl
@[simp] theorem State.updMyNative_tile (s : State) (f : Native → Native) (u : Nat) : (s.updMyNative f).tile u = s.tile u := rfl
@[simp] theorem State.updMyNative_tap (s : State) (f : Native → Native) (u : Nat) : (s.updMyNative f).tap u = s.tap u := rfl
@[simp] theorem State.updMyNative_mpt (s : State) (f : Native → Native) (u : Nat) : (s.updMyNative f).mpt u = s.mpt u := rfl
@[simp] theorem State.updMyNative_byteAt (s : State) (f : Native → Native) (a : Nat) : (s.updMyNative f).byteAt a = s.byteAt a := rfl
@[simp] theorem State.updMyNative_getBytes (s : State) (f : Native → Native) (a n : Nat) : (s.updMyNative f).getBytes a n = s.getBytes a n := rfl
@[simp] theorem State.updMyNative_getNat (s : State) (f : Native → Native) (a n : Nat) : (s.updMyNative f).getNat a n = s.getNat a n := rfl
@[simp] theorem State.updMyNative_isPoisoned (s : State) (f : Native → Native) (a n : Nat) : (s.updMyNative f).isPoisoned a n = s.isPoisoned a n := rfl
@[simp] theorem State.updMyNative_isFull (s : State) (f : Native → Native) (u a : Nat) : (s.updMyNative f).isFull u a = s.isFull u a := rfl
@[simp] theorem State.updMyNative_cur (s : State) (f : Native → Native) : (s.updMyNative f).cur = s.cur := rfl
@[simp] theorem State.updMyNative_me (s : State) (f : Native → Native) : (s.updMyNative f).me = s.me := rfl
@[simp] theorem State.updMyNative_hereTile (s : State) (f : Native → Native) : (s.updMyNative f).hereTile = s.hereTile := rfl

@[simp] theorem State.updMpt_part (s : State) (m : Nat) (f : Mpt → Mpt) : (s.updMpt m f).part = s.part := rfl
@[simp] theorem State.updMpt_hbm (s : State) (m : Nat) (f : Mpt → Mpt) : (s.updMpt m f).hbm = s.hbm := rfl
@[simp] theorem State.updMpt_cycle (s : State) (m : Nat) (f : Mpt → Mpt) : (s.updMpt m f).cycle = s.cycle := rfl
@[simp] theorem State.updMpt_tick (s : State) (m : Nat) (f : Mpt → Mpt) : (s.updMpt m f).tick = s.tick := rfl
@[simp] theorem State.updMpt_mem (s : State) (m : Nat) (f : Mpt → Mpt) : (s.updMpt m f).mem = s.mem := rfl
@[simp] theorem State.updMpt_poison (s : State) (m : Nat) (f : Mpt → Mpt) : (s.updMpt m f).poison = s.poison := rfl
@[simp] theorem State.updMpt_latent (s : State) (m : Nat) (f : Mpt → Mpt) : (s.updMpt m f).latent = s.latent := rfl
@[simp] theorem State.updMpt_hbmBad (s : State) (m : Nat) (f : Mpt → Mpt) : (s.updMpt m f).hbmBad = s.hbmBad := rfl
@[simp] theorem State.updMpt_full (s : State) (m : Nat) (f : Mpt → Mpt) : (s.updMpt m f).full = s.full := rfl
@[simp] theorem State.updMpt_threads (s : State) (m : Nat) (f : Mpt → Mpt) : (s.updMpt m f).threads = s.threads := rfl
@[simp] theorem State.updMpt_natives (s : State) (m : Nat) (f : Mpt → Mpt) : (s.updMpt m f).natives = s.natives := rfl
@[simp] theorem State.updMpt_shadows (s : State) (m : Nat) (f : Mpt → Mpt) : (s.updMpt m f).shadows = s.shadows := rfl
@[simp] theorem State.updMpt_aheads (s : State) (m : Nat) (f : Mpt → Mpt) : (s.updMpt m f).aheads = s.aheads := rfl
@[simp] theorem State.updMpt_tiles (s : State) (m : Nat) (f : Mpt → Mpt) : (s.updMpt m f).tiles = s.tiles := rfl
@[simp] theorem State.updMpt_taps (s : State) (m : Nat) (f : Mpt → Mpt) : (s.updMpt m f).taps = s.taps := rfl
@[simp] theorem State.updMpt_net (s : State) (m : Nat) (f : Mpt → Mpt) : (s.updMpt m f).net = s.net := rfl
@[simp] theorem State.updMpt_arrived (s : State) (m : Nat) (f : Mpt → Mpt) : (s.updMpt m f).arrived = s.arrived := rfl
@[simp] theorem State.updMpt_unacked (s : State) (m : Nat) (f : Mpt → Mpt) : (s.updMpt m f).unacked = s.unacked := rfl
@[simp] theorem State.updMpt_copies (s : State) (m : Nat) (f : Mpt → Mpt) : (s.updMpt m f).copies = s.copies := rfl
@[simp] theorem State.updMpt_edges (s : State) (m : Nat) (f : Mpt → Mpt) : (s.updMpt m f).edges = s.edges := rfl
@[simp] theorem State.updMpt_collectives (s : State) (m : Nat) (f : Mpt → Mpt) : (s.updMpt m f).collectives = s.collectives := rfl
@[simp] theorem State.updMpt_nodes (s : State) (m : Nat) (f : Mpt → Mpt) : (s.updMpt m f).nodes = s.nodes := rfl
@[simp] theorem State.updMpt_regions (s : State) (m : Nat) (f : Mpt → Mpt) : (s.updMpt m f).regions = s.regions := rfl
@[simp] theorem State.updMpt_signals (s : State) (m : Nat) (f : Mpt → Mpt) : (s.updMpt m f).signals = s.signals := rfl
@[simp] theorem State.updMpt_reserve (s : State) (m : Nat) (f : Mpt → Mpt) : (s.updMpt m f).reserve = s.reserve := rfl
@[simp] theorem State.updMpt_lastGen (s : State) (m : Nat) (f : Mpt → Mpt) : (s.updMpt m f).lastGen = s.lastGen := rfl
@[simp] theorem State.updMpt_charges (s : State) (m : Nat) (f : Mpt → Mpt) : (s.updMpt m f).charges = s.charges := rfl
@[simp] theorem State.updMpt_used (s : State) (m : Nat) (f : Mpt → Mpt) : (s.updMpt m f).used = s.used := rfl
@[simp] theorem State.updMpt_mclost (s : State) (m : Nat) (f : Mpt → Mpt) : (s.updMpt m f).mclost = s.mclost := rfl
@[simp] theorem State.updMpt_eolhours (s : State) (m : Nat) (f : Mpt → Mpt) : (s.updMpt m f).eolhours = s.eolhours := rfl
@[simp] theorem State.updMpt_ring (s : State) (m : Nat) (f : Mpt → Mpt) : (s.updMpt m f).ring = s.ring := rfl
@[simp] theorem State.updMpt_ep (s : State) (m : Nat) (f : Mpt → Mpt) : (s.updMpt m f).ep = s.ep := rfl
@[simp] theorem State.updMpt_power (s : State) (m : Nat) (f : Mpt → Mpt) : (s.updMpt m f).power = s.power := rfl
@[simp] theorem State.updMpt_ptp (s : State) (m : Nat) (f : Mpt → Mpt) : (s.updMpt m f).ptp = s.ptp := rfl
@[simp] theorem State.updMpt_links (s : State) (m : Nat) (f : Mpt → Mpt) : (s.updMpt m f).links = s.links := rfl
@[simp] theorem State.updMpt_free (s : State) (m : Nat) (f : Mpt → Mpt) : (s.updMpt m f).free = s.free := rfl
@[simp] theorem State.updMpt_nextId (s : State) (m : Nat) (f : Mpt → Mpt) : (s.updMpt m f).nextId = s.nextId := rfl
@[simp] theorem State.updMpt_here (s : State) (m : Nat) (f : Mpt → Mpt) : (s.updMpt m f).here = s.here := rfl
@[simp] theorem State.updMpt_retired (s : State) (m : Nat) (f : Mpt → Mpt) : (s.updMpt m f).retired = s.retired := rfl
@[simp] theorem State.updMpt_agenda (s : State) (m : Nat) (f : Mpt → Mpt) : (s.updMpt m f).agenda = s.agenda := rfl
@[simp] theorem State.updMpt_words (s : State) (m : Nat) (f : Mpt → Mpt) : (s.updMpt m f).words = s.words := rfl
@[simp] theorem State.updMpt_fuses (s : State) (m : Nat) (f : Mpt → Mpt) : (s.updMpt m f).fuses = s.fuses := rfl
@[simp] theorem State.updMpt_thread (s : State) (m : Nat) (f : Mpt → Mpt) (u j : Nat) : (s.updMpt m f).thread u j = s.thread u j := rfl
@[simp] theorem State.updMpt_tile (s : State) (m : Nat) (f : Mpt → Mpt) (u : Nat) : (s.updMpt m f).tile u = s.tile u := rfl
@[simp] theorem State.updMpt_native (s : State) (m : Nat) (f : Mpt → Mpt) (u j : Nat) : (s.updMpt m f).native u j = s.native u j := rfl
@[simp] theorem State.updMpt_tap (s : State) (m : Nat) (f : Mpt → Mpt) (u : Nat) : (s.updMpt m f).tap u = s.tap u := rfl
@[simp] theorem State.updMpt_byteAt (s : State) (m : Nat) (f : Mpt → Mpt) (a : Nat) : (s.updMpt m f).byteAt a = s.byteAt a := rfl
@[simp] theorem State.updMpt_getBytes (s : State) (m : Nat) (f : Mpt → Mpt) (a n : Nat) : (s.updMpt m f).getBytes a n = s.getBytes a n := rfl
@[simp] theorem State.updMpt_getNat (s : State) (m : Nat) (f : Mpt → Mpt) (a n : Nat) : (s.updMpt m f).getNat a n = s.getNat a n := rfl
@[simp] theorem State.updMpt_isPoisoned (s : State) (m : Nat) (f : Mpt → Mpt) (a n : Nat) : (s.updMpt m f).isPoisoned a n = s.isPoisoned a n := rfl
@[simp] theorem State.updMpt_isFull (s : State) (m : Nat) (f : Mpt → Mpt) (u a : Nat) : (s.updMpt m f).isFull u a = s.isFull u a := rfl
@[simp] theorem State.updMpt_cur (s : State) (m : Nat) (f : Mpt → Mpt) : (s.updMpt m f).cur = s.cur := rfl
@[simp] theorem State.updMpt_me (s : State) (m : Nat) (f : Mpt → Mpt) : (s.updMpt m f).me = s.me := rfl
@[simp] theorem State.updMpt_hereTile (s : State) (m : Nat) (f : Mpt → Mpt) : (s.updMpt m f).hereTile = s.hereTile := rfl
@[simp] theorem State.updMpt_myNative (s : State) (m : Nat) (f : Mpt → Mpt) : (s.updMpt m f).myNative = s.myNative := rfl

@[simp] theorem State.putBytes_part (s : State) (p : Nat) (bs : List Byte) : (s.putBytes p bs).part = s.part := rfl
@[simp] theorem State.putBytes_hbm (s : State) (p : Nat) (bs : List Byte) : (s.putBytes p bs).hbm = s.hbm := rfl
@[simp] theorem State.putBytes_cycle (s : State) (p : Nat) (bs : List Byte) : (s.putBytes p bs).cycle = s.cycle := rfl
@[simp] theorem State.putBytes_tick (s : State) (p : Nat) (bs : List Byte) : (s.putBytes p bs).tick = s.tick := rfl
@[simp] theorem State.putBytes_full (s : State) (p : Nat) (bs : List Byte) : (s.putBytes p bs).full = s.full := rfl
@[simp] theorem State.putBytes_threads (s : State) (p : Nat) (bs : List Byte) : (s.putBytes p bs).threads = s.threads := rfl
@[simp] theorem State.putBytes_natives (s : State) (p : Nat) (bs : List Byte) : (s.putBytes p bs).natives = s.natives := rfl
@[simp] theorem State.putBytes_shadows (s : State) (p : Nat) (bs : List Byte) : (s.putBytes p bs).shadows = s.shadows := rfl
@[simp] theorem State.putBytes_aheads (s : State) (p : Nat) (bs : List Byte) : (s.putBytes p bs).aheads = s.aheads := rfl
@[simp] theorem State.putBytes_tiles (s : State) (p : Nat) (bs : List Byte) : (s.putBytes p bs).tiles = s.tiles := rfl
@[simp] theorem State.putBytes_taps (s : State) (p : Nat) (bs : List Byte) : (s.putBytes p bs).taps = s.taps := rfl
@[simp] theorem State.putBytes_mpts (s : State) (p : Nat) (bs : List Byte) : (s.putBytes p bs).mpts = s.mpts := rfl
@[simp] theorem State.putBytes_net (s : State) (p : Nat) (bs : List Byte) : (s.putBytes p bs).net = s.net := rfl
@[simp] theorem State.putBytes_arrived (s : State) (p : Nat) (bs : List Byte) : (s.putBytes p bs).arrived = s.arrived := rfl
@[simp] theorem State.putBytes_unacked (s : State) (p : Nat) (bs : List Byte) : (s.putBytes p bs).unacked = s.unacked := rfl
@[simp] theorem State.putBytes_copies (s : State) (p : Nat) (bs : List Byte) : (s.putBytes p bs).copies = s.copies := rfl
@[simp] theorem State.putBytes_edges (s : State) (p : Nat) (bs : List Byte) : (s.putBytes p bs).edges = s.edges := rfl
@[simp] theorem State.putBytes_collectives (s : State) (p : Nat) (bs : List Byte) : (s.putBytes p bs).collectives = s.collectives := rfl
@[simp] theorem State.putBytes_nodes (s : State) (p : Nat) (bs : List Byte) : (s.putBytes p bs).nodes = s.nodes := rfl
@[simp] theorem State.putBytes_regions (s : State) (p : Nat) (bs : List Byte) : (s.putBytes p bs).regions = s.regions := rfl
@[simp] theorem State.putBytes_signals (s : State) (p : Nat) (bs : List Byte) : (s.putBytes p bs).signals = s.signals := rfl
@[simp] theorem State.putBytes_reserve (s : State) (p : Nat) (bs : List Byte) : (s.putBytes p bs).reserve = s.reserve := rfl
@[simp] theorem State.putBytes_lastGen (s : State) (p : Nat) (bs : List Byte) : (s.putBytes p bs).lastGen = s.lastGen := rfl
@[simp] theorem State.putBytes_charges (s : State) (p : Nat) (bs : List Byte) : (s.putBytes p bs).charges = s.charges := rfl
@[simp] theorem State.putBytes_used (s : State) (p : Nat) (bs : List Byte) : (s.putBytes p bs).used = s.used := rfl
@[simp] theorem State.putBytes_mclost (s : State) (p : Nat) (bs : List Byte) : (s.putBytes p bs).mclost = s.mclost := rfl
@[simp] theorem State.putBytes_eolhours (s : State) (p : Nat) (bs : List Byte) : (s.putBytes p bs).eolhours = s.eolhours := rfl
@[simp] theorem State.putBytes_ring (s : State) (p : Nat) (bs : List Byte) : (s.putBytes p bs).ring = s.ring := rfl
@[simp] theorem State.putBytes_ep (s : State) (p : Nat) (bs : List Byte) : (s.putBytes p bs).ep = s.ep := rfl
@[simp] theorem State.putBytes_power (s : State) (p : Nat) (bs : List Byte) : (s.putBytes p bs).power = s.power := rfl
@[simp] theorem State.putBytes_ptp (s : State) (p : Nat) (bs : List Byte) : (s.putBytes p bs).ptp = s.ptp := rfl
@[simp] theorem State.putBytes_links (s : State) (p : Nat) (bs : List Byte) : (s.putBytes p bs).links = s.links := rfl
@[simp] theorem State.putBytes_free (s : State) (p : Nat) (bs : List Byte) : (s.putBytes p bs).free = s.free := rfl
@[simp] theorem State.putBytes_nextId (s : State) (p : Nat) (bs : List Byte) : (s.putBytes p bs).nextId = s.nextId := rfl
@[simp] theorem State.putBytes_here (s : State) (p : Nat) (bs : List Byte) : (s.putBytes p bs).here = s.here := rfl
@[simp] theorem State.putBytes_retired (s : State) (p : Nat) (bs : List Byte) : (s.putBytes p bs).retired = s.retired := rfl
@[simp] theorem State.putBytes_agenda (s : State) (p : Nat) (bs : List Byte) : (s.putBytes p bs).agenda = s.agenda := rfl
@[simp] theorem State.putBytes_words (s : State) (p : Nat) (bs : List Byte) : (s.putBytes p bs).words = s.words := rfl
@[simp] theorem State.putBytes_fuses (s : State) (p : Nat) (bs : List Byte) : (s.putBytes p bs).fuses = s.fuses := rfl
@[simp] theorem State.putBytes_thread (s : State) (p : Nat) (bs : List Byte) (u j : Nat) : (s.putBytes p bs).thread u j = s.thread u j := rfl
@[simp] theorem State.putBytes_tile (s : State) (p : Nat) (bs : List Byte) (u : Nat) : (s.putBytes p bs).tile u = s.tile u := rfl
@[simp] theorem State.putBytes_native (s : State) (p : Nat) (bs : List Byte) (u j : Nat) : (s.putBytes p bs).native u j = s.native u j := rfl
@[simp] theorem State.putBytes_tap (s : State) (p : Nat) (bs : List Byte) (u : Nat) : (s.putBytes p bs).tap u = s.tap u := rfl
@[simp] theorem State.putBytes_mpt (s : State) (p : Nat) (bs : List Byte) (u : Nat) : (s.putBytes p bs).mpt u = s.mpt u := rfl
@[simp] theorem State.putBytes_isFull (s : State) (p : Nat) (bs : List Byte) (u a : Nat) : (s.putBytes p bs).isFull u a = s.isFull u a := rfl
@[simp] theorem State.putBytes_cur (s : State) (p : Nat) (bs : List Byte) : (s.putBytes p bs).cur = s.cur := rfl
@[simp] theorem State.putBytes_me (s : State) (p : Nat) (bs : List Byte) : (s.putBytes p bs).me = s.me := rfl
@[simp] theorem State.putBytes_hereTile (s : State) (p : Nat) (bs : List Byte) : (s.putBytes p bs).hereTile = s.hereTile := rfl
@[simp] theorem State.putBytes_myNative (s : State) (p : Nat) (bs : List Byte) : (s.putBytes p bs).myNative = s.myNative := rfl

@[simp] theorem State.poisonWord_part (s : State) (p : Nat) : (s.poisonWord p).part = s.part := rfl
@[simp] theorem State.poisonWord_hbm (s : State) (p : Nat) : (s.poisonWord p).hbm = s.hbm := rfl
@[simp] theorem State.poisonWord_cycle (s : State) (p : Nat) : (s.poisonWord p).cycle = s.cycle := rfl
@[simp] theorem State.poisonWord_tick (s : State) (p : Nat) : (s.poisonWord p).tick = s.tick := rfl
@[simp] theorem State.poisonWord_mem (s : State) (p : Nat) : (s.poisonWord p).mem = s.mem := rfl
@[simp] theorem State.poisonWord_latent (s : State) (p : Nat) : (s.poisonWord p).latent = s.latent := rfl
@[simp] theorem State.poisonWord_hbmBad (s : State) (p : Nat) : (s.poisonWord p).hbmBad = s.hbmBad := rfl
@[simp] theorem State.poisonWord_full (s : State) (p : Nat) : (s.poisonWord p).full = s.full := rfl
@[simp] theorem State.poisonWord_threads (s : State) (p : Nat) : (s.poisonWord p).threads = s.threads := rfl
@[simp] theorem State.poisonWord_natives (s : State) (p : Nat) : (s.poisonWord p).natives = s.natives := rfl
@[simp] theorem State.poisonWord_shadows (s : State) (p : Nat) : (s.poisonWord p).shadows = s.shadows := rfl
@[simp] theorem State.poisonWord_aheads (s : State) (p : Nat) : (s.poisonWord p).aheads = s.aheads := rfl
@[simp] theorem State.poisonWord_tiles (s : State) (p : Nat) : (s.poisonWord p).tiles = s.tiles := rfl
@[simp] theorem State.poisonWord_taps (s : State) (p : Nat) : (s.poisonWord p).taps = s.taps := rfl
@[simp] theorem State.poisonWord_mpts (s : State) (p : Nat) : (s.poisonWord p).mpts = s.mpts := rfl
@[simp] theorem State.poisonWord_net (s : State) (p : Nat) : (s.poisonWord p).net = s.net := rfl
@[simp] theorem State.poisonWord_arrived (s : State) (p : Nat) : (s.poisonWord p).arrived = s.arrived := rfl
@[simp] theorem State.poisonWord_unacked (s : State) (p : Nat) : (s.poisonWord p).unacked = s.unacked := rfl
@[simp] theorem State.poisonWord_copies (s : State) (p : Nat) : (s.poisonWord p).copies = s.copies := rfl
@[simp] theorem State.poisonWord_edges (s : State) (p : Nat) : (s.poisonWord p).edges = s.edges := rfl
@[simp] theorem State.poisonWord_collectives (s : State) (p : Nat) : (s.poisonWord p).collectives = s.collectives := rfl
@[simp] theorem State.poisonWord_nodes (s : State) (p : Nat) : (s.poisonWord p).nodes = s.nodes := rfl
@[simp] theorem State.poisonWord_regions (s : State) (p : Nat) : (s.poisonWord p).regions = s.regions := rfl
@[simp] theorem State.poisonWord_signals (s : State) (p : Nat) : (s.poisonWord p).signals = s.signals := rfl
@[simp] theorem State.poisonWord_reserve (s : State) (p : Nat) : (s.poisonWord p).reserve = s.reserve := rfl
@[simp] theorem State.poisonWord_lastGen (s : State) (p : Nat) : (s.poisonWord p).lastGen = s.lastGen := rfl
@[simp] theorem State.poisonWord_charges (s : State) (p : Nat) : (s.poisonWord p).charges = s.charges := rfl
@[simp] theorem State.poisonWord_used (s : State) (p : Nat) : (s.poisonWord p).used = s.used := rfl
@[simp] theorem State.poisonWord_mclost (s : State) (p : Nat) : (s.poisonWord p).mclost = s.mclost := rfl
@[simp] theorem State.poisonWord_eolhours (s : State) (p : Nat) : (s.poisonWord p).eolhours = s.eolhours := rfl
@[simp] theorem State.poisonWord_ring (s : State) (p : Nat) : (s.poisonWord p).ring = s.ring := rfl
@[simp] theorem State.poisonWord_ep (s : State) (p : Nat) : (s.poisonWord p).ep = s.ep := rfl
@[simp] theorem State.poisonWord_power (s : State) (p : Nat) : (s.poisonWord p).power = s.power := rfl
@[simp] theorem State.poisonWord_ptp (s : State) (p : Nat) : (s.poisonWord p).ptp = s.ptp := rfl
@[simp] theorem State.poisonWord_links (s : State) (p : Nat) : (s.poisonWord p).links = s.links := rfl
@[simp] theorem State.poisonWord_free (s : State) (p : Nat) : (s.poisonWord p).free = s.free := rfl
@[simp] theorem State.poisonWord_nextId (s : State) (p : Nat) : (s.poisonWord p).nextId = s.nextId := rfl
@[simp] theorem State.poisonWord_here (s : State) (p : Nat) : (s.poisonWord p).here = s.here := rfl
@[simp] theorem State.poisonWord_retired (s : State) (p : Nat) : (s.poisonWord p).retired = s.retired := rfl
@[simp] theorem State.poisonWord_agenda (s : State) (p : Nat) : (s.poisonWord p).agenda = s.agenda := rfl
@[simp] theorem State.poisonWord_words (s : State) (p : Nat) : (s.poisonWord p).words = s.words := rfl
@[simp] theorem State.poisonWord_fuses (s : State) (p : Nat) : (s.poisonWord p).fuses = s.fuses := rfl
@[simp] theorem State.poisonWord_thread (s : State) (p : Nat) (u j : Nat) : (s.poisonWord p).thread u j = s.thread u j := rfl
@[simp] theorem State.poisonWord_tile (s : State) (p : Nat) (u : Nat) : (s.poisonWord p).tile u = s.tile u := rfl
@[simp] theorem State.poisonWord_native (s : State) (p : Nat) (u j : Nat) : (s.poisonWord p).native u j = s.native u j := rfl
@[simp] theorem State.poisonWord_tap (s : State) (p : Nat) (u : Nat) : (s.poisonWord p).tap u = s.tap u := rfl
@[simp] theorem State.poisonWord_mpt (s : State) (p : Nat) (u : Nat) : (s.poisonWord p).mpt u = s.mpt u := rfl
@[simp] theorem State.poisonWord_byteAt (s : State) (p : Nat) (a : Nat) : (s.poisonWord p).byteAt a = s.byteAt a := rfl
@[simp] theorem State.poisonWord_getBytes (s : State) (p : Nat) (a n : Nat) : (s.poisonWord p).getBytes a n = s.getBytes a n := rfl
@[simp] theorem State.poisonWord_getNat (s : State) (p : Nat) (a n : Nat) : (s.poisonWord p).getNat a n = s.getNat a n := rfl
@[simp] theorem State.poisonWord_isFull (s : State) (p : Nat) (u a : Nat) : (s.poisonWord p).isFull u a = s.isFull u a := rfl
@[simp] theorem State.poisonWord_cur (s : State) (p : Nat) : (s.poisonWord p).cur = s.cur := rfl
@[simp] theorem State.poisonWord_me (s : State) (p : Nat) : (s.poisonWord p).me = s.me := rfl
@[simp] theorem State.poisonWord_hereTile (s : State) (p : Nat) : (s.poisonWord p).hereTile = s.hereTile := rfl
@[simp] theorem State.poisonWord_myNative (s : State) (p : Nat) : (s.poisonWord p).myNative = s.myNative := rfl

@[simp] theorem State.setFull_part (s : State) (t p : Nat) (b : Bool) : (s.setFull t p b).part = s.part := rfl
@[simp] theorem State.setFull_hbm (s : State) (t p : Nat) (b : Bool) : (s.setFull t p b).hbm = s.hbm := rfl
@[simp] theorem State.setFull_cycle (s : State) (t p : Nat) (b : Bool) : (s.setFull t p b).cycle = s.cycle := rfl
@[simp] theorem State.setFull_tick (s : State) (t p : Nat) (b : Bool) : (s.setFull t p b).tick = s.tick := rfl
@[simp] theorem State.setFull_mem (s : State) (t p : Nat) (b : Bool) : (s.setFull t p b).mem = s.mem := rfl
@[simp] theorem State.setFull_poison (s : State) (t p : Nat) (b : Bool) : (s.setFull t p b).poison = s.poison := rfl
@[simp] theorem State.setFull_latent (s : State) (t p : Nat) (b : Bool) : (s.setFull t p b).latent = s.latent := rfl
@[simp] theorem State.setFull_hbmBad (s : State) (t p : Nat) (b : Bool) : (s.setFull t p b).hbmBad = s.hbmBad := rfl
@[simp] theorem State.setFull_threads (s : State) (t p : Nat) (b : Bool) : (s.setFull t p b).threads = s.threads := rfl
@[simp] theorem State.setFull_natives (s : State) (t p : Nat) (b : Bool) : (s.setFull t p b).natives = s.natives := rfl
@[simp] theorem State.setFull_shadows (s : State) (t p : Nat) (b : Bool) : (s.setFull t p b).shadows = s.shadows := rfl
@[simp] theorem State.setFull_aheads (s : State) (t p : Nat) (b : Bool) : (s.setFull t p b).aheads = s.aheads := rfl
@[simp] theorem State.setFull_tiles (s : State) (t p : Nat) (b : Bool) : (s.setFull t p b).tiles = s.tiles := rfl
@[simp] theorem State.setFull_taps (s : State) (t p : Nat) (b : Bool) : (s.setFull t p b).taps = s.taps := rfl
@[simp] theorem State.setFull_mpts (s : State) (t p : Nat) (b : Bool) : (s.setFull t p b).mpts = s.mpts := rfl
@[simp] theorem State.setFull_net (s : State) (t p : Nat) (b : Bool) : (s.setFull t p b).net = s.net := rfl
@[simp] theorem State.setFull_arrived (s : State) (t p : Nat) (b : Bool) : (s.setFull t p b).arrived = s.arrived := rfl
@[simp] theorem State.setFull_unacked (s : State) (t p : Nat) (b : Bool) : (s.setFull t p b).unacked = s.unacked := rfl
@[simp] theorem State.setFull_copies (s : State) (t p : Nat) (b : Bool) : (s.setFull t p b).copies = s.copies := rfl
@[simp] theorem State.setFull_edges (s : State) (t p : Nat) (b : Bool) : (s.setFull t p b).edges = s.edges := rfl
@[simp] theorem State.setFull_collectives (s : State) (t p : Nat) (b : Bool) : (s.setFull t p b).collectives = s.collectives := rfl
@[simp] theorem State.setFull_nodes (s : State) (t p : Nat) (b : Bool) : (s.setFull t p b).nodes = s.nodes := rfl
@[simp] theorem State.setFull_regions (s : State) (t p : Nat) (b : Bool) : (s.setFull t p b).regions = s.regions := rfl
@[simp] theorem State.setFull_signals (s : State) (t p : Nat) (b : Bool) : (s.setFull t p b).signals = s.signals := rfl
@[simp] theorem State.setFull_reserve (s : State) (t p : Nat) (b : Bool) : (s.setFull t p b).reserve = s.reserve := rfl
@[simp] theorem State.setFull_lastGen (s : State) (t p : Nat) (b : Bool) : (s.setFull t p b).lastGen = s.lastGen := rfl
@[simp] theorem State.setFull_charges (s : State) (t p : Nat) (b : Bool) : (s.setFull t p b).charges = s.charges := rfl
@[simp] theorem State.setFull_used (s : State) (t p : Nat) (b : Bool) : (s.setFull t p b).used = s.used := rfl
@[simp] theorem State.setFull_mclost (s : State) (t p : Nat) (b : Bool) : (s.setFull t p b).mclost = s.mclost := rfl
@[simp] theorem State.setFull_eolhours (s : State) (t p : Nat) (b : Bool) : (s.setFull t p b).eolhours = s.eolhours := rfl
@[simp] theorem State.setFull_ring (s : State) (t p : Nat) (b : Bool) : (s.setFull t p b).ring = s.ring := rfl
@[simp] theorem State.setFull_ep (s : State) (t p : Nat) (b : Bool) : (s.setFull t p b).ep = s.ep := rfl
@[simp] theorem State.setFull_power (s : State) (t p : Nat) (b : Bool) : (s.setFull t p b).power = s.power := rfl
@[simp] theorem State.setFull_ptp (s : State) (t p : Nat) (b : Bool) : (s.setFull t p b).ptp = s.ptp := rfl
@[simp] theorem State.setFull_links (s : State) (t p : Nat) (b : Bool) : (s.setFull t p b).links = s.links := rfl
@[simp] theorem State.setFull_free (s : State) (t p : Nat) (b : Bool) : (s.setFull t p b).free = s.free := rfl
@[simp] theorem State.setFull_nextId (s : State) (t p : Nat) (b : Bool) : (s.setFull t p b).nextId = s.nextId := rfl
@[simp] theorem State.setFull_here (s : State) (t p : Nat) (b : Bool) : (s.setFull t p b).here = s.here := rfl
@[simp] theorem State.setFull_retired (s : State) (t p : Nat) (b : Bool) : (s.setFull t p b).retired = s.retired := rfl
@[simp] theorem State.setFull_agenda (s : State) (t p : Nat) (b : Bool) : (s.setFull t p b).agenda = s.agenda := rfl
@[simp] theorem State.setFull_words (s : State) (t p : Nat) (b : Bool) : (s.setFull t p b).words = s.words := rfl
@[simp] theorem State.setFull_fuses (s : State) (t p : Nat) (b : Bool) : (s.setFull t p b).fuses = s.fuses := rfl
@[simp] theorem State.setFull_thread (s : State) (t p : Nat) (b : Bool) (u j : Nat) : (s.setFull t p b).thread u j = s.thread u j := rfl
@[simp] theorem State.setFull_tile (s : State) (t p : Nat) (b : Bool) (u : Nat) : (s.setFull t p b).tile u = s.tile u := rfl
@[simp] theorem State.setFull_native (s : State) (t p : Nat) (b : Bool) (u j : Nat) : (s.setFull t p b).native u j = s.native u j := rfl
@[simp] theorem State.setFull_tap (s : State) (t p : Nat) (b : Bool) (u : Nat) : (s.setFull t p b).tap u = s.tap u := rfl
@[simp] theorem State.setFull_mpt (s : State) (t p : Nat) (b : Bool) (u : Nat) : (s.setFull t p b).mpt u = s.mpt u := rfl
@[simp] theorem State.setFull_byteAt (s : State) (t p : Nat) (b : Bool) (a : Nat) : (s.setFull t p b).byteAt a = s.byteAt a := rfl
@[simp] theorem State.setFull_getBytes (s : State) (t p : Nat) (b : Bool) (a n : Nat) : (s.setFull t p b).getBytes a n = s.getBytes a n := rfl
@[simp] theorem State.setFull_getNat (s : State) (t p : Nat) (b : Bool) (a n : Nat) : (s.setFull t p b).getNat a n = s.getNat a n := rfl
@[simp] theorem State.setFull_isPoisoned (s : State) (t p : Nat) (b : Bool) (a n : Nat) : (s.setFull t p b).isPoisoned a n = s.isPoisoned a n := rfl
@[simp] theorem State.setFull_cur (s : State) (t p : Nat) (b : Bool) : (s.setFull t p b).cur = s.cur := rfl
@[simp] theorem State.setFull_me (s : State) (t p : Nat) (b : Bool) : (s.setFull t p b).me = s.me := rfl
@[simp] theorem State.setFull_hereTile (s : State) (t p : Nat) (b : Bool) : (s.setFull t p b).hereTile = s.hereTile := rfl
@[simp] theorem State.setFull_myNative (s : State) (t p : Nat) (b : Bool) : (s.setFull t p b).myNative = s.myNative := rfl

@[simp] theorem State.send_part (s : State) (c : Class) (x y : Node) (b : Body) : (s.send c x y b).part = s.part := rfl
@[simp] theorem State.send_hbm (s : State) (c : Class) (x y : Node) (b : Body) : (s.send c x y b).hbm = s.hbm := rfl
@[simp] theorem State.send_cycle (s : State) (c : Class) (x y : Node) (b : Body) : (s.send c x y b).cycle = s.cycle := rfl
@[simp] theorem State.send_tick (s : State) (c : Class) (x y : Node) (b : Body) : (s.send c x y b).tick = s.tick := rfl
@[simp] theorem State.send_mem (s : State) (c : Class) (x y : Node) (b : Body) : (s.send c x y b).mem = s.mem := rfl
@[simp] theorem State.send_poison (s : State) (c : Class) (x y : Node) (b : Body) : (s.send c x y b).poison = s.poison := rfl
@[simp] theorem State.send_latent (s : State) (c : Class) (x y : Node) (b : Body) : (s.send c x y b).latent = s.latent := rfl
@[simp] theorem State.send_hbmBad (s : State) (c : Class) (x y : Node) (b : Body) : (s.send c x y b).hbmBad = s.hbmBad := rfl
@[simp] theorem State.send_full (s : State) (c : Class) (x y : Node) (b : Body) : (s.send c x y b).full = s.full := rfl
@[simp] theorem State.send_threads (s : State) (c : Class) (x y : Node) (b : Body) : (s.send c x y b).threads = s.threads := rfl
@[simp] theorem State.send_natives (s : State) (c : Class) (x y : Node) (b : Body) : (s.send c x y b).natives = s.natives := rfl
@[simp] theorem State.send_shadows (s : State) (c : Class) (x y : Node) (b : Body) : (s.send c x y b).shadows = s.shadows := rfl
@[simp] theorem State.send_aheads (s : State) (c : Class) (x y : Node) (b : Body) : (s.send c x y b).aheads = s.aheads := rfl
@[simp] theorem State.send_tiles (s : State) (c : Class) (x y : Node) (b : Body) : (s.send c x y b).tiles = s.tiles := rfl
@[simp] theorem State.send_taps (s : State) (c : Class) (x y : Node) (b : Body) : (s.send c x y b).taps = s.taps := rfl
@[simp] theorem State.send_mpts (s : State) (c : Class) (x y : Node) (b : Body) : (s.send c x y b).mpts = s.mpts := rfl
@[simp] theorem State.send_arrived (s : State) (c : Class) (x y : Node) (b : Body) : (s.send c x y b).arrived = s.arrived := rfl
@[simp] theorem State.send_unacked (s : State) (c : Class) (x y : Node) (b : Body) : (s.send c x y b).unacked = s.unacked := rfl
@[simp] theorem State.send_copies (s : State) (c : Class) (x y : Node) (b : Body) : (s.send c x y b).copies = s.copies := rfl
@[simp] theorem State.send_edges (s : State) (c : Class) (x y : Node) (b : Body) : (s.send c x y b).edges = s.edges := rfl
@[simp] theorem State.send_collectives (s : State) (c : Class) (x y : Node) (b : Body) : (s.send c x y b).collectives = s.collectives := rfl
@[simp] theorem State.send_nodes (s : State) (c : Class) (x y : Node) (b : Body) : (s.send c x y b).nodes = s.nodes := rfl
@[simp] theorem State.send_regions (s : State) (c : Class) (x y : Node) (b : Body) : (s.send c x y b).regions = s.regions := rfl
@[simp] theorem State.send_signals (s : State) (c : Class) (x y : Node) (b : Body) : (s.send c x y b).signals = s.signals := rfl
@[simp] theorem State.send_reserve (s : State) (c : Class) (x y : Node) (b : Body) : (s.send c x y b).reserve = s.reserve := rfl
@[simp] theorem State.send_lastGen (s : State) (c : Class) (x y : Node) (b : Body) : (s.send c x y b).lastGen = s.lastGen := rfl
@[simp] theorem State.send_charges (s : State) (c : Class) (x y : Node) (b : Body) : (s.send c x y b).charges = s.charges := rfl
@[simp] theorem State.send_used (s : State) (c : Class) (x y : Node) (b : Body) : (s.send c x y b).used = s.used := rfl
@[simp] theorem State.send_mclost (s : State) (c : Class) (x y : Node) (b : Body) : (s.send c x y b).mclost = s.mclost := rfl
@[simp] theorem State.send_eolhours (s : State) (c : Class) (x y : Node) (b : Body) : (s.send c x y b).eolhours = s.eolhours := rfl
@[simp] theorem State.send_ring (s : State) (c : Class) (x y : Node) (b : Body) : (s.send c x y b).ring = s.ring := rfl
@[simp] theorem State.send_ep (s : State) (c : Class) (x y : Node) (b : Body) : (s.send c x y b).ep = s.ep := rfl
@[simp] theorem State.send_power (s : State) (c : Class) (x y : Node) (b : Body) : (s.send c x y b).power = s.power := rfl
@[simp] theorem State.send_ptp (s : State) (c : Class) (x y : Node) (b : Body) : (s.send c x y b).ptp = s.ptp := rfl
@[simp] theorem State.send_links (s : State) (c : Class) (x y : Node) (b : Body) : (s.send c x y b).links = s.links := rfl
@[simp] theorem State.send_free (s : State) (c : Class) (x y : Node) (b : Body) : (s.send c x y b).free = s.free := rfl
@[simp] theorem State.send_here (s : State) (c : Class) (x y : Node) (b : Body) : (s.send c x y b).here = s.here := rfl
@[simp] theorem State.send_retired (s : State) (c : Class) (x y : Node) (b : Body) : (s.send c x y b).retired = s.retired := rfl
@[simp] theorem State.send_agenda (s : State) (c : Class) (x y : Node) (b : Body) : (s.send c x y b).agenda = s.agenda := rfl
@[simp] theorem State.send_words (s : State) (c : Class) (x y : Node) (b : Body) : (s.send c x y b).words = s.words := rfl
@[simp] theorem State.send_fuses (s : State) (c : Class) (x y : Node) (b : Body) : (s.send c x y b).fuses = s.fuses := rfl
@[simp] theorem State.send_thread (s : State) (c : Class) (x y : Node) (b : Body) (u j : Nat) : (s.send c x y b).thread u j = s.thread u j := rfl
@[simp] theorem State.send_tile (s : State) (c : Class) (x y : Node) (b : Body) (u : Nat) : (s.send c x y b).tile u = s.tile u := rfl
@[simp] theorem State.send_native (s : State) (c : Class) (x y : Node) (b : Body) (u j : Nat) : (s.send c x y b).native u j = s.native u j := rfl
@[simp] theorem State.send_tap (s : State) (c : Class) (x y : Node) (b : Body) (u : Nat) : (s.send c x y b).tap u = s.tap u := rfl
@[simp] theorem State.send_mpt (s : State) (c : Class) (x y : Node) (b : Body) (u : Nat) : (s.send c x y b).mpt u = s.mpt u := rfl
@[simp] theorem State.send_byteAt (s : State) (c : Class) (x y : Node) (b : Body) (a : Nat) : (s.send c x y b).byteAt a = s.byteAt a := rfl
@[simp] theorem State.send_getBytes (s : State) (c : Class) (x y : Node) (b : Body) (a n : Nat) : (s.send c x y b).getBytes a n = s.getBytes a n := rfl
@[simp] theorem State.send_getNat (s : State) (c : Class) (x y : Node) (b : Body) (a n : Nat) : (s.send c x y b).getNat a n = s.getNat a n := rfl
@[simp] theorem State.send_isPoisoned (s : State) (c : Class) (x y : Node) (b : Body) (a n : Nat) : (s.send c x y b).isPoisoned a n = s.isPoisoned a n := rfl
@[simp] theorem State.send_isFull (s : State) (c : Class) (x y : Node) (b : Body) (u a : Nat) : (s.send c x y b).isFull u a = s.isFull u a := rfl
@[simp] theorem State.send_cur (s : State) (c : Class) (x y : Node) (b : Body) : (s.send c x y b).cur = s.cur := rfl
@[simp] theorem State.send_me (s : State) (c : Class) (x y : Node) (b : Body) : (s.send c x y b).me = s.me := rfl
@[simp] theorem State.send_hereTile (s : State) (c : Class) (x y : Node) (b : Body) : (s.send c x y b).hereTile = s.hereTile := rfl
@[simp] theorem State.send_myNative (s : State) (c : Class) (x y : Node) (b : Body) : (s.send c x y b).myNative = s.myNative := rfl

@[simp] theorem State.updThread_part (s : State) (t k : Nat) (f : Thread → Thread) : (s.updThread t k f).part = s.part := by unfold State.updThread; split <;> rfl
@[simp] theorem State.updThread_hbm (s : State) (t k : Nat) (f : Thread → Thread) : (s.updThread t k f).hbm = s.hbm := by unfold State.updThread; split <;> rfl
@[simp] theorem State.updThread_cycle (s : State) (t k : Nat) (f : Thread → Thread) : (s.updThread t k f).cycle = s.cycle := by unfold State.updThread; split <;> rfl
@[simp] theorem State.updThread_tick (s : State) (t k : Nat) (f : Thread → Thread) : (s.updThread t k f).tick = s.tick := by unfold State.updThread; split <;> rfl
@[simp] theorem State.updThread_mem (s : State) (t k : Nat) (f : Thread → Thread) : (s.updThread t k f).mem = s.mem := by unfold State.updThread; split <;> rfl
@[simp] theorem State.updThread_poison (s : State) (t k : Nat) (f : Thread → Thread) : (s.updThread t k f).poison = s.poison := by unfold State.updThread; split <;> rfl
@[simp] theorem State.updThread_latent (s : State) (t k : Nat) (f : Thread → Thread) : (s.updThread t k f).latent = s.latent := by unfold State.updThread; split <;> rfl
@[simp] theorem State.updThread_hbmBad (s : State) (t k : Nat) (f : Thread → Thread) : (s.updThread t k f).hbmBad = s.hbmBad := by unfold State.updThread; split <;> rfl
@[simp] theorem State.updThread_full (s : State) (t k : Nat) (f : Thread → Thread) : (s.updThread t k f).full = s.full := by unfold State.updThread; split <;> rfl
@[simp] theorem State.updThread_natives (s : State) (t k : Nat) (f : Thread → Thread) : (s.updThread t k f).natives = s.natives := by unfold State.updThread; split <;> rfl
@[simp] theorem State.updThread_shadows (s : State) (t k : Nat) (f : Thread → Thread) : (s.updThread t k f).shadows = s.shadows := by unfold State.updThread; split <;> rfl
@[simp] theorem State.updThread_aheads (s : State) (t k : Nat) (f : Thread → Thread) : (s.updThread t k f).aheads = s.aheads := by unfold State.updThread; split <;> rfl
@[simp] theorem State.updThread_tiles (s : State) (t k : Nat) (f : Thread → Thread) : (s.updThread t k f).tiles = s.tiles := by unfold State.updThread; split <;> rfl
@[simp] theorem State.updThread_taps (s : State) (t k : Nat) (f : Thread → Thread) : (s.updThread t k f).taps = s.taps := by unfold State.updThread; split <;> rfl
@[simp] theorem State.updThread_mpts (s : State) (t k : Nat) (f : Thread → Thread) : (s.updThread t k f).mpts = s.mpts := by unfold State.updThread; split <;> rfl
@[simp] theorem State.updThread_net (s : State) (t k : Nat) (f : Thread → Thread) : (s.updThread t k f).net = s.net := by unfold State.updThread; split <;> rfl
@[simp] theorem State.updThread_arrived (s : State) (t k : Nat) (f : Thread → Thread) : (s.updThread t k f).arrived = s.arrived := by unfold State.updThread; split <;> rfl
@[simp] theorem State.updThread_unacked (s : State) (t k : Nat) (f : Thread → Thread) : (s.updThread t k f).unacked = s.unacked := by unfold State.updThread; split <;> rfl
@[simp] theorem State.updThread_copies (s : State) (t k : Nat) (f : Thread → Thread) : (s.updThread t k f).copies = s.copies := by unfold State.updThread; split <;> rfl
@[simp] theorem State.updThread_edges (s : State) (t k : Nat) (f : Thread → Thread) : (s.updThread t k f).edges = s.edges := by unfold State.updThread; split <;> rfl
@[simp] theorem State.updThread_collectives (s : State) (t k : Nat) (f : Thread → Thread) : (s.updThread t k f).collectives = s.collectives := by unfold State.updThread; split <;> rfl
@[simp] theorem State.updThread_nodes (s : State) (t k : Nat) (f : Thread → Thread) : (s.updThread t k f).nodes = s.nodes := by unfold State.updThread; split <;> rfl
@[simp] theorem State.updThread_regions (s : State) (t k : Nat) (f : Thread → Thread) : (s.updThread t k f).regions = s.regions := by unfold State.updThread; split <;> rfl
@[simp] theorem State.updThread_signals (s : State) (t k : Nat) (f : Thread → Thread) : (s.updThread t k f).signals = s.signals := by unfold State.updThread; split <;> rfl
@[simp] theorem State.updThread_reserve (s : State) (t k : Nat) (f : Thread → Thread) : (s.updThread t k f).reserve = s.reserve := by unfold State.updThread; split <;> rfl
@[simp] theorem State.updThread_lastGen (s : State) (t k : Nat) (f : Thread → Thread) : (s.updThread t k f).lastGen = s.lastGen := by unfold State.updThread; split <;> rfl
@[simp] theorem State.updThread_charges (s : State) (t k : Nat) (f : Thread → Thread) : (s.updThread t k f).charges = s.charges := by unfold State.updThread; split <;> rfl
@[simp] theorem State.updThread_used (s : State) (t k : Nat) (f : Thread → Thread) : (s.updThread t k f).used = s.used := by unfold State.updThread; split <;> rfl
@[simp] theorem State.updThread_mclost (s : State) (t k : Nat) (f : Thread → Thread) : (s.updThread t k f).mclost = s.mclost := by unfold State.updThread; split <;> rfl
@[simp] theorem State.updThread_eolhours (s : State) (t k : Nat) (f : Thread → Thread) : (s.updThread t k f).eolhours = s.eolhours := by unfold State.updThread; split <;> rfl
@[simp] theorem State.updThread_ring (s : State) (t k : Nat) (f : Thread → Thread) : (s.updThread t k f).ring = s.ring := by unfold State.updThread; split <;> rfl
@[simp] theorem State.updThread_ep (s : State) (t k : Nat) (f : Thread → Thread) : (s.updThread t k f).ep = s.ep := by unfold State.updThread; split <;> rfl
@[simp] theorem State.updThread_power (s : State) (t k : Nat) (f : Thread → Thread) : (s.updThread t k f).power = s.power := by unfold State.updThread; split <;> rfl
@[simp] theorem State.updThread_ptp (s : State) (t k : Nat) (f : Thread → Thread) : (s.updThread t k f).ptp = s.ptp := by unfold State.updThread; split <;> rfl
@[simp] theorem State.updThread_links (s : State) (t k : Nat) (f : Thread → Thread) : (s.updThread t k f).links = s.links := by unfold State.updThread; split <;> rfl
@[simp] theorem State.updThread_free (s : State) (t k : Nat) (f : Thread → Thread) : (s.updThread t k f).free = s.free := by unfold State.updThread; split <;> rfl
@[simp] theorem State.updThread_nextId (s : State) (t k : Nat) (f : Thread → Thread) : (s.updThread t k f).nextId = s.nextId := by unfold State.updThread; split <;> rfl
@[simp] theorem State.updThread_here (s : State) (t k : Nat) (f : Thread → Thread) : (s.updThread t k f).here = s.here := by unfold State.updThread; split <;> rfl
@[simp] theorem State.updThread_retired (s : State) (t k : Nat) (f : Thread → Thread) : (s.updThread t k f).retired = s.retired := by unfold State.updThread; split <;> rfl
@[simp] theorem State.updThread_agenda (s : State) (t k : Nat) (f : Thread → Thread) : (s.updThread t k f).agenda = s.agenda := by unfold State.updThread; split <;> rfl
@[simp] theorem State.updThread_words (s : State) (t k : Nat) (f : Thread → Thread) : (s.updThread t k f).words = s.words := by unfold State.updThread; split <;> rfl
@[simp] theorem State.updThread_fuses (s : State) (t k : Nat) (f : Thread → Thread) : (s.updThread t k f).fuses = s.fuses := by unfold State.updThread; split <;> rfl
@[simp] theorem State.updThread_tile (s : State) (t k : Nat) (f : Thread → Thread) (u : Nat) : (s.updThread t k f).tile u = s.tile u := by unfold State.updThread; split <;> rfl
@[simp] theorem State.updThread_native (s : State) (t k : Nat) (f : Thread → Thread) (u j : Nat) : (s.updThread t k f).native u j = s.native u j := by unfold State.updThread; split <;> rfl
@[simp] theorem State.updThread_tap (s : State) (t k : Nat) (f : Thread → Thread) (u : Nat) : (s.updThread t k f).tap u = s.tap u := by unfold State.updThread; split <;> rfl
@[simp] theorem State.updThread_mpt (s : State) (t k : Nat) (f : Thread → Thread) (u : Nat) : (s.updThread t k f).mpt u = s.mpt u := by unfold State.updThread; split <;> rfl
@[simp] theorem State.updThread_byteAt (s : State) (t k : Nat) (f : Thread → Thread) (a : Nat) : (s.updThread t k f).byteAt a = s.byteAt a := by unfold State.updThread; split <;> rfl
@[simp] theorem State.updThread_getBytes (s : State) (t k : Nat) (f : Thread → Thread) (a n : Nat) : (s.updThread t k f).getBytes a n = s.getBytes a n := by unfold State.updThread; split <;> rfl
@[simp] theorem State.updThread_getNat (s : State) (t k : Nat) (f : Thread → Thread) (a n : Nat) : (s.updThread t k f).getNat a n = s.getNat a n := by unfold State.updThread; split <;> rfl
@[simp] theorem State.updThread_isPoisoned (s : State) (t k : Nat) (f : Thread → Thread) (a n : Nat) : (s.updThread t k f).isPoisoned a n = s.isPoisoned a n := by unfold State.updThread; split <;> rfl
@[simp] theorem State.updThread_isFull (s : State) (t k : Nat) (f : Thread → Thread) (u a : Nat) : (s.updThread t k f).isFull u a = s.isFull u a := by unfold State.updThread; split <;> rfl
@[simp] theorem State.updThread_hereTile (s : State) (t k : Nat) (f : Thread → Thread) : (s.updThread t k f).hereTile = s.hereTile := by unfold State.updThread; split <;> rfl
@[simp] theorem State.updThread_myNative (s : State) (t k : Nat) (f : Thread → Thread) : (s.updThread t k f).myNative = s.myNative := by unfold State.updThread; split <;> rfl

@[simp] theorem State.upd_part (s : State) (f : Thread → Thread) : (s.upd f).part = s.part := State.updThread_part s _ _ f
@[simp] theorem State.upd_hbm (s : State) (f : Thread → Thread) : (s.upd f).hbm = s.hbm := State.updThread_hbm s _ _ f
@[simp] theorem State.upd_cycle (s : State) (f : Thread → Thread) : (s.upd f).cycle = s.cycle := State.updThread_cycle s _ _ f
@[simp] theorem State.upd_tick (s : State) (f : Thread → Thread) : (s.upd f).tick = s.tick := State.updThread_tick s _ _ f
@[simp] theorem State.upd_mem (s : State) (f : Thread → Thread) : (s.upd f).mem = s.mem := State.updThread_mem s _ _ f
@[simp] theorem State.upd_poison (s : State) (f : Thread → Thread) : (s.upd f).poison = s.poison := State.updThread_poison s _ _ f
@[simp] theorem State.upd_latent (s : State) (f : Thread → Thread) : (s.upd f).latent = s.latent := State.updThread_latent s _ _ f
@[simp] theorem State.upd_hbmBad (s : State) (f : Thread → Thread) : (s.upd f).hbmBad = s.hbmBad := State.updThread_hbmBad s _ _ f
@[simp] theorem State.upd_full (s : State) (f : Thread → Thread) : (s.upd f).full = s.full := State.updThread_full s _ _ f
@[simp] theorem State.upd_natives (s : State) (f : Thread → Thread) : (s.upd f).natives = s.natives := State.updThread_natives s _ _ f
@[simp] theorem State.upd_shadows (s : State) (f : Thread → Thread) : (s.upd f).shadows = s.shadows := State.updThread_shadows s _ _ f
@[simp] theorem State.upd_aheads (s : State) (f : Thread → Thread) : (s.upd f).aheads = s.aheads := State.updThread_aheads s _ _ f
@[simp] theorem State.upd_tiles (s : State) (f : Thread → Thread) : (s.upd f).tiles = s.tiles := State.updThread_tiles s _ _ f
@[simp] theorem State.upd_taps (s : State) (f : Thread → Thread) : (s.upd f).taps = s.taps := State.updThread_taps s _ _ f
@[simp] theorem State.upd_mpts (s : State) (f : Thread → Thread) : (s.upd f).mpts = s.mpts := State.updThread_mpts s _ _ f
@[simp] theorem State.upd_net (s : State) (f : Thread → Thread) : (s.upd f).net = s.net := State.updThread_net s _ _ f
@[simp] theorem State.upd_arrived (s : State) (f : Thread → Thread) : (s.upd f).arrived = s.arrived := State.updThread_arrived s _ _ f
@[simp] theorem State.upd_unacked (s : State) (f : Thread → Thread) : (s.upd f).unacked = s.unacked := State.updThread_unacked s _ _ f
@[simp] theorem State.upd_copies (s : State) (f : Thread → Thread) : (s.upd f).copies = s.copies := State.updThread_copies s _ _ f
@[simp] theorem State.upd_edges (s : State) (f : Thread → Thread) : (s.upd f).edges = s.edges := State.updThread_edges s _ _ f
@[simp] theorem State.upd_collectives (s : State) (f : Thread → Thread) : (s.upd f).collectives = s.collectives := State.updThread_collectives s _ _ f
@[simp] theorem State.upd_nodes (s : State) (f : Thread → Thread) : (s.upd f).nodes = s.nodes := State.updThread_nodes s _ _ f
@[simp] theorem State.upd_regions (s : State) (f : Thread → Thread) : (s.upd f).regions = s.regions := State.updThread_regions s _ _ f
@[simp] theorem State.upd_signals (s : State) (f : Thread → Thread) : (s.upd f).signals = s.signals := State.updThread_signals s _ _ f
@[simp] theorem State.upd_reserve (s : State) (f : Thread → Thread) : (s.upd f).reserve = s.reserve := State.updThread_reserve s _ _ f
@[simp] theorem State.upd_lastGen (s : State) (f : Thread → Thread) : (s.upd f).lastGen = s.lastGen := State.updThread_lastGen s _ _ f
@[simp] theorem State.upd_charges (s : State) (f : Thread → Thread) : (s.upd f).charges = s.charges := State.updThread_charges s _ _ f
@[simp] theorem State.upd_used (s : State) (f : Thread → Thread) : (s.upd f).used = s.used := State.updThread_used s _ _ f
@[simp] theorem State.upd_mclost (s : State) (f : Thread → Thread) : (s.upd f).mclost = s.mclost := State.updThread_mclost s _ _ f
@[simp] theorem State.upd_eolhours (s : State) (f : Thread → Thread) : (s.upd f).eolhours = s.eolhours := State.updThread_eolhours s _ _ f
@[simp] theorem State.upd_ring (s : State) (f : Thread → Thread) : (s.upd f).ring = s.ring := State.updThread_ring s _ _ f
@[simp] theorem State.upd_ep (s : State) (f : Thread → Thread) : (s.upd f).ep = s.ep := State.updThread_ep s _ _ f
@[simp] theorem State.upd_power (s : State) (f : Thread → Thread) : (s.upd f).power = s.power := State.updThread_power s _ _ f
@[simp] theorem State.upd_ptp (s : State) (f : Thread → Thread) : (s.upd f).ptp = s.ptp := State.updThread_ptp s _ _ f
@[simp] theorem State.upd_links (s : State) (f : Thread → Thread) : (s.upd f).links = s.links := State.updThread_links s _ _ f
@[simp] theorem State.upd_free (s : State) (f : Thread → Thread) : (s.upd f).free = s.free := State.updThread_free s _ _ f
@[simp] theorem State.upd_nextId (s : State) (f : Thread → Thread) : (s.upd f).nextId = s.nextId := State.updThread_nextId s _ _ f
@[simp] theorem State.upd_here (s : State) (f : Thread → Thread) : (s.upd f).here = s.here := State.updThread_here s _ _ f
@[simp] theorem State.upd_retired (s : State) (f : Thread → Thread) : (s.upd f).retired = s.retired := State.updThread_retired s _ _ f
@[simp] theorem State.upd_agenda (s : State) (f : Thread → Thread) : (s.upd f).agenda = s.agenda := State.updThread_agenda s _ _ f
@[simp] theorem State.upd_words (s : State) (f : Thread → Thread) : (s.upd f).words = s.words := State.updThread_words s _ _ f
@[simp] theorem State.upd_fuses (s : State) (f : Thread → Thread) : (s.upd f).fuses = s.fuses := State.updThread_fuses s _ _ f
@[simp] theorem State.upd_tile (s : State) (f : Thread → Thread) (u : Nat) : (s.upd f).tile u = s.tile u := State.updThread_tile s _ _ f u
@[simp] theorem State.upd_native (s : State) (f : Thread → Thread) (u j : Nat) : (s.upd f).native u j = s.native u j := State.updThread_native s _ _ f u j
@[simp] theorem State.upd_tap (s : State) (f : Thread → Thread) (u : Nat) : (s.upd f).tap u = s.tap u := State.updThread_tap s _ _ f u
@[simp] theorem State.upd_mpt (s : State) (f : Thread → Thread) (u : Nat) : (s.upd f).mpt u = s.mpt u := State.updThread_mpt s _ _ f u
@[simp] theorem State.upd_byteAt (s : State) (f : Thread → Thread) (a : Nat) : (s.upd f).byteAt a = s.byteAt a := State.updThread_byteAt s _ _ f a
@[simp] theorem State.upd_getBytes (s : State) (f : Thread → Thread) (a n : Nat) : (s.upd f).getBytes a n = s.getBytes a n := State.updThread_getBytes s _ _ f a n
@[simp] theorem State.upd_getNat (s : State) (f : Thread → Thread) (a n : Nat) : (s.upd f).getNat a n = s.getNat a n := State.updThread_getNat s _ _ f a n
@[simp] theorem State.upd_isPoisoned (s : State) (f : Thread → Thread) (a n : Nat) : (s.upd f).isPoisoned a n = s.isPoisoned a n := State.updThread_isPoisoned s _ _ f a n
@[simp] theorem State.upd_isFull (s : State) (f : Thread → Thread) (u a : Nat) : (s.upd f).isFull u a = s.isFull u a := State.updThread_isFull s _ _ f u a
@[simp] theorem State.upd_hereTile (s : State) (f : Thread → Thread) : (s.upd f).hereTile = s.hereTile := State.updThread_hereTile s _ _ f
@[simp] theorem State.upd_myNative (s : State) (f : Thread → Thread) : (s.upd f).myNative = s.myNative := State.updThread_myNative s _ _ f

/-! A read after a write. -/

theorem slotKey_inj {t k u j : Nat} (hk : k < 8) (hj : j < 8) (h : slotKey t k = slotKey u j) : t = u ∧ k = j := by
  unfold slotKey at h
  omega

@[simp] theorem State.thread_setThread_self (s : State) (t k : Nat) (x : Option Thread) : (s.setThread t k x).thread t k = x :=
  sparseGet_set_self _ _ _ _

theorem State.thread_setThread_other (s : State) {t k u j : Nat} (x : Option Thread) (h : slotKey u j ≠ slotKey t k) :
    (s.setThread t k x).thread u j = s.thread u j := sparseGet_set_other _ _ _ h

@[simp] theorem State.tile_setTile_self (s : State) (t : Nat) (x : Tile) : (s.setTile t x).tile t = x := sparseGet_set_self _ _ _ _

theorem State.tile_setTile_other (s : State) {t u : Nat} (x : Tile) (h : u ≠ t) : (s.setTile t x).tile u = s.tile u :=
  sparseGet_set_other _ _ _ h

@[simp] theorem State.native_setNative_self (s : State) (t k : Nat) (x : Native) : (s.setNative t k x).native t k = x :=
  sparseGet_set_self _ _ _ _

theorem State.native_setNative_other (s : State) {t k u j : Nat} (x : Native) (h : slotKey u j ≠ slotKey t k) :
    (s.setNative t k x).native u j = s.native u j := sparseGet_set_other _ _ _ h

@[simp] theorem State.tap_setTap_self (s : State) (t : Nat) (x : Tap) : (s.setTap t x).tap t = x := sparseGet_set_self _ _ _ _

theorem State.tap_setTap_other (s : State) {t u : Nat} (x : Tap) (h : u ≠ t) : (s.setTap t x).tap u = s.tap u :=
  sparseGet_set_other _ _ _ h

@[simp] theorem State.mpt_setMpt_self (s : State) (m : Nat) (x : Mpt) : (s.setMpt m x).mpt m = x := sparseGet_set_self _ _ _ _

theorem State.mpt_setMpt_other (s : State) {m u : Nat} (x : Mpt) (h : u ≠ m) : (s.setMpt m x).mpt u = s.mpt u :=
  sparseGet_set_other _ _ _ h

@[simp] theorem State.tile_updTile_self (s : State) (t : Nat) (f : Tile → Tile) : (s.updTile t f).tile t = f (s.tile t) :=
  State.tile_setTile_self s t _

theorem State.tile_updTile_other (s : State) {t u : Nat} (f : Tile → Tile) (h : u ≠ t) : (s.updTile t f).tile u = s.tile u :=
  State.tile_setTile_other s _ h

@[simp] theorem State.hereTile_updHere (s : State) (f : Tile → Tile) : (s.updHere f).hereTile = f s.hereTile :=
  State.tile_updTile_self s _ f

@[simp] theorem State.native_updNative_self (s : State) (t k : Nat) (f : Native → Native) :
    (s.updNative t k f).native t k = f (s.native t k) := State.native_setNative_self s t k _

@[simp] theorem State.myNative_updMyNative (s : State) (f : Native → Native) : (s.updMyNative f).myNative = f s.myNative :=
  State.native_updNative_self s _ _ f

theorem State.thread_updThread_self (s : State) (t k : Nat) (f : Thread → Thread) :
    (s.updThread t k f).thread t k = (s.thread t k).map f := by
  unfold State.updThread
  split <;> simp [*]

theorem State.thread_updThread_other (s : State) {t k u j : Nat} (f : Thread → Thread) (h : slotKey u j ≠ slotKey t k) :
    (s.updThread t k f).thread u j = s.thread u j := by
  unfold State.updThread
  split
  · exact State.thread_setThread_other s _ h
  · rfl

@[simp] theorem State.cur_upd (s : State) (f : Thread → Thread) : (s.upd f).cur = s.cur.map f := by
  have := State.thread_updThread_self s s.here.tile s.here.slot f
  simpa [State.cur, State.upd] using this

theorem State.me_of_cur {s : State} {x : Thread} (h : s.cur = some x) : s.me = x := by simp [State.me, h]

/-- The present thread after its update, where there is one. -/
theorem State.me_upd {s : State} {x : Thread} (f : Thread → Thread) (h : s.cur = some x) : (s.upd f).me = f x := by
  simp [State.me, h]

end Sys2Proof.Machine
end

