-- ==== Sys2Proof/Laws/Errors.lean ====
section
/-! SUPPORT. What finding an error, queueing a flit and a load still out can do, said once (R33, R164, R264, R269, R270). -/

namespace Sys2Proof.Machine

/-! Machine checks. -/

/-- A packet sent changes no memory and no poison. -/
theorem State.send_keeps (s : State) (c : Class) (a b : Node) (x : Body) :
    (s.send c a b x).mem = s.mem ∧ (s.send c a b x).poison = s.poison ∧ (s.send c a b x).latent = s.latent := ⟨rfl, rfl, rfl⟩

/-- A frame sent at a port changes the endpoint alone (R36). -/
theorem sendAtPort_ep (p : Nat) (r : Sent) (s : State) : ∃ e, sendAtPort p r s = { s with ep := e } := by
  unfold sendAtPort countSent
  split
  · exact ⟨_, rfl⟩
  · exact ⟨_, rfl⟩

/-- Events sent change the endpoint alone (R43). -/
theorem sendEvents_ep (es : List Sent) (s : State) : ∃ e, sendEvents es s = { s with ep := e } := by
  unfold sendEvents
  induction es generalizing s with
  | nil => exact ⟨s.ep, rfl⟩
  | cons x xs ih =>
    obtain ⟨e, h⟩ := sendAtPort_ep (eventPort s) { x with dest := eventDest s } s
    obtain ⟨g, h'⟩ := ih { s with ep := e }
    refine ⟨g, ?_⟩
    rw [List.foldl_cons, h, h']

/-- An event for the host changes the endpoint alone (R43). -/
theorem State.hostEvent_ep (s : State) (n : Nat) (a b : List Byte) : ∃ e, s.hostEvent n a b = { s with ep := e } := by
  unfold State.hostEvent
  simp only
  split
  · obtain ⟨e, h⟩ := sendEvents_ep [nextEvent s n a b]
      { s with ep := { s.ep with unacked := s.ep.unacked ++ [nextEvent s n a b], seq := s.ep.seq + 1 } }
    exact ⟨e, h⟩
  · split
    · exact ⟨_, rfl⟩
    · exact ⟨_, rfl⟩

/-- An event queued for the host changes no memory, no poison and no undetected error. -/
theorem State.hostEvent_keeps (s : State) (n : Nat) (a b : List Byte) :
    (s.hostEvent n a b).mem = s.mem ∧ (s.hostEvent n a b).poison = s.poison ∧ (s.hostEvent n a b).latent = s.latent := by
  obtain ⟨e, h⟩ := State.hostEvent_ep s n a b
  rw [h]
  exact ⟨rfl, rfl, rfl⟩

/-- A machine-check task made takes free values alone. -/
theorem checkTask_keeps (s : State) (w0 w1 : Word) :
    (checkTask s w0 w1).2.mem = s.mem ∧ (checkTask s w0 w1).2.poison = s.poison ∧ (checkTask s w0 w1).2.latent = s.latent :=
  ⟨rfl, rfl, rfl⟩

/-- A machine check changes no memory, no poison and no undetected error. -/
theorem State.machineCheck_keeps (s : State) (n u : Nat) (w : Word) (ds : List Nat) :
    (s.machineCheck n u w ds).mem = s.mem ∧ (s.machineCheck n u w ds).poison = s.poison
      ∧ (s.machineCheck n u w ds).latent = s.latent := by
  have fold : ∀ (f : State → Nat → State),
      (∀ s d, (f s d).mem = s.mem ∧ (f s d).poison = s.poison ∧ (f s d).latent = s.latent) → ∀ (ds : List Nat) (s : State),
      (ds.foldl f s).mem = s.mem ∧ (ds.foldl f s).poison = s.poison ∧ (ds.foldl f s).latent = s.latent := by
    intro f hf ds
    induction ds with
    | nil => intro s; exact ⟨rfl, rfl, rfl⟩
    | cons d ds ih =>
      intro s
      obtain ⟨h1, h2, h3⟩ := hf s d
      obtain ⟨g1, g2, g3⟩ := ih (f s d)
      exact ⟨g1.trans h1, g2.trans h2, g3.trans h3⟩
  unfold State.machineCheck
  extract_lets w0 s'
  obtain ⟨g1, g2, g3⟩ : s'.mem = s.mem ∧ s'.poison = s.poison ∧ s'.latent = s.latent := by
    apply fold
    intro s d
    exact checkTask_keeps s w0 w
  obtain ⟨h1, h2, h3⟩ := State.hostEvent_keeps s' 2 (leBytes 8 w0.toNat) (leBytes 8 w.toNat)
  exact ⟨h1.trans g1, h2.trans g2, h3.trans g3⟩

/-- Finding errors changes no memory and clears no poison. -/
theorem State.detect_keeps (s : State) (k n : Nat) : (s.detect k n).mem = s.mem ∧ (s.detect k n).poison = s.poison := by
  unfold State.detect
  generalize s.latent.filter _ = ws
  induction ws generalizing s with
  | nil => exact ⟨rfl, rfl⟩
  | cons w ws ih =>
    obtain ⟨h1, h2, -⟩ := State.machineCheck_keeps { s with latent := keyErase s.latent w } (keySource s (8 * w)).1
      (keySource s (8 * w)).2.1 (keySource s (8 * w)).2.2 (List.range s.part.dies)
    exact ⟨(ih _).1.trans h1, (ih _).2.trans h2⟩

/-- A read that meets no undetected error sends nothing. -/
theorem State.detect_of_clean (s : State) (k n : Nat) (h : s.latent = []) : s.detect k n = s := by
  simp [State.detect, h]

/-! Flits. -/

/-- A flit that is there no earlier than those before it goes behind them (R164). -/
theorem flitInsert_last {α : Type} (f : Flit α) (fs : List (Flit α)) (h : ∀ g ∈ fs, g.ready ≤ f.ready) :
    flitInsert f fs = fs ++ [f] := by
  induction fs with
  | nil => rfl
  | cons g gs ih =>
    simp only [List.mem_cons, forall_eq_or_imp] at h
    simp [flitInsert, Nat.not_lt.mpr h.1, ih h.2]

/-- A push adds one flit (R164, R321). -/
theorem Buf.push_length {α : Type} (b : Buf α) (r : Nat) (v : α) (bad : Bool) :
    (b.push r v bad).flits.length = b.flits.length + 1 := by
  have ins : ∀ (f : Flit α) (fs : List (Flit α)), (flitInsert f fs).length = fs.length + 1 := by
    intro f fs
    induction fs with
    | nil => rfl
    | cons g gs ih => simp only [flitInsert]; split <;> simp [ih]
  exact ins _ _

/-! Loads still out. -/

/-- A thread without loads out has none to settle (R264). -/
theorem settleLoads_of_none {t k : Nat} {s : State} {x : Thread} (h : s.thread t k = some x) (hl : x.loads = []) :
    settleLoads t k s = s := by
  simp [settleLoads, trapLoad, h, hl]

/-- An instruction is held back by no load where none is out (R264). -/
theorem heldByLoad_of_none (i : Instr) {s : State} (u : State) (h : s.me.loads = []) : heldByLoad i s u = false := by
  simp [heldByLoad, h]

/-- An error that arises in no word of memory changes no byte of it (R33). -/
theorem applyUpset_mem (u : Upset) (s : State) (h : ∀ k, u ≠ .word k) : (applyUpset u s).mem = s.mem := by
  cases u with
  | word key => exact absurd rfl (h key)
  | flit t p d => cases p <;> rfl
  | reg t k file n => simp [applyUpset]
  | acc t k m => simp only [applyUpset]; split <;> simp

end Sys2Proof.Machine
end

