-- ==== Sys2Proof/Laws/Memory.lean ====
section
/-! SUPPORT. Laws of memory: a byte read after a write, and the canonical form that every memory operation keeps. -/

namespace Sys2Proof.Machine

/-- A byte after a write of bytes: the byte written there, or the old one. -/
theorem Memory.read_writeBytes (m : Memory) (k : Nat) (bs : List Byte) (a : Nat) :
    Memory.read (Memory.writeBytes m k bs) a = if k ≤ a ∧ a < k + bs.length then bs.getD (a - k) 0 else Memory.read m a := by
  induction bs generalizing m k with
  | nil => simp [Memory.writeBytes]
  | cons b bs ih =>
    rw [Memory.writeBytes, ih]
    simp only [Memory.read, Memory.write, sparseGet_set, List.length_cons]
    by_cases hk : a = k
    · subst hk
      simp
    · by_cases h : k + 1 ≤ a ∧ a < k + 1 + bs.length
      · have h2 : k ≤ a ∧ a < k + (bs.length + 1) := by omega
        have h3 : a - k = (a - (k + 1)) + 1 := by omega
        simp [h, h2, h3]
      · have h2 : ¬(k ≤ a ∧ a < k + (bs.length + 1)) := by omega
        rw [if_neg h, if_neg h2, if_neg hk]

/-- A byte outside the written ones keeps. -/
theorem State.byteAt_putBytes_other (s : State) (k : Nat) (bs : List Byte) (a : Nat) (h : a < k ∨ k + bs.length ≤ a) :
    (s.putBytes k bs).byteAt a = s.byteAt a := by
  show Memory.read (Memory.writeBytes s.mem k bs) a = Memory.read s.mem a
  rw [Memory.read_writeBytes, if_neg (by omega)]

/-- A written byte is read back. -/
theorem State.byteAt_putBytes_self (s : State) (k : Nat) (bs : List Byte) (a : Nat) (h : k ≤ a) (h' : a < k + bs.length) :
    (s.putBytes k bs).byteAt a = bs.getD (a - k) 0 := by
  show Memory.read (Memory.writeBytes s.mem k bs) a = _
  rw [Memory.read_writeBytes, if_pos ⟨h, h'⟩]

@[simp] theorem leBytes_length (n v : Nat) : (leBytes n v).length = n := by
  induction n generalizing v with
  | zero => rfl
  | succ n ih => simp [leBytes, ih]

theorem leNat_leBytes (n v : Nat) : leNat (leBytes n v) = v % 256 ^ n := by
  induction n generalizing v with
  | zero => simp [leBytes, leNat, Nat.mod_one]
  | succ n ih =>
    have h : (256 : Nat) ^ (n + 1) = 256 * 256 ^ n := Nat.pow_succ'
    rw [leBytes, leNat, ih, BitVec.toNat_ofNat, h, Nat.mod_mul]

theorem Memory.readBytes_writeBytes_self (m : Memory) (k : Nat) (bs : List Byte) :
    Memory.readBytes (Memory.writeBytes m k bs) k bs.length = bs := by
  have gen : ∀ (n i : Nat), i + n = bs.length → Memory.readBytes (Memory.writeBytes m k bs) (k + i) n = bs.drop i := by
    intro n
    induction n with
    | zero => intro i h; simp [Memory.readBytes, ← h]
    | succ n ih =>
      intro i h
      have hi : i < bs.length := by omega
      rw [Memory.readBytes, Memory.read_writeBytes, if_pos (by omega), show k + i + 1 = k + (i + 1) by omega, ih (i + 1) (by omega),
        List.drop_eq_getElem_cons hi]
      simp [List.getD_eq_getElem?_getD, hi]
  simpa using gen bs.length 0 (by omega)

/-- A number read back after it was written (R5). -/
theorem State.getNat_putNat_self (s : State) (k n v : Nat) : (s.putNat k n v).getNat k n = v % 256 ^ n := by
  show leNat (Memory.readBytes (Memory.writeBytes s.mem k (leBytes n v)) k n) = _
  have := Memory.readBytes_writeBytes_self s.mem k (leBytes n v)
  rw [leBytes_length] at this
  rw [this, leNat_leBytes]

/-! The canonical form. -/

theorem Memory.wf_write (m : Memory) (k : Nat) (b : Byte) (h : m.wf = true) : (m.write k b).wf = true := sparseWf_set _ _ _ _ h

theorem Memory.wf_writeBytes (m : Memory) (k : Nat) (bs : List Byte) (h : m.wf = true) : (Memory.writeBytes m k bs).wf = true := by
  induction bs generalizing m k with
  | nil => exact h
  | cons b bs ih => exact ih _ _ (Memory.wf_write m k b h)

/-- Writing bytes keeps the canonical form. -/
theorem State.wf_putBytes (s : State) (k : Nat) (bs : List Byte) (h : Memory.wf s.mem = true) :
    Memory.wf (s.putBytes k bs).mem = true := Memory.wf_writeBytes _ _ _ h

/-- Writing a number keeps the canonical form. -/
theorem State.wf_putNat (s : State) (k n v : Nat) (h : Memory.wf s.mem = true) : Memory.wf (s.putNat k n v).mem = true :=
  State.wf_putBytes s k _ h

/-- Blanking a range keeps the canonical form. -/
theorem State.wf_blank (s : State) (lo hi : Nat) (h : Memory.wf s.mem = true) : Memory.wf (s.blank lo hi).mem = true :=
  sparseWf_clear _ _ _ _ h

/-- Blanking a range of a tile's SRAM keeps the canonical form. -/
theorem State.wf_blankSram (s : State) (t lo hi : Nat) (h : Memory.wf s.mem = true) : Memory.wf (s.blankSram t lo hi).mem = true :=
  sparseWf_clear _ _ _ _ h

/-- Writing a word at a physical address keeps the canonical form. -/
theorem State.wf_putPaWord (s : State) (pa : Nat) (v : Word) (h : Memory.wf s.mem = true) :
    Memory.wf (s.putPaWord pa v).mem = true := by
  unfold State.putPaWord
  split
  · exact State.wf_putNat s _ _ _ h
  · exact h

theorem sparseWf_foldl_set (xs : List (Nat × Byte)) (f : Nat → Nat) (m : Memory) (h : m.wf = true) :
    Memory.wf (xs.foldl (fun m e => sparseSet blankByte m (f e.1) e.2) m) = true := by
  induction xs generalizing m with
  | nil => exact h
  | cons e xs ih => exact ih _ (sparseWf_set _ _ _ _ h)

/-- Moving a range of bytes keeps the canonical form. -/
theorem wf_moveRange (src dst n : Nat) (s : State) (h : Memory.wf s.mem = true) : Memory.wf (moveRange src dst n s).mem = true :=
  sparseWf_foldl_set _ (fun k => k - src + dst) _ (State.wf_blank _ _ _ ((State.detect_keeps s src n).1.symm ▸ h))

/-- The memory right after reset is in canonical form. -/
theorem Memory.wf_nil : Memory.wf [] = true := rfl

end Sys2Proof.Machine
end

