-- ==== Sys2Proof/Laws/Ops.lean ====
section
/-! SUPPORT. What each shared operation of the core can do, said once: parts in order, reads and room, retirement, and the operand
forms. -/

namespace Sys2Proof.Machine

/-! Parts. -/

theorem Act.andThen_go {α β : Type} (a : α) (s : State) (f : α → State → Act β) : (Act.go a s).andThen f = f a s := rfl

/-- A chain of parts that goes on: its first part does, and the rest does after it. -/
theorem Act.andThen_eq_go {α β : Type} {x : Act α} {f : α → State → Act β} {b : β} {s : State} :
    x.andThen f = .go b s ↔ ∃ a s1, x = .go a s1 ∧ f a s1 = .go b s := by
  cases x <;> simp [Act.andThen]

@[simp] theorem needs_true {β : Type} (w : Wait) (r : Act β) : needs true w r = r := rfl

@[simp] theorem needs_false {β : Type} (w : Wait) (r : Act β) : needs false w r = .wait w := rfl

@[simp] theorem trapsIf_false {β : Type} (t : TrapInfo) (r : Act β) : trapsIf false t r = r := rfl

@[simp] theorem trapsIf_true {β : Type} (t : TrapInfo) (r : Act β) : trapsIf true t r = .trap t := rfl

/-- A meaning of the core on a present thread is what its parts come to. -/
theorem coreOp_of_cur {s : State} {x : Thread} (h : s.cur = some x) (f : State → Act Unit) : coreOp s f = finish s (sourcesFirst s f) := by
  simp [coreOp, h]

/-- Parts that go on are what they come to. -/
theorem sourcesFirst_go {s t : State} {f : State → Act Unit} {u : Unit} (h : f s = .go u t) : sourcesFirst s f = .go u t := by
  simp [sourcesFirst, h]

/-- Parts that wait are what they come to. -/
theorem sourcesFirst_wait {s : State} {f : State → Act Unit} {w : Wait} (h : f s = .wait w) : sourcesFirst s f = .wait w := by
  simp [sourcesFirst, h]

/-- Parts that trap for another cause than a source's parity are what they come to. -/
theorem sourcesFirst_trap {s : State} {f : State → Act Unit} {c : TrapInfo} (h : f s = .trap c) (hc : c.mark.source = false) :
    sourcesFirst s f = .trap c := by
  simp [sourcesFirst, h, hc]

/-- A meaning of the core whose parts go on answers what they leave. -/
theorem coreOp_go {s t : State} {x : Thread} {f : State → Act Unit} {u : Unit} (hc : s.cur = some x) (h : f s = .go u t) :
    coreOp s f = .next t := by
  rw [coreOp_of_cur hc, sourcesFirst_go h]
  rfl

/-- A meaning of the core without a thread stops. -/
theorem coreOp_of_none {s : State} (h : s.cur = none) (f : State → Act Unit) : coreOp s f = .fault .nothingHere := by
  simp [coreOp, h]

/-- Whatever a meaning of the core answers, it is a next state where a thread is present. -/
theorem coreOp_next {s : State} {x : Thread} (h : s.cur = some x) (f : State → Act Unit) : ∃ t, coreOp s f = .next t := by
  rw [coreOp_of_cur h]
  cases sourcesFirst s f <;> exact ⟨_, rfl⟩

theorem finish_go (s t : State) : finish s (.go () t) = .next t := rfl

theorem finish_trap (s : State) (c : TrapInfo) : finish s (.trap c) = .next (takeTrap c s) := rfl

theorem finish_wait (s : State) (w : Wait) : finish s (.wait w) = .next (waitFor w s) := rfl

/-! Registers and ports. -/

/-- A read of a general register that goes on answers the register, and changes nothing. -/
theorem readS_gen {n : Nat} {s s1 : State} {v : Word} (h : readS (.gen n) s = .go v s1) : v = s.me.sreg n ∧ s1 = s := by
  simp only [readS] at h
  iterate 4
    split at h
    · simp at h
  simp only [Act.go.injEq] at h
  exact ⟨h.1.symm, h.2.symm⟩

/-- A read of a port that goes on takes the head of its CIN buffer. -/
theorem readS_port {d : Dir} {s s1 : State} {v : Word} (h : readS (.port d) s = .go v s1) :
    ∃ f, (s.hereTile.sc.cin d).head s.cycle = some f ∧ f.bad = false ∧ v = f.val
      ∧ s1 = s.updHere (fun x => { x with sc := x.sc.setCin ((s.hereTile.sc.cin d).pop s.cycle) d }) := by
  simp only [readS] at h
  split at h
  · simp at h
  · next f hf =>
    split at h
    · simp at h
    · simp only [Act.go.injEq] at h
      exact ⟨f, hf, by simp_all, h.1.symm, h.2.symm⟩

/-- A read of a general vector register that goes on answers the register, and changes nothing. -/
theorem readV_gen {n : Nat} {s s1 : State} {v : Vec} (h : readV (.gen n) s = .go v s1) : v = s.me.vreg n ∧ s1 = s := by
  simp only [readV] at h
  iterate 3
    split at h
    · simp at h
  simp only [Act.go.injEq] at h
  exact ⟨h.1.symm, h.2.symm⟩

/-- A read of a vector port that goes on takes the head of its CIN buffer. -/
theorem readV_port {d : Dir} {s s1 : State} {v : Vec} (h : readV (.port d) s = .go v s1) :
    ∃ f, (s.hereTile.ve.cin d).head s.cycle = some f ∧ f.bad = false ∧ v = f.val
      ∧ s1 = s.updHere (fun x => { x with ve := x.ve.setCin ((s.hereTile.ve.cin d).pop s.cycle) d }) := by
  simp only [readV] at h
  split at h
  · simp at h
  · next f hf =>
    split at h
    · simp at h
    · simp only [Act.go.injEq] at h
      exact ⟨f, hf, by simp_all, h.1.symm, h.2.symm⟩

/-- A read of a predicate register that goes on answers the register, and changes nothing. -/
theorem readK_go {k : Nat} {s s1 : State} {v : Word} (h : readK k s = .go v s1) : v = s.me.kreg k ∧ s1 = s := by
  simp only [readK] at h
  split at h
  · simp at h
  split at h
  · simp at h
  simp only [Act.go.injEq] at h
  exact ⟨h.1.symm, h.2.symm⟩

/-- A read of a scalar field changes nothing but the tiles' buffers. -/
theorem readS_keeps {r : SReg} {s s1 : State} {v : Word} (h : readS r s = .go v s1) : s1 = { s with tiles := s1.tiles } := by
  cases r with
  | gen n =>
    obtain ⟨-, rfl⟩ := readS_gen h
    rfl
  | port d =>
    obtain ⟨f, -, -, -, rfl⟩ := readS_port h
    rfl

/-- A read of a vector field changes nothing but the tiles' buffers. -/
theorem readV_keeps {r : VReg} {s s1 : State} {v : Vec} (h : readV r s = .go v s1) : s1 = { s with tiles := s1.tiles } := by
  cases r with
  | gen n =>
    obtain ⟨-, rfl⟩ := readV_gen h
    rfl
  | port d =>
    obtain ⟨f, -, -, -, rfl⟩ := readV_port h
    rfl

/-- The present thread is the same after a read of a scalar field. -/
theorem readS_me {r : SReg} {s s1 : State} {v : Word} (h : readS r s = .go v s1) : s1.me = s.me := by
  rw [readS_keeps h]
  rfl

/-- The present thread is the same after a read of a vector field. -/
theorem readV_me {r : VReg} {s s1 : State} {v : Vec} (h : readV r s = .go v s1) : s1.me = s.me := by
  rw [readV_keeps h]
  rfl

/-- The items of the step are the same after a read of a scalar field. -/
theorem readS_here {r : SReg} {s s1 : State} {v : Word} (h : readS r s = .go v s1) : s1.here = s.here := by
  rw [readS_keeps h]

/-! Register files. -/

@[simp] theorem Thread.sreg_zero (x : Thread) : x.sreg 0 = 0 := rfl

@[simp] theorem Thread.kreg_zero (x : Thread) : x.kreg 0 = BitVec.allOnes 64 := rfl

theorem Thread.sreg_setS (x : Thread) (n : Nat) (v : Word) (m : Nat) :
    (x.setS n v).sreg m = if n ≠ 0 ∧ m = n then v else x.sreg m := by
  by_cases hn : n = 0
  · simp [Thread.setS, hn]
  · by_cases hm : m = 0
    · have h : ¬(n ≠ 0 ∧ m = n) := fun h => hn (by omega)
      rw [if_neg h]
      simp [Thread.sreg, hm]
    · simp only [Thread.setS, hn, if_false, Thread.sreg, hm, sparseGet_set]
      by_cases h : m = n <;> simp [h, hn]

theorem Thread.sreg_putS (x : Thread) (n : Nat) (v : Word) (c l m : Nat) :
    (x.putS n v c l).sreg m = if n ≠ 0 ∧ m = n then v else x.sreg m := by
  rw [← Thread.sreg_setS]
  by_cases hn : n = 0
  · simp [Thread.putS, Thread.setS, hn]
  · simp [Thread.putS, hn, Thread.setBusy, Thread.sreg]

theorem Thread.vreg_putV (x : Thread) (n : Nat) (v : Vec) (c l m : Nat) :
    (x.putV n v c l).vreg m = if m = n then v else x.vreg m := by
  simp [Thread.putV, Thread.setV, Thread.setBusy, Thread.vreg, sparseGet_set]

/-! Retirement. -/

/-- An instruction of one word outside a repeat retires: the thread goes on at the next word. -/
theorem retireAt_plain {t k n : Nat} {v : Word} {s : State} {x : Thread} (h : s.thread t k = some x)
    (hr : (s.native t k).rep.active = false) :
    retireAt t k n v s = { s.setThread t k (some { x.ready with pc := x.pc + word n }) with
      retired := some ⟨x.pc, x.pc + word n, v, false⟩ } := by
  simp [retireAt, h, hr, Rep.advance]

/-- Retirement changes the thread, its repeat state and the note of what retired, and nothing else. -/
theorem retireAt_keeps (t k n : Nat) (v : Word) (s : State) :
    ∃ th na re, retireAt t k n v s = { s with threads := th, natives := na, retired := re } := by
  unfold retireAt
  split
  · exact ⟨_, _, _, rfl⟩
  · split <;> exact ⟨_, _, _, rfl⟩

@[simp] theorem retireAt_mem (t k n : Nat) (v : Word) (s : State) : (retireAt t k n v s).mem = s.mem := by
  obtain ⟨_, _, _, h⟩ := retireAt_keeps t k n v s
  rw [h]

/-! Operand forms. -/

/-- The room that a scalar destination needs. -/
theorem roomS_of {β : Type} {r : SReg} {s : State} (k : Act β)
    (h : match r with
      | .gen n => s.me.awaits n = false ∧ s.me.loadsS n = false
      | .port d => (s.hereTile.sc.cout d).used s.cycle + reservedS s s.here.tile d < 4) : roomS r s k = k := by
  cases r with
  | gen n =>
    obtain ⟨h1, h2⟩ : s.me.awaits n = false ∧ s.me.loadsS n = false := h
    simp [roomS, h1, h2]
  | port d => simp [roomS, show (s.hereTile.sc.cout d).used s.cycle + reservedS s s.here.tile d < 4 from h]

/-- The form d, a, b on operands that can be read and a destination with room. -/
theorem scalar3_next {d a b : SReg} {lat : Nat} {f : Word → Word → Val Word} {s s1 s2 : State} {x : Thread} {u v w : Word}
    (hc : s.cur = some x) (hd : ∀ β (k : Act β), roomS d s k = k) (ha : readS a s = .go u s1) (hb : readS b s1 = .go v s2)
    (hf : f u v = .ok w) : scalar3 d a b lat f s = .next (retireAt s2.here.tile s2.here.slot 4 w (writeS d w lat s2)) := by
  refine coreOp_go (u := ()) hc ?_
  rw [hd, ha, Act.andThen_go, hb, Act.andThen_go, hf]
  rfl

/-- The form d, a. -/
theorem scalar2_next {d a : SReg} {f : Word → Word} {s s1 : State} {x : Thread} {u : Word} (hc : s.cur = some x)
    (hd : ∀ β (k : Act β), roomS d s k = k) (ha : readS a s = .go u s1) :
    scalar2 d a f s = .next (retireAt s1.here.tile s1.here.slot 4 (f u) (writeS d (f u) 1 s1)) := by
  refine coreOp_go (u := ()) hc ?_
  rw [hd, ha, Act.andThen_go]
  rfl

end Sys2Proof.Machine
end

