-- ==== Sys2Proof/Tests/Slice0.lean ====
section
/-! SUPPORT. Tests: the words of the spec's encoding tables decode to what they stand for, each check of WellFormed refuses a term, an
instruction placed at the fetch runs, and for every statement with hypotheses a state and operands that meet them together. -/

namespace Sys2Proof.Tests

open Sys2Proof Sys2Proof.Machine Sys2Proof.Spec

set_option Elab.async false

/-! Decoding. The words come from the opcode table and the field layouts of R281-R297. -/

theorem test_decode_scalar_1 :
    [0x000A4181, 0x020A4181, 0x040A4181, 0x060A4181, 0x080A4181, 0x0A0A4181, 0x0C0A4181, 0x0E0A4181, 0x100A4181, 0x120A4181,
     0x140A4181, 0x160A4181].map (decodeTableWord 32) =
    [some (.add (.gen 3) (.gen 4) (.gen 5)),
     some (.sub (.gen 3) (.gen 4) (.gen 5)),
     some (.mul (.gen 3) (.gen 4) (.gen 5)),
     some (.mulh (.gen 3) (.gen 4) (.gen 5)),
     some (.mulhn (.gen 3) (.gen 4) (.gen 5)),
     some (.div (.gen 3) (.gen 4) (.gen 5)),
     some (.divn (.gen 3) (.gen 4) (.gen 5)),
     some (.rem (.gen 3) (.gen 4) (.gen 5)),
     some (.remn (.gen 3) (.gen 4) (.gen 5)),
     some (.and (.gen 3) (.gen 4) (.gen 5)),
     some (.or (.gen 3) (.gen 4) (.gen 5)),
     some (.xor (.gen 3) (.gen 4) (.gen 5))] := by decide

theorem test_decode_scalar_2 :
    [0x180A4181, 0x1A0A4181, 0x1C0A4181, 0x1E0A4181, 0x200A4181, 0x220A4181, 0x240A4181, 0x260A4181, 0x280A4181, 0x2A0A4181,
     0x2C0A4181, 0x2E0A4181].map (decodeTableWord 32) =
    [some (.andn (.gen 3) (.gen 4) (.gen 5)),
     some (.orn (.gen 3) (.gen 4) (.gen 5)),
     some (.shl (.gen 3) (.gen 4) (.gen 5)),
     some (.shr (.gen 3) (.gen 4) (.gen 5)),
     some (.sra (.gen 3) (.gen 4) (.gen 5)),
     some (.rol (.gen 3) (.gen 4) (.gen 5)),
     some (.min (.gen 3) (.gen 4) (.gen 5)),
     some (.max (.gen 3) (.gen 4) (.gen 5)),
     some (.minn (.gen 3) (.gen 4) (.gen 5)),
     some (.maxn (.gen 3) (.gen 4) (.gen 5)),
     some (.slt (.gen 3) (.gen 4) (.gen 5)),
     some (.sltn (.gen 3) (.gen 4) (.gen 5))] := by decide

theorem test_decode_scalar_3 :
    [0x300A4181, 0x320A4181, 0x340A4181, 0x3601C181, 0x3801C181, 0x3A01C181, 0x3D8A4181].map (decodeTableWord 32) =
    [some (.seq (.gen 3) (.gen 4) (.gen 5)),
     some (.addv (.gen 3) (.gen 4) (.gen 5)),
     some (.subv (.gen 3) (.gen 4) (.gen 5)),
     some (.clz (.gen 3) (.port .n)),
     some (.ctz (.gen 3) (.port .n)),
     some (.popc (.gen 3) (.port .n)),
     some (.sel (.gen 3) (.gen 4) (.gen 5) 6)] := by decide

theorem test_decode_immediate_and_control_1 :
    [0x03904182, 0x3F804182, 0xFFFDFD83, 0xFFFDFD84, 0xFFFDFD85, 0xFFFDFD86, 0xFFFDFD8A, 0x007E4187, 0x007E4188, 0x007E4189,
     0x80001F0B, 0x80001F0C].map (decodeTableWord 32) =
    [some (.bfx (.gen 3) (.gen 4) 8 8),
     some (.bfi (.gen 3) (.gen 4) 0 64),
     some (.addi (.gen 27) (.port .w) 0x7FFE#15),
     some (.andi (.gen 27) (.port .w) 0x7FFE#15),
     some (.ori (.gen 27) (.port .w) 0x7FFE#15),
     some (.xori (.gen 27) (.port .w) 0x7FFE#15),
     some (.slti (.gen 27) (.port .w) 0x7FFE#15),
     some (.shli (.gen 3) (.gen 4) 63#6),
     some (.shri (.gen 3) (.gen 4) 63#6),
     some (.srai (.gen 3) (.gen 4) 63#6),
     some (.lui (.port .s) 0x80001#20),
     some (.addpc (.port .s) 0x80001#20)] := by decide

theorem test_decode_immediate_and_control_2 :
    [0xFFF04190, 0xFFF24190, 0xFFF44190, 0xFFF64190, 0xFFF84190, 0xFFFA4190, 0xFFFFD091, 0x00101012, 0xFFC00293].map (decodeTableWord 32) =
    [some (.br .eq (.gen 3) (.gen 4) 0xFFF#12),
     some (.br .ne (.gen 3) (.gen 4) 0xFFF#12),
     some (.br .lt (.gen 3) (.gen 4) 0xFFF#12),
     some (.br .ge (.gen 3) (.gen 4) 0xFFF#12),
     some (.br .ltn (.gen 3) (.gen 4) 0xFFF#12),
     some (.br .gen (.gen 3) (.gen 4) 0xFFF#12),
     some (.jal (.gen 1) 0xFFFFD#20),
     some (.jalr (.gen 0) (.gen 1) 8#15),
     some (.loop (.gen 5) 0xFFC#12)] := by decide

theorem test_decode_memory_1 :
    [0x1FFE4198, 0x000A419A, 0x3FFE4198, 0x020A419A, 0x5FFE4198, 0x040A419A, 0x7FFE4198, 0x060A419A, 0x9FFE4198, 0x080A419A,
     0xBFFE4198, 0x0A0A419A].map (decodeTableWord 32) =
    [some (.ld .i8 (.gen 3) (.gen 4) 0xFFF#12),
     some (.ldAcq .i8 (.gen 3) (.gen 4) (.gen 5)),
     some (.ld .i16 (.gen 3) (.gen 4) 0xFFF#12),
     some (.ldAcq .i16 (.gen 3) (.gen 4) (.gen 5)),
     some (.ld .i32 (.gen 3) (.gen 4) 0xFFF#12),
     some (.ldAcq .i32 (.gen 3) (.gen 4) (.gen 5)),
     some (.ld .w64 (.gen 3) (.gen 4) 0xFFF#12),
     some (.ldAcq .w64 (.gen 3) (.gen 4) (.gen 5)),
     some (.ld .n8 (.gen 3) (.gen 4) 0xFFF#12),
     some (.ldAcq .n8 (.gen 3) (.gen 4) (.gen 5)),
     some (.ld .n16 (.gen 3) (.gen 4) 0xFFF#12),
     some (.ldAcq .n16 (.gen 3) (.gen 4) (.gen 5))] := by decide

theorem test_decode_memory_2 :
    [0xDFFE4198, 0x0C0A419A, 0x100A4099, 0x000A419B, 0x008A419E, 0x008A419F, 0x300A4099, 0x020A419B, 0x028A419E, 0x028A419F,
     0x500A4099, 0x040A419B].map (decodeTableWord 32) =
    [some (.ld .n32 (.gen 3) (.gen 4) 0xFFF#12),
     some (.ldAcq .n32 (.gen 3) (.gen 4) (.gen 5)),
     some (.st .b1 (.gen 4) (.gen 5) 0x801#12),
     some (.stRel .b1 (.gen 3) (.gen 4) (.gen 5)),
     some (.ldg .b1 (.gen 3) (.gen 4) (.gen 5) 2),
     some (.stg .b1 (.gen 3) (.gen 4) (.gen 5) 2),
     some (.st .b2 (.gen 4) (.gen 5) 0x801#12),
     some (.stRel .b2 (.gen 3) (.gen 4) (.gen 5)),
     some (.ldg .b2 (.gen 3) (.gen 4) (.gen 5) 2),
     some (.stg .b2 (.gen 3) (.gen 4) (.gen 5) 2),
     some (.st .b4 (.gen 4) (.gen 5) 0x801#12),
     some (.stRel .b4 (.gen 3) (.gen 4) (.gen 5))] := by decide

theorem test_decode_memory_3 :
    [0x048A419E, 0x048A419F, 0x700A4099, 0x060A419B, 0x068A419E, 0x068A419F, 0x008A419C, 0x008A4E9D, 0xFFF641A0, 0xFFF641A1,
     0xFFF641A4, 0x804A40A2].map (decodeTableWord 32) =
    [some (.ldg .b4 (.gen 3) (.gen 4) (.gen 5) 2),
     some (.stg .b4 (.gen 3) (.gen 4) (.gen 5) 2),
     some (.st .b8 (.gen 4) (.gen 5) 0x801#12),
     some (.stRel .b8 (.gen 3) (.gen 4) (.gen 5)),
     some (.ldg .b8 (.gen 3) (.gen 4) (.gen 5) 2),
     some (.stg .b8 (.gen 3) (.gen 4) (.gen 5) 2),
     some (.ldv (.gen 3) (.gen 4) (.gen 5) 2),
     some (.stv (.port .e) (.gen 4) (.gen 5) 2),
     some (.ldw (.gen 3) (.gen 4) 0x7FFB#15),
     some (.ldwe (.gen 3) (.gen 4) 0x7FFB#15),
     some (.fetest (.gen 3) (.gen 4) 0x7FFB#15),
     some (.stf (.gen 4) (.gen 5) 0x4021#15)] := by decide

theorem test_decode_memory_4 :
    [0x804A40A3, 0x00804025, 0x00804026, 0x00804027].map (decodeTableWord 32) =
    [some (.feset (.gen 4) (.gen 5) 0x4021#15),
     some (.pfetch (.gen 4) 64#15),
     some (.cflush (.gen 4) 64#15),
     some (.cinv (.gen 4) 64#15)] := by decide

theorem test_decode_atomic_and_sync_1 :
    [0x000A41A8, 0x620A41A8, 0x220A402B, 0x840A41A8, 0x040A402B, 0xE60A41A8, 0x260A402B, 0x080A41A8, 0x080A402B, 0x6A0A41A8,
     0x2A0A402B, 0x8C0A41A8].map (decodeTableWord 32) =
    [some (.amo .swap .none false (.gen 3) (.gen 4) (.gen 5)),
     some (.amo .add .acq true (.gen 3) (.gen 4) (.gen 5)),
     some (.red .add true (.gen 4) (.gen 5)),
     some (.amo .and .rel false (.gen 3) (.gen 4) (.gen 5)),
     some (.red .and false (.gen 4) (.gen 5)),
     some (.amo .or .acqrel true (.gen 3) (.gen 4) (.gen 5)),
     some (.red .or true (.gen 4) (.gen 5)),
     some (.amo .xor .none false (.gen 3) (.gen 4) (.gen 5)),
     some (.red .xor false (.gen 4) (.gen 5)),
     some (.amo .min .acq true (.gen 3) (.gen 4) (.gen 5)),
     some (.red .min true (.gen 4) (.gen 5)),
     some (.amo .max .rel false (.gen 3) (.gen 4) (.gen 5))] := by decide

theorem test_decode_atomic_and_sync_2 :
    [0x0C0A402B, 0xEE0A41A8, 0x2E0A402B, 0x100A41A8, 0x100A402B, 0x720A41A8, 0x320A402B, 0x940A41A8, 0x140A402B, 0xF60A41A8,
     0x360A402B, 0x8C4A41A9].map (decodeTableWord 32) =
    [some (.red .max false (.gen 4) (.gen 5)),
     some (.amo .minn .acqrel true (.gen 3) (.gen 4) (.gen 5)),
     some (.red .minn true (.gen 4) (.gen 5)),
     some (.amo .maxn .none false (.gen 3) (.gen 4) (.gen 5)),
     some (.red .maxn false (.gen 4) (.gen 5)),
     some (.amo .fadd .acq true (.gen 3) (.gen 4) (.gen 5)),
     some (.red .fadd true (.gen 4) (.gen 5)),
     some (.amo .fmin .rel false (.gen 3) (.gen 4) (.gen 5)),
     some (.red .fmin false (.gen 4) (.gen 5)),
     some (.amo .fmax .acqrel true (.gen 3) (.gen 4) (.gen 5)),
     some (.red .fmax true (.gen 4) (.gen 5)),
     some (.cas .rel true (.gen 3) (.gen 4) (.gen 5) (.gen 6))] := by decide

theorem test_decode_atomic_and_sync_3 :
    [0x000A41A9, 0x3E0A41AA, 0x3E4A41AA, 0x3E8A41AA, 0x3ECA41AA, 0x3F0A41AA, 0x3F4A41AA, 0x3F8A41AA, 0x3FCA41AA, 0x0000402C,
     0x0200402C, 0x000A402D].map (decodeTableWord 32) =
    [some (.cas .none false (.gen 3) (.gen 4) (.gen 5) (.gen 0)),
     some (.amoord .swap (.gen 3) (.gen 4) (.gen 5) (.port .w)),
     some (.amoord .add (.gen 3) (.gen 4) (.gen 5) (.port .w)),
     some (.amoord .and (.gen 3) (.gen 4) (.gen 5) (.port .w)),
     some (.amoord .or (.gen 3) (.gen 4) (.gen 5) (.port .w)),
     some (.amoord .xor (.gen 3) (.gen 4) (.gen 5) (.port .w)),
     some (.amoord .min (.gen 3) (.gen 4) (.gen 5) (.port .w)),
     some (.amoord .max (.gen 3) (.gen 4) (.gen 5) (.port .w)),
     some (.amoord .fadd (.gen 3) (.gen 4) (.gen 5) (.port .w)),
     some (.fence (.gen 4)),
     some (.fencesc (.gen 4)),
     some (.bar (.gen 4) (.gen 5))] := by decide

theorem test_decode_atomic_and_sync_4 :
    [0x000A402E, 0x020A41AE, 0x058001AE, 0x0600402E].map (decodeTableWord 32) =
    [some (.aexp (.gen 4) (.gen 5)),
     some (.await (.gen 3) (.gen 4) (.gen 5)),
     some (.aalloc (.gen 3) 6),
     some (.afree (.gen 4))] := by decide

theorem test_decode_vector_integer_1 :
    [0x008A41B0, 0x128A41B0, 0x248A41B0, 0x368A41B0, 0x488A41B0, 0x5A8A41B0, 0x6C8A41B0, 0x7E8A41B0, 0x808A41B0, 0x928A41B0,
     0xA48A41B0, 0xB68A41B0].map (decodeTableWord 32) =
    [some (.vadd .i8 (.gen 3) (.gen 4) (.gen 5) 2),
     some (.vsub .i16 (.gen 3) (.gen 4) (.gen 5) 2),
     some (.vmul .i32 (.gen 3) (.gen 4) (.gen 5) 2),
     some (.vmulh .i64 (.gen 3) (.gen 4) (.gen 5) 2),
     some (.vmin .n8 (.gen 3) (.gen 4) (.gen 5) 2),
     some (.vmax .n16 (.gen 3) (.gen 4) (.gen 5) 2),
     some (.vand .n32 (.gen 3) (.gen 4) (.gen 5) 2),
     some (.vor .n64 (.gen 3) (.gen 4) (.gen 5) 2),
     some (.vxor .i8 (.gen 3) (.gen 4) (.gen 5) 2),
     some (.vandn .i16 (.gen 3) (.gen 4) (.gen 5) 2),
     some (.vshl .i32 (.gen 3) (.gen 4) (.gen 5) 2),
     some (.vshr .i64 (.gen 3) (.gen 4) (.gen 5) 2)] := by decide

theorem test_decode_vector_integer_2 :
    [0xC88A41B0, 0xDA8A41B0, 0xEC8A41B0, 0xFE8A41B0, 0x068041B1, 0x008A43B2, 0x128A43B2, 0x248A43B2, 0x368A43B2, 0x488A43B2,
     0x5A8A43B2, 0x028A41B3].map (decodeTableWord 32) =
    [some (.vsra .n8 (.gen 3) (.gen 4) (.gen 5) 2),
     some (.vadds .n16 (.gen 3) (.gen 4) (.gen 5) 2),
     some (.vsubs .n32 (.gen 3) (.gen 4) (.gen 5) 2),
     some (.vavg .n64 (.gen 3) (.gen 4) (.gen 5) 2),
     some (.vabs .i64 (.gen 3) (.gen 4) 2),
     some (.vcmp .eq .i8 7 (.gen 4) (.gen 5) 2),
     some (.vcmp .ne .i16 7 (.gen 4) (.gen 5) 2),
     some (.vcmp .lt .i32 7 (.gen 4) (.gen 5) 2),
     some (.vcmp .le .i64 7 (.gen 4) (.gen 5) 2),
     some (.vcmp .gt .n8 7 (.gen 4) (.gen 5) 2),
     some (.vcmp .ge .n16 7 (.gen 4) (.gen 5) 2),
     some (.vsel .i16 (.gen 3) (.gen 4) (.gen 5) 2)] := by decide

theorem test_decode_vector_integer_3 :
    [0x128041B3, 0x2281C1B3, 0x328A41B3, 0x428A41B3, 0x000A41B4, 0x100A41B4, 0x200A41B4, 0x300041B4, 0x400044B4, 0x500044B4,
     0x008A41B5, 0x028A41B5].map (decodeTableWord 32) =
    [some (.vmov .i16 (.gen 3) (.gen 4) 2),
     some (.vbcast .i16 (.gen 3) (.port .n) 2),
     some (.vext .i16 (.gen 3) (.gen 4) (.gen 5) 2),
     some (.vins .i16 (.gen 3) (.gen 4) (.gen 5) 2),
     some (.kand 3 4 5),
     some (.kor 3 4 5),
     some (.kxor 3 4 5),
     some (.knot 3 4),
     some (.kpopc (.gen 9) 4),
     some (.kfirst (.gen 9) 4),
     some (.vpermByte (.gen 3) (.gen 4) (.gen 5) 2),
     some (.vpermNib (.gen 3) (.gen 4) (.gen 5) 2)] := by decide

theorem test_decode_vector_integer_4 :
    [0x148A41B5, 0x248A41B5, 0x348A41B5, 0x448A41B5, 0x548A41B5, 0x648001B5, 0xF48A41B6, 0x0A8041B7, 0x1A8041B7, 0x2A8041B7,
     0x3A8041B7, 0x4A8041B7].map (decodeTableWord 32) =
    [some (.vpermx .i32 (.gen 3) (.gen 4) (.gen 5) 2),
     some (.vzip .i32 (.gen 3) (.gen 4) (.gen 5) 2),
     some (.vunzip .i32 (.gen 3) (.gen 4) (.gen 5) 2),
     some (.vcomp .i32 (.gen 3) (.gen 4) (.gen 5) 2),
     some (.vexpd .i32 (.gen 3) (.gen 4) (.gen 5) 2),
     some (.viota .i32 (.gen 3) 2),
     some (.vslide .i32 (.gen 3) (.gen 4) (.gen 5) 16 2),
     some (.vred (.add .n16) (.gen 3) (.gen 4) 2),
     some (.vred (.min .n16) (.gen 3) (.gen 4) 2),
     some (.vred (.max .n16) (.gen 3) (.gen 4) 2),
     some (.vred (.and .n16) (.gen 3) (.gen 4) 2),
     some (.vred (.or .n16) (.gen 3) (.gen 4) 2)] := by decide

theorem test_decode_vector_integer_5 :
    [0x5A8041B7, 0x6A8041B7, 0x7A8041B7, 0x8A8041B7].map (decodeTableWord 32) =
    [some (.vred (.xor .n16) (.gen 3) (.gen 4) 2),
     some (.vred (.fadd .f64) (.gen 3) (.gen 4) 2),
     some (.vred (.fmin .f64) (.gen 3) (.gen 4) 2),
     some (.vred (.fmax .f64) (.gen 3) (.gen 4) 2)] := by decide

theorem test_decode_vector_floating_1 :
    [0x008A41B8, 0x128A41B8, 0x248A41B8, 0x368A41B8, 0x488A41B8, 0x5A8A41B8, 0x648041B8, 0x768041B8, 0x888041B8, 0x088A41B9,
     0x188A41B9, 0x0A8A43BA].map (decodeTableWord 32) =
    [some (.vfadd .e4m3 (.gen 3) (.gen 4) (.gen 5) 2),
     some (.vfsub .e5m2 (.gen 3) (.gen 4) (.gen 5) 2),
     some (.vfmul .bf16 (.gen 3) (.gen 4) (.gen 5) 2),
     some (.vfdiv .f16 (.gen 3) (.gen 4) (.gen 5) 2),
     some (.vfmin .f32 (.gen 3) (.gen 4) (.gen 5) 2),
     some (.vfmax .f64 (.gen 3) (.gen 4) (.gen 5) 2),
     some (.vfsqrt .bf16 (.gen 3) (.gen 4) 2),
     some (.vfclass .f16 (.gen 3) (.gen 4) 2),
     some (.vrnd .f32 (.gen 3) (.gen 4) 2),
     some (.vfma .f32 (.gen 3) (.gen 4) (.gen 5) 2),
     some (.vfms .f32 (.gen 3) (.gen 4) (.gen 5) 2),
     some (.vfcmp .eq .f64 7 (.gen 4) (.gen 5) 2)] := by decide

theorem test_decode_vector_floating_2 :
    [0x1A8A43BA, 0x2A8A43BA, 0x3A8A43BA, 0x4A8A43BA, 0x5A8A43BA, 0x6A8A43BA, 0x7A8A43BA, 0xC08241BB, 0x568441BB, 0x288641BB,
     0x048041BC, 0x168041BC].map (decodeTableWord 32) =
    [some (.vfcmp .ne .f64 7 (.gen 4) (.gen 5) 2),
     some (.vfcmp .lt .f64 7 (.gen 4) (.gen 5) 2),
     some (.vfcmp .le .f64 7 (.gen 4) (.gen 5) 2),
     some (.vfcmp .gt .f64 7 (.gen 4) (.gen 5) 2),
     some (.vfcmp .ge .f64 7 (.gen 4) (.gen 5) 2),
     some (.vfcmp .un .f64 7 (.gen 4) (.gen 5) 2),
     some (.vfcmp .or .f64 7 (.gen 4) (.gen 5) 2),
     some (.vcvt true (.flt .e4m3) (.int .n8) (.gen 3) (.gen 4) 2),
     some (.vcvt false (.int .i64) (.flt .f64) (.gen 3) (.gen 4) 2),
     some (.vcvt false (.flt .f32) (.flt .bf16) (.gen 3) (.gen 4) 2),
     some (.vexp2 .bf16 (.gen 3) (.gen 4) 2),
     some (.vlog2 .f16 (.gen 3) (.gen 4) 2)] := by decide

theorem test_decode_vector_floating_3 :
    [0x288041BC, 0x3A8041BC, 0x088A41BD, 0x188A41BD, 0x2C8A41BD, 0x3C8A41BD].map (decodeTableWord 32) =
    [some (.vrcp .f32 (.gen 3) (.gen 4) 2),
     some (.vrsq .f64 (.gen 3) (.gen 4) 2),
     some (.vtord .f32 (.gen 3) (.gen 4) (.gen 5) 2),
     some (.vsort .f32 (.gen 3) (.gen 4) (.gen 5) 2),
     some (.vjoinPair .n32 (.gen 3) (.gen 4) (.gen 5) 2),
     some (.vjoinUnion .n32 (.gen 3) (.gen 4) (.gen 5) 2)] := by decide

theorem test_decode_matrix_1 :
    [0x001E4050, 0x00F80A51, 0x00480A52, 0x00480A53, 0x00006BD4, 0x0000EBD4, 0x00016BD4, 0x0001EBD4, 0x00026BD4, 0x0002EBD4,
     0x00036BD4, 0x0003EBD4].map (decodeTableWord 32) =
    [some (.rep (.gen 4) 16),
     some (.qset 5 (.port .w)),
     some (.qadv 5 (.gen 9)),
     some (.qpos 5 (.gen 9)),
     some (.dot .i8i8 3 5 6),
     some (.dot .i8n8 3 5 6),
     some (.dot .n8i8 3 5 6),
     some (.dot .n8n8 3 5 6),
     some (.dot .e4m3e4m3 3 5 6),
     some (.dot .e4m3e5m2 3 5 6),
     some (.dot .e5m2e4m3 3 5 6),
     some (.dot .e5m2e5m2 3 5 6)] := by decide

theorem test_decode_matrix_2 :
    [0x00046BD4, 0x0004EBD4, 0x00886BD5, 0x0088EBD5, 0x00896BD5, 0x000001D6, 0x004801D7, 0x004801D8, 0x00206B59, 0x04686B59,
     0x00B06B59, 0x04F86B59].map (decodeTableWord 32) =
    [some (.dot .bf16 3 5 6),
     some (.dot .f16 3 5 6),
     some (.dotmx .e4m3 3 5 6 1 2),
     some (.dotmx .e5m2 3 5 6 1 2),
     some (.dotmx .i8 3 5 6 1 2),
     some (.mzero 3),
     some (.mld 3 (.gen 9)),
     some (.mst 3 (.gen 9)),
     some (.mout .i8 false false true false 2 5 6),
     some (.mout .n8 true false true true 2 5 6),
     some (.mout .e4m3 false true true false 2 5 6),
     some (.mout .e5m2 true true true true 2 5 6)] := by decide

theorem test_decode_matrix_3 :
    [0x01206B59, 0x05686B59, 0x01906B59, 0x0048005A, 0x00B86A5B, 0x00006A5B, 0x00206BDC].map (decodeTableWord 32) =
    [some (.mout .bf16 false false true false 2 5 6),
     some (.mout .f16 true false true true 2 5 6),
     some (.mout .f32 false true false false 2 5 6),
     some (.actld (.gen 9)),
     some (.split true 8 5 6),
     some (.split false 1 5 6),
     some (.merge 5 3 5 6)] := by decide

theorem test_decode_engine_and_system_1 :
    [0x000041E0, 0x00004E61, 0x00004062, 0x000003E3, 0x000001E4, 0xFF8A41E5, 0x02CA4065, 0x134A4066, 0x00000067, 0x00000068,
     0x000041E9, 0x020041E9].map (decodeTableWord 32) =
    [some (.cpy (.gen 3) (.gen 4)),
     some (.strm (.port .n) (.gen 4)),
     some (.strb (.gen 4)),
     some (.leave 7),
     some (.rstat (.gen 3)),
     some (.send 127 2 true (.gen 4) (.gen 5) (.gen 3)),
     some (.send 1 3 false (.gen 4) (.gen 5) (.gen 0)),
     some (.spawn 9 1 true (.gen 4) (.gen 5)),
     some (.hend),
     some (.wclose),
     some (.launch (.gen 3) (.gen 4)),
     some (.launchKill (.gen 3) (.gen 4))] := by decide

theorem test_decode_engine_and_system_2 :
    [0x040A41E9, 0x060041E9, 0x080041E9, 0x000A41EA, 0x0000406B, 0xD500406C, 0x0000006D, 0x002801F0, 0x000C4071, 0x00004072,
     0x00000073, 0x00000074].map (decodeTableWord 32) =
    [some (.launchSig (.gen 3) (.gen 4) (.gen 5)),
     some (.launchPre (.gen 3) (.gen 4)),
     some (.launchRes (.gen 3) (.gen 4)),
     some (.adig (.gen 3) (.gen 4) (.gen 5)),
     some (.ainv (.gen 4)),
     some (.live true 0x55#7 (.gen 4)),
     some (.home),
     some (.mfs (.gen 3) 0x014),
     some (.mts 0x006 (.gen 4)),
     some (.trap (.gen 4)),
     some (.eret),
     some (.wfe)] := by decide

theorem test_decode_engine_and_system_3 :
    [0x00000075, 0x00000076, 0xFFFE0077, 0x000A4078, 0x00004079, 0x0000407A].map (decodeTableWord 32) =
    [some (.yield),
     some (.halt),
     some (.brk 0x7FFF#15),
     some (.tlbinv (.gen 4) (.gen 5)),
     some (.icinv (.gen 4)),
     some (.rpace (.gen 4))] := by decide

theorem test_decode_wide_and_switch :
    [0x80000000000201FF, 0x12345678000401FF, 0x003F00110006017F, 0x0000000000000000, 0x000000011A298D11, 0x7FF0000D1A298D12,
     0x0050000000000003, 0x000FFFF800000004, 0x0000001000000005, 0x0000000000000006, 0x0000000000000007].map (decodeTableWord 64)
     =
    [some (.li (.gen 3) 0x80000000#32),
     some (.lih (.gen 3) 0x12345678#32),
     some (.board 2 0x0011#16 64),
     some (.snop),
     some (.route ⟨(.inp .n), (.inp .e), (.inp .s), (.inp .w), (.inp .n), .cout, .none, .cout, (.inp .n), (.inp .e)⟩),
     some (.routec 3 2047 ⟨(.inp .n), (.inp .e), (.inp .s), (.inp .w), (.inp .n), .cout, .none, .cout, (.inp .n), (.inp .e)⟩),
     some (.sjmp 5),
     some (.scnt 2 0xFFFF#16),
     some (.swaitc true),
     some (.ssigc false),
     some (.shalt)] := by decide

theorem test_decode_refused :
    decodeTableWord 32 0 = none ∧ decodeTableWord 32 0x00000001 = some (.add (.gen 0) (.gen 0) (.gen 0))
      ∧ decodeTableWord 64 0x8 = none := by decide

/-! Well-formedness: one ill-formed term for each check, and a good one. -/

theorem test_wf_registers :
    (Instr.add (.gen 28) (.gen 0) (.gen 0)).wf = false ∧ (Instr.add (.gen 0) (.gen 28) (.gen 0)).wf = false
      ∧ (Instr.add (.gen 0) (.gen 0) (.gen 28)).wf = false ∧ (Instr.add (.gen 27) (.port .n) (.gen 0)).wf = true
      ∧ (Instr.vadd .i8 (.gen 28) (.gen 0) (.gen 0) 0).wf = false ∧ (Instr.vadd .i8 (.gen 0) (.gen 0) (.gen 0) 8).wf = false
      ∧ (Instr.clz (.gen 0) (.gen 28)).wf = false ∧ (Instr.loop (.gen 28) 0).wf = false ∧ (Instr.lui (.gen 28) 0).wf = false
      ∧ (Instr.vabs .i8 (.gen 0) (.gen 28) 0).wf = false ∧ (Instr.qset 8 (.gen 0)).wf = false ∧ (Instr.mzero 4).wf = false
      ∧ (Instr.mzero 3).wf = true := by decide

theorem test_wf_operands :
    (Instr.bfx (.gen 1) (.gen 2) 0 0).wf = false ∧ (Instr.bfx (.gen 1) (.gen 2) 60 5).wf = false
      ∧ (Instr.bfx (.gen 1) (.gen 2) 60 4).wf = true ∧ (Instr.bfi (.gen 1) (.gen 2) 64 0).wf = false
      ∧ (Instr.red .swap false (.gen 1) (.gen 2)).wf = false ∧ (Instr.red .add false (.gen 1) (.gen 2)).wf = true
      ∧ (Instr.cas .none false (.gen 1) (.gen 2) (.gen 3) (.gen 4)).wf = false
      ∧ (Instr.cas .acq false (.gen 1) (.gen 2) (.gen 3) (.gen 4)).wf = true
      ∧ (Instr.vslide .i8 (.gen 1) (.gen 2) (.gen 3) 17 0).wf = false ∧ (Instr.vslide .i64 (.gen 1) (.gen 2) (.gen 3) 9 0).wf = false
      ∧ (Instr.vslide .i8 (.gen 1) (.gen 2) (.gen 3) 0 0).wf = false ∧ (Instr.vslide .i8 (.gen 1) (.gen 2) (.gen 3) 16 0).wf = true
      ∧ (Instr.vcvt false (.int .i32) (.int .i8) (.gen 1) (.gen 2) 0).wf = false
      ∧ (Instr.vcvt true (.flt .f32) (.flt .f16) (.gen 1) (.gen 2) 0).wf = false
      ∧ (Instr.vcvt true (.flt .e4m3) (.flt .f32) (.gen 1) (.gen 2) 0).wf = true := by decide

theorem test_wf_units :
    (Instr.rep (.gen 1) 0).wf = false ∧ (Instr.rep (.gen 1) 17).wf = false ∧ (Instr.rep (.gen 1) 16).wf = true
      ∧ (Instr.mout .f32 false false true false 0 0 1).wf = false ∧ (Instr.mout .e4m3 false false false false 0 0 1).wf = false
      ∧ (Instr.split false 0 0 1).wf = false ∧ (Instr.split false 9 0 1).wf = false ∧ (Instr.merge 8 0 0 1).wf = true
      ∧ (Instr.board 0 7 0).wf = false ∧ (Instr.board 0 7 65).wf = false ∧ (Instr.board 0 7 64).wf = true
      ∧ (Instr.send 128 0 true (.gen 1) (.gen 2) (.gen 3)).wf = false ∧ (Instr.send 127 4 true (.gen 1) (.gen 2) (.gen 3)).wf = false
      ∧ (Instr.send 127 3 false (.gen 1) (.gen 2) (.gen 3)).wf = false ∧ (Instr.send 127 3 true (.gen 1) (.gen 2) (.gen 3)).wf = true
      ∧ (Instr.mfs (.gen 1) 0x007).wf = false ∧ (Instr.mfs (.gen 1) 0x044).wf = true
      ∧ (Instr.routec 4 0 ⟨.none, .none, .none, .none, .none, .none, .none, .none, .none, .none⟩).wf = false
      ∧ (Instr.route ⟨.none, .none, .none, .none, .cout, .none, .none, .none, .none, .none⟩).wf = false
      ∧ (Instr.sjmp 2048).wf = false ∧ (Instr.scnt 4 0).wf = false := by decide

/-! One step: an instruction placed where the fetch reads it is the one that runs (R279). -/

theorem test_step_runs_placed :
    (match step (State.reset.withFetchWord 64 0x80000000000201FF) with
     | .next t => t.threads.filterMap (fun e => e.2.map (fun x => (x.pc, x.sreg 3)))
     | _ => []) = [(0x4008, 0xFFFFFFFF80000000)] := by decide +kernel


/-! Witnesses: for each statement, a state and operands that meet its hypotheses together; a statement of several clauses has one for
each clause, at a boundary value where the clauses meet. -/

/-- A thread with a handler at 0x2000, and a few registers. -/
def th0 : Thread :=
  { Thread.fresh with pc := 0x1000, uid := 5, trapvec := 0x2001, s := [(1, 7), (2, 5), (4, 0x7FFFFFFFFFFFFFFF), (6, 1), (8, 0x8000000000000000)],
                      v := [(1, 0x0102030405060708), (2, 0x3F8000003F800000)], k := [(1, 0x0F)] }

/-- A thread in slot 0 of tile 0, in cycle 100. -/
def at0 (x : Thread) : State := { State.reset.setThread 0 0 (some x) with cycle := 100 }

/-- The state most witnesses use. -/
def s0 : State := at0 th0

/-- A flit at the head of the north CIN buffers of tile 0. -/
def sp : State :=
  s0.updHere (fun x => { x with
    sc := x.sc.setCin ⟨[⟨90, 9, false⟩], 0, 0⟩ .n,
    ve := x.ve.setCin ⟨[⟨90, 9, false⟩], 0, 0⟩ .n })

theorem witness_CoreDecodeInvertsEncode :
    ((Instr.add (.gen 27) (.port .n) (.gen 0)).wf = true ∧ isCore (.add (.gen 27) (.port .n) (.gen 0)) = true) ∧
    ((Instr.li (.gen 3) 0x80000000).wf = true ∧ isCore (.li (.gen 3) 0x80000000) = true) := by decide

theorem witness_EncodeInvertsDecode :
    decodeCore 0x000A4181 0 = .ok (.add (.gen 3) (.gen 4) (.gen 5)) ∧ decodeCore 0x000201FF 0xFFFFFFFF = .ok (.li (.gen 3) 0xFFFFFFFF) ∧
    ((Instr.sjmp 2047).wf = true ∧ encodeSwitch (.sjmp 2047) = some 0x7FF0000000000003) ∧ decodeSwitch 7 = .ok .shalt := by
  refine ⟨rfl, rfl, ⟨rfl, rfl⟩, rfl⟩

/-- ADD s1, s4, s2 placed as the next instruction. -/
def placed : State := State.reset.withFetchWord 32 0x00044081

theorem witness_StepKeepsMemoryCanonical :
    Safety.MemoryOk placed ∧ (match step placed with
      | .next _ => true
      | _ => false) = true := by
  constructor
  · show Memory.wf placed.mem = true
    decide +kernel
  · decide +kernel

/-- Whether a turn of slot 0 of tile 0 is ready to fetch. -/
def ready0 (s : State) (x : Thread) : Bool :=
  decide (s.power.tripped = false) && decide ((coreState s ⟨1, 1, 1, .core 0 0⟩ [] 0 0).thread 0 0 = some x)
    && mayIssue (coreState s ⟨1, 1, 1, .core 0 0⟩ [] 0 0) 0 0 x && !passedOver (advance { s with agenda := [] } ⟨1, 1, 1, .core 0 0⟩) 0 0
    && decide (gangRole (coreState s ⟨1, 1, 1, .core 0 0⟩ [] 0 0) 0 0 = 0)

theorem witness_CoreStepRunsFetched :
    (placed.agenda = [⟨1, 1, 1, .core 0 0⟩] ∧ ready0 placed (placedThread Thread.fresh) = true ∧
      ((coreState placed ⟨1, 1, 1, .core 0 0⟩ [] 0 0).native 0 0).rep.active = false) ∧
    (match fetchInstr (coreState placed ⟨1, 1, 1, .core 0 0⟩ [] 0 0) 0 0x1000 2 0x4000 with
     | .ok (w, s1) => (match decodeCore w.1.toNat w.2.toNat with
       | .ok _ => true
       | .error _ => false) && !(s1.native 0 0).rep.active
     | .error _ => false) = true ∧
    (match fetchInstr (coreState (State.reset.withFetchWord 32 0) ⟨1, 1, 1, .core 0 0⟩ [] 0 0) 0 0x1000 2 0x4000 with
     | .ok (w, s1) => (match decodeCore w.1.toNat w.2.toNat with
       | .ok _ => false
       | .error _ => true) && !(s1.native 0 0).rep.active
     | .error _ => false) = true ∧
    (match fetchInstr (coreState placed ⟨1, 1, 1, .core 0 0⟩ [] 0 0) 0 0x1000 2 0x4002 with
     | .ok _ => false
     | .error c => decide (c.cause = .misalign)) = true := by decide +kernel

/-- A thread in the second instruction of a repeat whose words are held. -/
def repeating : State :=
  (placed.updNative 0 0 (fun n => { n with rep := ⟨true, 0x4000, 2, [⟨0, 0x00044081, 0⟩, ⟨1, 0x02044081, 0⟩], 1, 3⟩ })).updThread 0 0
    (fun x => { x with pc := 0x4004 })

theorem witness_CoreStepReplays :
    ready0 repeating { placedThread Thread.fresh with pc := 0x4004 } = true ∧
    ((coreState repeating ⟨1, 1, 1, .core 0 0⟩ [] 0 0).native 0 0).rep.active = true ∧
    ((coreState repeating ⟨1, 1, 1, .core 0 0⟩ [] 0 0).native 0 0).rep.buf[1]? = some ⟨1, 0x02044081, 0⟩ ∧
    decodeCore 0x02044081 0 = .ok (.sub (.gen 1) (.gen 4) (.gen 2)) := by
  refine ⟨?_, ?_, ?_, rfl⟩ <;> decide +kernel

theorem witness_SwitchStepRuns :
    let s := State.reset.withFetchWord 64 7
    s.agenda = [⟨1, 1, 1, .switch 0⟩] ∧ s.power.tripped = false ∧ (s.tile 0).sw.halted = false ∧ (s.tile 0).sw.blocked = false ∧
      (s.tile 0).sw.ranAt ≠ s.cycle + 1 + 1 ∧ (s.tile 0).halted = false ∧ (s.tile 0).halting = false ∧
      regionStopping (coreState s ⟨1, 1, 1, .switch 0⟩ [] 0 0) 0 = false := by decide +kernel

theorem witness_EventStepRuns :
    isEvent .schedulerPass = true ∧ isEvent .reset = true ∧ State.reset.power.tripped = false := by decide

theorem witness_TripHoldsUntilReset :
    let s : State := { State.reset with agenda := [⟨1, 1, 1, .core 0 0⟩], power := { State.reset.power with tripped := true } }
    s.power.tripped = true ∧ (∀ h, (Agent.core 0 0) ≠ .event h .reset) := ⟨rfl, fun _ => Agent.noConfusion⟩

theorem witness_OperandFields :
    (s0.me.awaits 0 = false ∧ s0.me.ripe (badKey 0 0) s0.cycle = true) ∧
    (s0.me.awaits 1 = false ∧ s0.me.ripe (badKey 0 1) s0.cycle = true ∧ badKey 0 1 ∉ s0.me.badRegs) ∧
    (sp.hereTile.sc.cin .n).flits = [⟨90, 9, false⟩] ∧ s0.cur = some th0 := by
  refine ⟨⟨?_, ?_⟩, ⟨?_, ?_, ?_⟩, ?_, rfl⟩ <;> decide +kernel

theorem witness_RetirementAdvances :
    (s0.cur = some th0 ∧ s0.myNative.rep.active = false) ∧
    [(2, 1), (1, 2), (1, 1), (1, 0)].map (fun e =>
      let r := (repeating.updMyNative (fun x => { x with rep := ⟨true, 0x4000, e.1, [], 0, e.2⟩ })).myNative.rep
      (r.active, decide (r.idx + 1 < r.len), decide (1 < r.remain)))
      = [(true, true, false), (true, false, true), (true, false, false), (true, false, false)] := by
  refine ⟨⟨rfl, rfl⟩, ?_⟩
  decide +kernel

/-- Two threads on tile 0 whose next instruction is ADD s3, s4, s5. -/
def sTwo (x : Thread → Thread) : State :=
  let s := State.reset.withFetchWord 32 0x000A4181
  s.setThread 0 1 ((s.thread 0 0).map x)

/-- R156: from slot 5 the rotation comes to slot 0 first; R420: after its YIELD a thread waits for another that is ready. -/
theorem witness_CoreStepPasses :
    passedOver (sTwo id) 0 1 = true ∧ passedOver (sTwo id) 0 0 = false ∧
    passedOver ((sTwo id).updTile 0 (fun x => { x with lastSlot := 0 })) 0 0 = true ∧
    passedOver ((sTwo (fun x => { x with stopped := true })).updTile 0 (fun x => { x with lastSlot := 0 })) 0 0 = false ∧
    (let s := (sTwo id).updThread 0 0 (fun x => { x with yielded := 7 })
     passedOver { s with cycle := 7 } 0 0 = true ∧ passedOver { s with cycle := 8 } 0 0 = false) ∧
    (let s : State := { sTwo id with agenda := [⟨1, 1, 1, .core 0 1⟩] }
     s.power.tripped = false ∧ passedOver (advance { s with agenda := [] } ⟨1, 1, 1, .core 0 1⟩) 0 1 = true) ∧
    ∀ j, j < 6 → j ≠ 0 → placed.thread 0 j = none := by decide +kernel

theorem witness_TrapEntry :
    (s0.cur = some th0 ∧ (trapOf .zerodiv 0 0).unstated = false ∧ chainOf s0 0 0 = [] ∧ flag th0.trapvec 0 = true ∧ flag th0.status 5 = false) ∧
    (let x : Thread := { th0 with status := 0x20 }
     (at0 x).cur = some x ∧ x.node = none ∧ chainOf (at0 x) 0 0 = [] ∧ flag x.status 5 = true) ∧
    (let x : Thread := { th0 with trapvec := 0 }
     (at0 x).cur = some x ∧ x.node = none ∧ chainOf (at0 x) 0 0 = [] ∧ flag x.trapvec 0 = false) := by
  refine ⟨⟨rfl, rfl, ?_, ?_, ?_⟩, ⟨rfl, rfl, ?_, ?_⟩, ⟨rfl, rfl, ?_, ?_⟩⟩ <;> decide +kernel

theorem witness_EretReturns :
    (let x : Thread := { th0 with status := 0x21 }
     (at0 x).cur = some x ∧ x.pl ≠ 0 ∧ flag (at0 x).myNative.repstate 63 = false) ∧ th0.pl = 0 := by
  refine ⟨⟨rfl, ?_, ?_⟩, ?_⟩ <;> decide +kernel

theorem witness_ScalarBinaryResults :
    s0.cur = some th0 ∧ Room (.gen 3) s0 ∧ Room (.port .n) s0 ∧ readS (.gen 1) s0 = .go 7 s0 ∧ readS (.gen 2) s0 = .go 5 s0 ∧
    (∃ s1, readS (.port .n) sp = .go 9 s1 ∧ readS (.gen 2) s1 = .go 5 s1) := by
  refine ⟨rfl, ⟨rfl, rfl⟩, ?_, rfl, rfl, _, rfl, rfl⟩
  show (s0.hereTile.sc.cout .n).used s0.cycle + reservedS s0 s0.here.tile .n < 4
  decide +kernel

theorem witness_DivisionResults :
    s0.cur = some th0 ∧ Room (.gen 3) s0 ∧ s0.hereTile.divUntil ≤ s0.cycle ∧ readS (.gen 1) s0 = .go 7 s0 ∧
    readS (.gen 2) s0 = .go 5 s0 ∧ readS (.gen 0) s0 = .go 0 s0 := ⟨rfl, ⟨rfl, rfl⟩, by decide +kernel, rfl, rfl, rfl⟩

theorem witness_CheckedArithmetic :
    s0.cur = some th0 ∧ Room (.gen 3) s0 ∧ readS (.gen 4) s0 = .go 0x7FFFFFFFFFFFFFFF s0 ∧ readS (.gen 0) s0 = .go 0 s0 ∧
    readS (.gen 6) s0 = .go 1 s0 ∧ (BitVec.toInt (0x7FFFFFFFFFFFFFFF : Word) + BitVec.toInt (0 : Word) ≤ 2 ^ 63 - 1) ∧
    (2 ^ 63 - 1 < BitVec.toInt (0x7FFFFFFFFFFFFFFF : Word) + BitVec.toInt (1 : Word)) ∧
    (BitVec.toInt (0x8000000000000000 : Word) - BitVec.toInt (1 : Word) < -(2 ^ 63)) := ⟨rfl, ⟨rfl, rfl⟩, rfl, rfl, rfl, by decide, by decide, by decide⟩

theorem witness_SelectAndInsertResults :
    s0.cur = some th0 ∧ Room (.gen 3) s0 ∧ readS (.gen 1) s0 = .go 7 s0 ∧ readS (.gen 2) s0 = .go 5 s0 ∧ readK 1 s0 = .go 0x0F s0 ∧
    readS (.gen 3) s0 = .go 0 s0 ∧ 60 + 4 ≤ 64 := ⟨rfl, ⟨rfl, rfl⟩, rfl, rfl, rfl, rfl, by decide⟩

theorem witness_ConstantAndUnaryResults :
    s0.cur = some th0 ∧ Room (.gen 3) s0 ∧ Room (.gen 0) s0 ∧ readS (.gen 3) s0 = .go 0 s0 ∧ readS (.gen 8) s0 = .go 0x8000000000000000 s0 :=
  ⟨rfl, ⟨rfl, rfl⟩, ⟨rfl, rfl⟩, rfl, rfl⟩

/-- A slot that is a gang's follower, its leader's instruction taken or not. -/
def follower (jumped : Bool) : State :=
  s0.updHere (fun x => { x with gang := 2, gangNow := some ⟨.br .eq (.gen 1) (.gen 1) 4, 0x1000, 0x1010, 0, jumped, 0, 0⟩ })

theorem witness_BranchResults :
    s0.cur = some th0 ∧ ¬Follows s0 ∧ readS (.gen 1) s0 = .go 7 s0 ∧ readS (.gen 2) s0 = .go 5 s0 ∧ taken .ge 7 5 ∧ taken .ge 5 5 ∧
    ¬taken .lt 5 5 ∧ (gangStep (follower true)).map (fun g => g.jumped) = some true ∧
    (gangStep (follower false)).map (fun g => g.jumped) = some false := by
  refine ⟨rfl, ?_, rfl, rfl, ?_, ?_, ?_, ?_, ?_⟩
  · show ¬(gangStep s0).isSome = true
    decide +kernel
  · show BitVec.toInt (5 : Word) ≤ BitVec.toInt (7 : Word)
    decide
  · show BitVec.toInt (5 : Word) ≤ BitVec.toInt (5 : Word)
    decide
  · show ¬BitVec.toInt (5 : Word) < BitVec.toInt (5 : Word)
    decide
  · decide +kernel
  · decide +kernel

theorem witness_JumpAndLoopResults :
    s0.cur = some th0 ∧ ¬Follows s0 ∧ Room (.gen 3) s0 ∧ Room (.gen 6) s0 ∧ readS (.gen 1) s0 = .go 7 s0 ∧ readS (.gen 6) s0 = .go 1 s0 := by
  refine ⟨rfl, ?_, ⟨rfl, rfl⟩, ⟨rfl, rfl⟩, rfl, rfl⟩
  show ¬(gangStep s0).isSome = true
  decide +kernel

theorem witness_VectorIntegerResults :
    s0.cur = some th0 ∧ RoomV (.gen 3) s0 ∧ RoomV (.port .n) s0 ∧ readV (.gen 1) s0 = .go 0x0102030405060708 s0 ∧
    readV (.gen 5) s0 = .go 0 s0 ∧ readK 1 s0 = .go 0x0F s0 ∧ readK 0 s0 = .go (BitVec.allOnes 64) s0 ∧
    (∃ s1, readV (.port .n) sp = .go 9 s1 ∧ readV (.gen 1) s1 = .go 0x0102030405060708 s1) := by
  refine ⟨rfl, rfl, ?_, rfl, rfl, rfl, rfl, _, rfl, rfl⟩
  show (s0.hereTile.ve.cout .n).used s0.cycle + reservedV s0 s0.here.tile .n < 4
  decide +kernel

theorem witness_VectorScalarAndArrangementResults :
    s0.cur = some th0 ∧ RoomV (.gen 3) s0 ∧ Room (.gen 3) s0 ∧ readS (.gen 1) s0 = .go 7 s0 ∧ readS (.gen 2) s0 = .go 5 s0 ∧
    readV (.gen 3) s0 = .go 0 s0 ∧ On 32 0x0F 0 ∧ ¬On 32 0x0F 1 ∧ ¬On 64 0x0F 0 ∧
    Arranges (fun d a b k => .vslide .i64 d a b 8 k) 64 (fun x y j =>
      if 8 ≤ j then Spec.lane _ x (j - 8) else Spec.lane _ y (512 / 64 - 8 + j)) := by
  refine ⟨rfl, rfl, ⟨rfl, rfl⟩, rfl, rfl, rfl, ?_, ?_, ?_, .slide .i64 8 (by decide)⟩
  · show BitVec.extractLsb' 0 4 (0x0F : Word) = BitVec.allOnes 4
    decide
  · show ¬BitVec.extractLsb' 4 4 (0x0F : Word) = BitVec.allOnes 4
    decide
  · show ¬BitVec.extractLsb' 0 8 (0x0F : Word) = BitVec.allOnes 8
    decide

theorem witness_PredicateAndJoinResults :
    s0.cur = some th0 ∧ Room (.gen 3) s0 ∧ RoomV (.gen 3) s0 ∧ readK 1 s0 = .go 0x0F s0 ∧ readK 2 s0 = .go 0 s0 ∧
    s0.hereTile.ordUntil ≤ s0.cycle ∧ (joinKeys .i8 0x030201 7).Pairwise (· < ·) ∧ (joinKeys .i8 0x050300 7).Pairwise (· < ·) ∧
    joinKeys .i8 0x030201 7 = [1, 2, 3] := by
  refine ⟨rfl, ⟨rfl, rfl⟩, rfl, rfl, rfl, ?_, ?_, ?_, ?_⟩ <;> decide +kernel

/-- The state with every floating-point trap enabled, and with SNANTRAP alone. -/
def sx (c : Word) : State := at0 { th0 with fpcsr := c }

theorem witness_FpElementResults :
    (s0.cur = some th0 ∧ NoFpTraps th0 ∧ RoomV (.gen 3) s0 ∧ s0.hereTile.vdivUntil ≤ s0.cycle ∧
      readV (.gen 2) s0 = .go 0x3F8000003F800000 s0 ∧ readK 0 s0 = .go (BitVec.allOnes 64) s0) ∧
    (flag (0x2000 : Word) 13 = true ∧ ((fmtOf .f32).val (pat .f32 0x7F800001 0)).isSnan = true) ∧
    (flag (0x1F00 : Word) 13 = false ∧ (∃ n, n < 5 ∧ ((fmtOf .f32).div (rmOf 0x1F00) (pat .f32 0x3F800000 0) (pat .f32 0 0)).fl.getLsbD n = true
      ∧ flag (0x1F00 : Word) (8 + n) = true)) ∧
    On (fmtOf .f32).width (BitVec.allOnes 64) 0 ∧ (sx 0x1F00).cur = some { th0 with fpcsr := 0x1F00 } := by
  refine ⟨⟨rfl, rfl, rfl, ?_, rfl, rfl⟩, ?_, ?_, ?_, rfl⟩
  · decide +kernel
  · decide +kernel
  · decide +kernel
  · show BitVec.extractLsb' 0 4 (BitVec.allOnes 64) = BitVec.allOnes 4
    decide

theorem witness_FpArithmeticLaws :
    (0x3F800000 < 2 ^ (fmtOf .f32).width ∧ ((fmtOf .f32).val 0x3F800000).isNan = false ∧ ((fmtOf .f32).val 0x3F800000).isInf true = false ∧
      ((fmtOf .f32).val 0x3F800000).isInf false = false) ∧
    (0x7FC00001 < 2 ^ (fmtOf .f32).width ∧ ((fmtOf .f32).val 0x7FC00001).isNan = true) := by decide +kernel

theorem witness_FpConvertAndOrderResults :
    s0.cur = some th0 ∧ NoFpTraps th0 ∧ RoomV (.gen 3) s0 ∧ readV (.gen 1) s0 = .go 0x0102030405060708 s0 ∧
    readV (.gen 2) s0 = .go 0x3F8000003F800000 s0 ∧ readK 1 s0 = .go 0x0F s0 ∧ s0.hereTile.ordUntil ≤ s0.cycle ∧
    (512 / cvtWidth (.flt .f16) = 32 ∧ 512 / cvtWidth (.flt .f64) = 8) := by
  refine ⟨rfl, rfl, rfl, rfl, rfl, rfl, ?_, ?_⟩ <;> decide +kernel

theorem witness_ReductionResults :
    (s0.cur = some th0 ∧ NoFpTraps th0 ∧ RoomV (.gen 3) s0 ∧ readV (.gen 1) s0 = .go 0x0102030405060708 s0 ∧
      readK 2 s0 = .go 0 s0 ∧ readK 1 s0 = .go 0x0F s0) ∧
    actives 32 0x0102030405060708 0 = [] ∧ (actives 32 0x0102030405060708 0x0F).length = 1 ∧
    (actives 32 0x0102030405060708 0xFF).length = 2 ∧
    (2 ^ 2 < [1, 2, 3, 4, 5].length ∧ [1, 2, 3, 4, 5].length ≤ 2 ^ (2 + 1)) := by
  refine ⟨⟨rfl, rfl, rfl, rfl, rfl, rfl⟩, ?_, ?_, ?_, ?_⟩ <;> decide +kernel

/-- The virtual address of offset 0 of tile 0's SRAM (R182, R184). -/
def sramBase : Word := 0x7F1000000000

/-- S1 names byte 0x100 of the tile's own SRAM, whose first word holds 0x1122; bank 0 has role SA where asked. -/
def sm (sa : Bool) : State :=
  ((at0 { th0 with s := [(1, sramBase + 0x100), (2, 0x55), (4, sramBase + 0x103), (5, 0x7F00C0000000), (7, 1)] }).putNat (sramKey 0 0x100) 8
    0x1122).updHere (fun x => { x with roles := if sa then 3 else 0 })

/-- The thread of `sm`. -/
def tm : Thread := { th0 with s := [(1, sramBase + 0x100), (2, 0x55), (4, sramBase + 0x103), (5, 0x7F00C0000000), (7, 1)] }

theorem witness_LocalLoadResults :
    Fresh (sm false) tm ∧ Room (.gen 3) (sm false) ∧ readS (.gen 1) (sm false) = .go (sramBase + 0x100) (sm false) ∧
    checkAccess (sramBase + 0x100 + BitVec.ofInt 64 ((0 : BitVec 12).toInt * ldBytes .w64)) (ldBytes .w64) .read 0 (sm false)
      = .ok (.sram 0 0x100, sm false) ∧
    (sm false).isPoisoned (own (sm false) 0x100) 1 = false ∧ readS (.gen 0) (sm false) = .go 0 (sm false) ∧
    (scopeOf (sm false) 0 0).isSome = true := by
  refine ⟨⟨rfl, rfl, rfl⟩, ⟨rfl, rfl⟩, rfl, rfl, ?_, rfl, ?_⟩ <;> decide +kernel

theorem witness_LocalStoreResults :
    (∀ sa, Fresh (sm sa) tm ∧ readS (.gen 1) (sm sa) = .go (sramBase + 0x100) (sm sa) ∧ readS (.gen 2) (sm sa) = .go 0x55 (sm sa) ∧
      checkAccess (sramBase + 0x100 + BitVec.ofInt 64 ((0 : BitVec 12).toInt * stBytes .b8)) (stBytes .b8) .write 0 (sm sa)
        = .ok (.sram 0 0x100, sm sa) ∧ Handles (sm sa) tm ∧ (sm sa).settled (sm sa).here.tile tm.uid = true) ∧
    saFull (sm false) 0 0x100 = false ∧ saFull { sm true with full := [sramKey 0 0x100 / 8] } 0 0x100 = true ∧
    (scopeOf (sm false) 0 0).isSome = true ∧ readS (.gen 0) (sm false) = .go 0 (sm false) := by
  refine ⟨fun sa => ⟨⟨rfl, rfl, rfl⟩, rfl, rfl, ?_, ⟨?_, ?_, ?_⟩, ?_⟩, ?_, ?_, ?_, rfl⟩
  · cases sa <;> rfl
  · rfl
  · rfl
  · cases sa <;> decide +kernel
  · cases sa <;> decide +kernel
  · decide +kernel
  · decide +kernel
  · decide +kernel

/-- A thread whose page table maps the first GiB, with S1 a global address. -/
def tg : Thread := { th0 with root := 0x1000, s := [(1, 0x5000), (2, 3), (5, 0x5008)] }

/-- Its state. -/
def sg : State := placeTables (at0 tg)

theorem witness_GlobalAccessesTravel :
    Fresh sg tg ∧ readS (.gen 1) sg = .go 0x5000 sg ∧ readS (.gen 2) sg = .go 3 sg ∧ Room (.gen 3) sg ∧
    (∃ l s3, checkAccess (0x5000 + BitVec.ofInt 64 ((0 : BitVec 12).toInt * stBytes .b8)) (stBytes .b8) .write 0 sg = .ok (.glob 0x5000 l, s3)) ∧
    (∃ l s3, checkAccess 0x5000 (if true then 4 else 8) .atomic 0 sg = .ok (.glob 0x5000 l, s3)) ∧
    (∃ l s3, checkAccess (0x5000 + BitVec.ofInt 64 ((0 : BitVec 12).toInt * ldBytes .w64)) (ldBytes .w64) .read 0 sg = .ok (.glob 0x5000 l, s3) ∧
      lineGet (s3.tile sg.here.tile) 0x5000 = none) := by
  refine ⟨⟨rfl, rfl, rfl⟩, rfl, rfl, ⟨rfl, rfl⟩, ⟨_, _, rfl⟩, ⟨_, _, rfl⟩, ⟨_, _, rfl, rfl⟩⟩

/-- An instruction whose reply is in. -/
def answered (d : Dest) : Thread :=
  { th0 with pend := some ⟨9, d, 0, [(0, 0x77)], [], [], none, 0, none, [], [], false, none, []⟩ }

theorem witness_GlobalLoadReplied :
    (at0 (answered (.load (.gen 3) .w64))).cur = some (answered (.load (.gen 3) .w64)) ∧
    (answered (.load (.gen 3) .w64)).pend.map (fun p => (p.left, p.bad, p.acquire, p.fills)) = some (0, none, false, []) := ⟨rfl, rfl⟩

/-- S1 names the tile's own SRAM, V1 holds offsets. -/
def tv : Thread := { tm with v := [(1, 0x00000001_00000000), (2, 0x0A0B0C0D0E0F)], k := [(1, 0xF0), (2, 0xFF)] }

/-- Its state. -/
def sv : State := at0 tv

theorem witness_VectorMemoryResults :
    Fresh sv tv ∧ RoomV (.gen 3) sv ∧ readS (.gen 1) sv = .go (sramBase + 0x100) sv ∧ readS (.gen 0) sv = .go 0 sv ∧
    readK 1 sv = .go 0xF0 sv ∧ readK 3 sv = .go 0 sv ∧ readV (.gen 2) sv = .go 0x0A0B0C0D0E0F sv ∧
    (BitVec.getLsbD (0xF0 : Word) 4 = true ∧ (∀ j, j < 4 → BitVec.getLsbD (0xF0 : Word) j = false) ∧ (sramBase + 0x100 + 0).toNat % 64 = 0) ∧
    checkAccess (sramBase + 0x100 + 0 + BitVec.ofNat 64 4) 1 .read 0 sv = .ok (.sram 0 0x104, sv) ∧
    checkAccess (sramBase + 0x100 + 0 + BitVec.ofNat 64 4) 1 .write 0 sv = .ok (.sram 0 0x104, sv) ∧
    sv.isPoisoned (own sv (0x104 - 4)) 64 = false ∧
    (∀ j, j < 64 → BitVec.getLsbD (0xF0 : Word) j = true → saFull sv 0 (0x104 - 4 + j) = false) := by
  refine ⟨⟨rfl, rfl, rfl⟩, rfl, rfl, rfl, rfl, rfl, rfl, ⟨?_, ?_, ?_⟩, rfl, rfl, ?_, ?_⟩ <;> decide +kernel

theorem witness_VectorGatherScatter :
    readV (.gen 1) sv = .go 0x100000000 sv ∧ readK 2 sv = .go 0xFF sv ∧
    (∀ j, j < 64 / stBytes .b4 → On (8 * stBytes .b4) 0xFF j → j = 0 ∨ j = 1) ∧
    checkAccess (sramBase + 0x100 + BitVec.ofNat 64 (stBytes .b4 * 0)) (stBytes .b4) .read 0 sv
      = .ok (.sram 0 0x100, sv) ∧
    checkAccess (sramBase + 0x100 + BitVec.ofNat 64 (stBytes .b4 * 1)) (stBytes .b4) .read 1 sv
      = .ok (.sram 0 0x104, sv) ∧
    checkAccess (sramBase + 0x100 + BitVec.ofNat 64 (stBytes .b4 * 1)) (stBytes .b4) .write 1 sv
      = .ok (.sram 0 0x104, sv) ∧
    sv.isPoisoned (own sv 0x104) 1 = false ∧ saFull sv 0 0x104 = false ∧
    (Spec.lane (8 * stBytes .b4) 0x100000000 0).toNat = 0 ∧ (Spec.lane (8 * stBytes .b4) 0x100000000 1).toNat = 1 := by
  refine ⟨rfl, rfl, ?_, rfl, rfl, rfl, ?_, ?_, ?_, ?_⟩
  · show ∀ j, j < 16 → BitVec.extractLsb' (32 / 8 * j) (32 / 8) (0xFF : Word) = BitVec.allOnes (32 / 8) → j = 0 ∨ j = 1
    decide +kernel
  all_goals decide +kernel

theorem witness_FullEmptyResults :
    (∀ sa, Fresh (sm sa) tm ∧ Room (.gen 3) (sm sa) ∧ readS (.gen 1) (sm sa) = .go (sramBase + 0x100) (sm sa) ∧
      (sramBase + 0x100 + BitVec.ofInt 64 (8 * (0 : BitVec 15).toInt)).toNat % 8 = 0 ∧
      (∃ al, checkPlace (sm sa) 0 (sramBase + 0x100 + BitVec.ofInt 64 (8 * (0 : BitVec 15).toInt)) 0 = .ok (.sram 0 0x100 al)) ∧
      (sm sa).settled (sm sa).here.tile tm.uid = true ∧ saFull (sm sa) 0 0x100 = false ∧ ((sm sa).tile 0).fewait = [] ∧ purityOf (sm sa) tm = none) ∧
    (sm false).isFull 0 0x100 = false ∧ ({ sm false with full := [sramKey 0 0x100 / 8] }).isFull 0 0x100 = true ∧
    bankSA ((sm false).tile 0) (0x100 / 0x10000) = false := by
  refine ⟨fun sa => ⟨⟨rfl, rfl, rfl⟩, ⟨rfl, rfl⟩, rfl, ?_, ?_, ?_, ?_, ?_, ?_⟩, ?_, ?_, ?_⟩
  · decide +kernel
  · cases sa <;> exact ⟨_, rfl⟩
  all_goals (try cases sa) <;> decide +kernel

theorem witness_AccessTraps :
    Fresh (sm false) tm ∧ Room (.gen 3) (sm false) ∧ readS (.gen 4) (sm false) = .go (sramBase + 0x103) (sm false) ∧
    readS (.gen 5) (sm false) = .go 0x7F00C0000000 (sm false) ∧ readS (.gen 2) (sm false) = .go 0x55 (sm false) ∧
    readS (.gen 3) (sm false) = .go 0 (sm false) ∧ (sramBase + 0x103 : Word).toNat % 8 ≠ 0 ∧ (sramBase + 0x103 : Word).toNat % 4 ≠ 0 ∧
    (0x7F00C0000000 : Word).toNat % 8 = 0 ∧ 0x7F00C0000000 ≤ (0x7F00C0000000 : Word).toNat ∧ (0x7F00C0000000 : Word).toNat < 0x7F1000000000 :=
  ⟨⟨rfl, rfl, rfl⟩, ⟨rfl, rfl⟩, rfl, rfl, rfl, rfl, by decide, by decide, by decide, by decide, by decide⟩

theorem witness_LocalAtomicResults :
    Fresh (sm false) tm ∧ Room (.gen 3) (sm false) ∧ readS (.gen 1) (sm false) = .go (sramBase + 0x100) (sm false) ∧
    readS (.gen 2) (sm false) = .go 0x55 (sm false) ∧ readS (.gen 3) (sm false) = .go 0 (sm false) ∧
    Ordering .none (.gen 0) (sm false) (sm false) (sm false) tm ∧ Ordering .rel (.gen 0) (sm false) (sm false) (sm false) tm ∧
    checkAccess (sramBase + 0x100) (if true then 4 else 8) .atomic 0 (sm false) = .ok (.sram 0 0x100, sm false) ∧
    checkAccess (sramBase + 0x100) (if false then 4 else 8) .atomic 0 (sm false) = .ok (.sram 0 0x100, sm false) ∧
    (sm false).isPoisoned (own (sm false) 0x100) 1 = false ∧ saFull (sm false) 0 0x100 = false := by
  refine ⟨⟨rfl, rfl, rfl⟩, ⟨rfl, rfl⟩, rfl, rfl, rfl, .inl ⟨rfl, rfl⟩, .inr ⟨MemOrd.noConfusion, .inr ?_, 0, _, rfl, rfl⟩, rfl, rfl, ?_, ?_⟩ <;> decide +kernel

/-- A region of two tiles, placed, in DET mode at window number 4. -/
def r0 : RegionRec :=
  { blk := 0x10200, rid := 3, gen := 1, x0 := 0, y0 := 0, w := 2, h := 1, det := true, number := 4, digests := [], faults := 0,
    header := (0, 0), bars := [], barFar := [], barDone := [], quietFrom := none, base := 0, on := true, saved := [], streams := [], dead := false }

/-- A state whose tiles 0 and 1 hold a region. -/
def inRegion (r : RegionRec) (s : State) : State :=
  (({ s with regions := [r] }.updTile 0 (fun x => { x with placed := true, rid := 3, gen := 1 })).updTile 1
    (fun x => { x with placed := true, rid := 3, gen := 1 }))

/-- A thread in that region; S1 names a barrier of N = 1 and number 2, S2 one of N = 2. -/
def tb : Thread := { th0 with s := [(1, 0x20001), (2, 0x20002)] }

/-- Its state. -/
def sb : State := inRegion r0 (at0 tb)

/-- A part whose first MPT has a POOL area of one MiB, its first word allocated at generation 3; S1 is that word's handle. -/
def spool : State :=
  let s : State := at0 { th0 with s := [(1, word (2 ^ 63 + 0x800100000000)), (2, 3)] }
  (s.updMpt 0 (fun m => { m with carve := 0x10001, pool := [(0, ⟨true, 0, 0⟩)] })).putPaWord 0x800100000008 (word (3 * 2 ^ 48))

theorem witness_SynchronisationFencesAndBarriers :
    s0.cur = some th0 ∧ readS (.gen 0) s0 = .go 0 s0 ∧ scopeOf s0 0 0 = some ⟨0, 0, 0, 0, 0⟩ ∧ owesSeals s0 = false ∧ s0.settled s0.here.tile th0.uid = true ∧
    sb.cur = some tb ∧ tb.barPhase = none ∧ readS (.gen 0) sb = .go 0 sb ∧ readS (.gen 1) sb = .go 0x20001 sb ∧
    readS (.gen 2) sb = .go 0x20002 sb ∧ scopeOf sb 0 0 = some ⟨0, 0, 0, 0, 0⟩ ∧
    Scope.contains ⟨0, 0, 0, 0, 0⟩ sb 0 = true ∧ field (0x20001 : Word) 20 44 = 0 ∧ field (0x20001 : Word) 0 16 ≠ 0 ∧
    regionOf sb 0 = some r0 ∧ reachesOut sb ⟨0, 0, 0, 0, 0⟩ = false ∧ (barAt r0 (field (0x20001 : Word) 16 4)).count = 0 ∧
    owesSeals sb = false ∧ sb.settled sb.here.tile tb.uid = true ∧
    (barAt r0 (field (0x20001 : Word) 16 4)).count + 1 = field (0x20001 : Word) 0 16 ∧
    (barAt r0 (field (0x20002 : Word) 16 4)).count + 1 ≠ field (0x20002 : Word) 0 16 ∧
    (barAt { r0 with bars := [(2, ⟨0, 1, 0, 0⟩)] } 2).phase ≠ 0 := by
  refine ⟨rfl, rfl, rfl, ?_, ?_, rfl, rfl, rfl, rfl, rfl, rfl, ?_, ?_, ?_, rfl, ?_, ?_, ?_, ?_, ?_, ?_, ?_⟩ <;> decide +kernel

theorem witness_SynchronisationPool :
    Fresh spool spool.me ∧ readS (.gen 1) spool = .go (word (2 ^ 63 + 0x800100000000)) spool ∧ readS (.gen 2) spool = .go 3 spool ∧
    readS (.gen 0) spool = .go 0 spool ∧ isHandle (word (2 ^ 63 + 0x800100000000)) = true ∧
    poolAllocated spool 0x800100000000 = true ∧ field (word (2 ^ 63 + 0x800100000000)) 0 52 = 0x800100000000 ∧
    lineBusy spool 0 0x800100000000 = false ∧ (arrivalAt (arrivalFold spool 0x800100000000) 0x800100000000).2 = false ∧
    reached (arrivalAt (arrivalFold spool 0x800100000000) 0x800100000000).1.gen 3 = true ∧ Room (.gen 3) spool ∧
    freePoolWord spool (mptOfTile 0) = some 1 ∧ freePoolWord s0 (mptOfTile 0) = none ∧
    poolAt spool 0x800100000000 = some (0, 0) ∧ (poolGet (spool.mpt 0) 0).alloc = true := by
  refine ⟨⟨rfl, rfl, rfl⟩, rfl, rfl, rfl, ?_, ?_, ?_, ?_, ?_, ?_, ⟨rfl, rfl⟩, ?_, ?_, ?_, ?_⟩ <;> decide +kernel

theorem witness_SynchronisationRequests :
    Fresh sg tg ∧ Room (.gen 3) sg ∧ readS (.gen 1) sg = .go 0x5000 sg ∧ readS (.gen 2) sg = .go 3 sg ∧ readS (.gen 0) sg = .go 0 sg ∧
    scopeOf sg 0 0 = some ⟨0, 0, 0, 0, 0⟩ ∧ (∃ l s3, checkAccess 0x5000 16 .atomic 0 sg = .ok (.glob 0x5000 l, s3)) ∧ sg.settled sg.here.tile tg.uid = true ∧
    isHandle 0x5000 = false ∧ (at0 (answered (.old (.gen 3) false))).cur = some (answered (.old (.gen 3) false)) ∧
    (answered (.old (.gen 3) false)).pend.map (fun p => (p.left, p.bad, p.fills)) = some (0, none, []) ∧
    (at0 (answered .nothing)).cur = some (answered .nothing) := by
  refine ⟨⟨rfl, rfl, rfl⟩, ⟨rfl, rfl⟩, rfl, rfl, rfl, rfl, ⟨_, _, rfl⟩, ?_, ?_, rfl, rfl, rfl⟩ <;> decide +kernel

/-- A read stream of 64 KiB of the own tile's SRAM with `n` zero bytes fetched ahead. -/
def ahead (n : Nat) : Stream :=
  { Stream.unbound with kind := .tileLocal, base := sramBase, len0 := 65536, n1 := 1, n2 := 1, ahead := (List.replicate n (0 : Byte)).map (fun b => (b, false)) }

/-- A write stream of the own tile's SRAM. -/
def outStream : Stream := { Stream.unbound with kind := .tileLocal, write := true, base := sramBase, len0 := 65536, n1 := 1, n2 := 1 }

/-- A thread in a native slot with streams bound. -/
def sq (qs : List (Nat × Stream)) : State := s0.updMyNative (fun n => { n with q := qs })

theorem gives_ahead (s : State) (q n : Nat) (bs : List Byte) (h : (myStream s q).kind ≠ .none) (h' : (myStream s q).kind ≠ .tap)
    (ha : (myStream s q).ahead = bs.map (fun b => (b, false))) (hn : bs.length = n) :
    Gives s q n bs (setMyStream s q { myStream s q with pos := ((myStream s q).pos + n) % 2 ^ 64, ahead := (myStream s q).ahead.drop n, taken := (myStream s q).taken - n }) := by
  subst hn
  have ht : (bs.map (fun b => (b, false))).take bs.length = bs.map (fun b => (b, false)) := List.take_of_length_le (by simp)
  refine .inl ⟨h, h', [], s, ?_, .inr ?_, ?_, ?_, rfl⟩
  · simp [ha, readLines]
  · simp [ha]
  · simp [ha, Function.comp_def]
  · rw [ha, ht]
    simp

/-- No word of the lines has been emptied in this cycle. -/
def unemptied (s s1 : State) (gs : List Target) : Bool :=
  gs.all (fun g => match g with
    | .sram u o => (List.range 8).all (fun i => !justEmptied s1 u (o + 8 * i) && !justEmptied s u (o + 8 * i))
    | _ => true)

theorem puts_of (s : State) (q : Nat) (bs : List Byte)
    (h : (match checkLines (myStream s q) (bs.length / 64) (myStream s q).pos s with
      | ([], gs, s1) => unemptied s s1 gs
      | _ => false) = true) : ∃ t, Puts s q bs t := by
  revert h
  rcases hc : checkLines (myStream s q) (bs.length / 64) (myStream s q).pos s with ⟨_ | ⟨c, cs⟩, gs, s1⟩
  · intro h
    refine ⟨_, gs, s1, hc, fun u o i hg hi => ?_, rfl⟩
    have := List.all_eq_true.mp h _ hg
    simp only [List.all_eq_true, List.mem_range, Bool.and_eq_true, Bool.not_eq_true'] at this
    exact this i hi
  · intro h
    cases h

/-- A descriptor of 64 bytes of the own tile's SRAM, and one whose length is not a multiple of 64. -/
def desc (len : Nat) : Vec := BitVec.ofNat 512 (2 ^ 320 - 2 ^ 320 + sramBase.toNat + (2 ^ 60 + len) * 2 ^ 64 + (1 + 2 ^ 32) * 2 ^ 256)

theorem witness_StreamRegisterResults :
    let s := at0 { th0 with v := [(1, desc 64), (2, desc 65)], s := [(1, 64), (2, 65)] }
    s.cur = some s.me ∧ NativeSlot s ∧ readV (.gen 1) s = .go (desc 64) s ∧ readV (.gen 2) s = .go (desc 65) s ∧
    readV (.gen 3) s = .go 0 s ∧ (myStream s 0).kind ≠ .tap ∧ (Spec.lane 64 0 1).toNat / 2 ^ 60 = 0 ∧
    kindOf ((Spec.lane 64 (desc 64) 1).toNat / 2 ^ 60) = some .tileLocal ∧ kindOf ((Spec.lane 64 (desc 65) 1).toNat / 2 ^ 60) = some .tileLocal ∧
    descBad s 0 (desc 64) (streamOf (desc 64) .tileLocal) = false ∧ descBad s 0 (desc 65) (streamOf (desc 65) .tileLocal) = true ∧
    readS (.gen 1) s = .go 64 s ∧ readS (.gen 2) s = .go 65 s ∧
    (myStream (sq [(0, ahead 0)]) 0).kind = .tileLocal ∧ (myStream (sq [(0, ahead 0)]) 0).pos + 64 ≤ (myStream (sq [(0, ahead 0)]) 0).total ∧
    Room (.gen 3) s := by
  refine ⟨rfl, rfl, rfl, rfl, rfl, ?_, ?_, ?_, ?_, ?_, ?_, rfl, rfl, ?_, ?_, ⟨rfl, rfl⟩⟩ <;> decide +kernel

theorem witness_AccumulatorResults :
    (s0.cur = some th0 ∧ NativeSlot s0 ∧ s0.myNative.rep.active = false ∧ readS (.gen 1) s0 = .go 7 s0 ∧ (7 : Word).toNat % 2 ^ 32 ≠ 0 ∧
      readS (.gen 0) s0 = .go 0 s0 ∧ accReady 3 s0 = true ∧ ¬(gangStep s0).isSome = true) ∧
    (match bodyWords 0 0x1000 0 0x4000 2 ((placed.putNat 0x4000 8 0x0004408100044081)) with
      | .ok (k, _) => decide (k = 2)
      | .error _ => false) = true ∧
    (let s := at0 { th0 with s := [(1, sramBase + 0x1000)] }
     Fresh s s.me ∧ readS (.gen 1) s = .go (sramBase + 0x1000) s ∧ (sramBase + 0x1000 : Word).toNat % 64 = 0 ∧
     checkAccess (sramBase + 0x1000 + BitVec.ofNat 64 (8 * 511)) 8 .read 0 s = .ok (.sram 0 (0x1000 + 8 * 511), s) ∧
     checkAccess (sramBase + 0x1000 + BitVec.ofNat 64 (8 * 0)) 8 .write 0 s = .ok (.sram 0 (0x1000 + 8 * 0), s) ∧
     (∀ i, i < 512 → s.isPoisoned (own s (0x1000 + 8 * i)) 1 = false ∧ saFull s 0 (0x1000 + 8 * i) = false) ∧
     s.getNat (own s (0x1000 + 8)) 8 = 0 ∧ (s.putNat (sramKey 0 0x1008) 8 5).getNat (own s (0x1000 + 8)) 8 ≠ 0) := by
  refine ⟨⟨rfl, rfl, rfl, rfl, by decide, rfl, by decide +kernel, by decide +kernel⟩, by decide +kernel, ⟨rfl, rfl, rfl⟩, rfl, by decide, rfl, rfl, fun i _ => ⟨rfl, ?_⟩, ?_, ?_⟩
  · exact Bool.and_false _
  · decide +kernel
  · decide +kernel

theorem witness_DotProductResults :
    (s0.cur = some th0 ∧ NoFpTraps th0 ∧ NativeSlot (sq [(0, ahead 2048), (1, ahead 2048), (2, ahead 64), (3, ahead 64)]) ∧
      (sq [(0, ahead 2048), (1, ahead 2048), (2, ahead 64), (3, ahead 64)]).hereTile.dotUntil
        ≤ (sq [(0, ahead 2048), (1, ahead 2048), (2, ahead 64), (3, ahead 64)]).cycle ∧
      (sq [(0, ahead 2048), (1, ahead 2048), (2, ahead 64), (3, ahead 64)]).me.ripe (accKey 0) 100 = true) ∧
    (takeTotals [(0, 2048), (1, 2048), (2, 64), (3, 64)]).any (fun e =>
      streamBad (myStream (sq [(0, ahead 2048), (1, ahead 2048), (2, ahead 64), (3, ahead 64)]) e.1) e.2.1 e.2.2) = false ∧
    (∃ s1 s2 s3 s4, Gives (sq [(0, ahead 2048), (1, ahead 2048), (2, ahead 64), (3, ahead 64)]) 0 2048 (List.replicate 2048 0) s1 ∧
      Gives s1 1 2048 (List.replicate 2048 0) s2 ∧ Gives s2 2 64 (List.replicate 64 0) s3 ∧ Gives s3 3 64 (List.replicate 64 0) s4) ∧
    dotKind .i8n8 = .int true false ∧ dotKind .bf16 = .flt .bf16 .bf16 := by
  refine ⟨⟨rfl, rfl, rfl, by decide +kernel, by decide +kernel⟩, by decide +kernel, ?_, rfl, rfl⟩
  have h (s : State) (q n : Nat) (hs : myStream s q = ahead n) : ∃ t, Gives s q n (List.replicate n 0) t ∧
      t = setMyStream s q { myStream s q with pos := ((myStream s q).pos + n) % 2 ^ 64, ahead := (myStream s q).ahead.drop n, taken := (myStream s q).taken - n } := by
    refine ⟨_, gives_ahead s q n _ ?_ ?_ ?_ (List.length_replicate ..), rfl⟩ <;> rw [hs] <;> simp [ahead]
  obtain ⟨s1, g1, e1⟩ := h (sq [(0, ahead 2048), (1, ahead 2048), (2, ahead 64), (3, ahead 64)]) 0 2048 rfl
  obtain ⟨s2, g2, e2⟩ := h s1 1 2048 (by rw [e1]; rfl)
  obtain ⟨s3, g3, e3⟩ := h s2 2 64 (by rw [e2, e1]; rfl)
  obtain ⟨s4, g4, _⟩ := h s3 3 64 (by rw [e3, e2, e1]; rfl)
  exact ⟨s1, s2, s3, s4, g1, g2, g3, g4⟩

theorem witness_OutputResults :
    (let s := sq [(0, outStream), (1, ahead 384)]
     s.cur = some th0 ∧ NativeSlot s ∧ accReady 3 s = true ∧ s.hereTile.outUntil ≤ s.cycle ∧ s.hereTile.dotUntil ≤ s.cycle ∧
     streamBad (myStream s 0) true (1024 * outBytes .f32) = false ∧ streamBad (myStream s 1) false 384 = false ∧
     (∃ s1, Gives s 1 384 (List.replicate 384 0) s1 ∧ ∃ t, Puts s1 0 ((List.range 1024).flatMap (fun e => leBytes (outBytes .f32)
       (outElem th0.fpcsr s.myNative .f32 true false false false (List.replicate 384 0) 3 e).1)) t)) ∧
    (let s := sq [(0, { ahead 2048 with len0 := 2048 }), (1, outStream)]
     splitRefused (myStream s 0) (myStream s 1) 1 = false ∧ (myStream s 0).total / 256 = 8 ∧
     ∃ s1, Gives s 0 (256 * 8) (List.replicate 2048 0) s1 ∧
       ∃ t, Puts s1 1 (splitBytes 1 ((panelLines false 8 (List.replicate 2048 0)).map (splitLine 1))) t) ∧
    (let s := sq [(0, ahead 4096), (1, outStream)]
     streamBad (myStream s 0) false (4096 * (1 * (1 + 1) / 2)) = false ∧ streamBad (myStream s 1) true 8192 = false ∧
     ∃ s1, Gives s 0 (4096 * (1 * (1 + 1) / 2)) (List.replicate 4096 0) s1 ∧
       ∃ t, Puts s1 1 ((List.range 1024).flatMap (fun e => leBytes 8
         (merged (List.replicate 4096 0) 1 (acc s 3 0 (e / 32)).toInt (acc s 3 1 (e % 32)).toInt e))) t) ∧
    (-(2 ^ (7 * 1 - 2) : Nat) < (-31 : Int) ∧ (-31 : Int) < (2 ^ (7 * 1 - 2) : Nat)) ∧ flag (0 : Word) 13 = false := by
  refine ⟨⟨rfl, rfl, by decide +kernel, by decide +kernel, by decide +kernel, by decide +kernel, by decide +kernel, _,
      gives_ahead _ _ _ _ StreamKind.noConfusion StreamKind.noConfusion rfl (List.length_replicate ..), puts_of _ _ _ ?_⟩,
    ⟨by decide +kernel, by decide +kernel, _,
      gives_ahead _ _ _ _ StreamKind.noConfusion StreamKind.noConfusion rfl (List.length_replicate ..), puts_of _ _ _ ?_⟩,
    ⟨by decide +kernel, by decide +kernel, _,
      gives_ahead _ _ _ _ StreamKind.noConfusion StreamKind.noConfusion rfl (List.length_replicate ..), puts_of _ _ _ ?_⟩, by decide, rfl⟩
    <;> decide +kernel

/-- A block of the catalogue at a physical address: level, kind, parent, and further words. -/
def block (a level kind parent : Nat) (ws : List (Nat × Word)) (s : State) : State :=
  ws.foldl (fun s e => s.putPaWord (a + 8 * e.1) e.2)
    ((s.putPaWord a (word (level * 2 ^ 48 + kind * 2 ^ 44))).putPaWord (a + 8) (word parent))

/-- A tenant, a graph, a region of 2 by 1 tiles and a COND node at 0x10300; S1 to S3 name node, region and tenant, S4 bytes of the SRAM. -/
def sl (pl : Word) (r : RegionRec) : State :=
  block 0x20000 4 0 0 [] (block 0x10300 3 4 0x10200 [] (block 0x10200 2 0 0x10100 [(8, 0x0101)] (block 0x10100 1 0 0x10000 [] (block 0x10000 0 0 0 [(12, 7)]
    (inRegion r (at0 { th0 with status := pl, s := [(1, 0x10300), (2, 0x10200), (3, 0x10000), (4, sramBase + 0x140), (5, 0x20000)] }))))))

theorem witness_EngineAndTapResults :
    (s0.cur = some th0 ∧ Room (.gen 3) s0 ∧ readV (.gen 1) s0 = .go 0x0102030405060708 s0 ∧ engineRoom (.gen 3) th0 = true ∧
      s0.settled s0.here.tile th0.uid = true ∧ copyPurity s0 s0.me 0x0102030405060708 = none ∧ edgePurity s0 s0.me 0x0102030405060708 = none) ∧
    (let x : Thread := { th0 with awaited := (List.range 8).map (fun i => ⟨i, .gen 9, false⟩) }
     (at0 x).cur = some x ∧ (SReg.gen 3) ≠ .gen 0 ∧ 8 ≤ x.awaited.length) ∧ readS (.gen 1) s0 = .go 7 s0 ∧
    purityForbids s0 th0 = none ∧ isGuest s0.here.slot = false ∧ (s0.tap 0).state = .idle ∧ isGuest 6 = true ∧
    (let s := s0.placeTap 0 { Tap.idle with state := .armed, q := 3, slot := 0, layer := 17, laps := 4 }
     holdsTap s 3 = true ∧ holdsTap s 2 = false ∧ (s.tap 0).state ≠ .idle ∧ (s.tap 0).q < 8 ∧ (s.tap 0).lane < 8 ∧ (s.tap 0).laps < 64 ∧
       (s.tap 0).layer < 65536 ∧ (s.tap 0).reason < 256) := by
  refine ⟨⟨rfl, ⟨rfl, rfl⟩, rfl, rfl, ?_, ?_, ?_⟩, ⟨rfl, ?_, ?_⟩, rfl, ?_, ?_, ?_, ?_, ?_⟩ <;> decide +kernel

/-- A node at 0x9000 of a kind (R53), READY. -/
def nd (kind : Nat) : NodeRec :=
  { addr := 0x9000, die := 0, blk := [word (kind * 2 ^ 44)], rblk := [], desc := [], region := 0x10200, path := [], tenant := 0, pending := 0,
    sawDone := false, state := .ready, prio := 0, base := 0, prioAt := 0, readyAt := 0, fd := 0, rerun := false, impure := false,
    late := false, code := 0, tileX := 0, tileY := 0, detail := 0, todo := [], begun := true, bytes := 0, stop := .no, look := none,
    gang := none, resuming := false, tkey := [], arch := [], aid := 0 }

/-- A thread of a PURE run without arguments and outputs; V1 asks for a copy of 64 bytes. -/
def spure : State :=
  let s := at0 { th0 with node := some 0x9000, v := [(1,
    BitVec.ofNat 512 (0x100000 + 0x200000 * 2 ^ 64 + 64 * 2 ^ 128 + (1 + 2 ^ 32) * 2 ^ 256))] }
  { s with nodes := [{ nd 1 with state := .running }] }

theorem witness_EngineAndTapTraps :
    purityForbids spure spure.me = some (trapOf .purity 0 4) ∧
    (copyPurity spure spure.me (BitVec.ofNat 512 (0x100000 + 0x200000 * 2 ^ 64 + 64 * 2 ^ 128 + (1 + 2 ^ 32) * 2 ^ 256))).isSome = true ∧
    (edgePurity spure spure.me (BitVec.ofNat 512 (0x100000 + 0x200000 * 2 ^ 64 + 64 * 2 ^ 128 + (1 + 2 ^ 32) * 2 ^ 256))).isSome = true := by
  decide +kernel

theorem witness_TaskResults :
    (let s := inRegion r0 (at0 { th0 with s := [(1, 0x1), (2, 77), (4, sramBase), (5, 0x3030), (6, 0x7F00C0000000)], window := 4 })
     let x := s.me
     s.cur = some x ∧ readS (.gen 1) s = .go 1 s ∧ readS (.gen 2) s = .go 77 s ∧ readS (.gen 4) s = .go sramBase s ∧ readS (.gen 5) s = .go 0x3030 s ∧
     readS (.gen 6) s = .go 0x7F00C0000000 s ∧
     sendOk s 0 1 = true ∧ isService s (tileAt (field (1 : Word) 0 8) (field (1 : Word) 8 8)) = false ∧ Settled s x ∧
     sendJammed s 0 (tileAt (field (1 : Word) 0 8) (field (1 : Word) 8 8)) = false ∧ sendOk s 0 0x3030 = false ∧
     ownerOf s 0 sramBase = some 0 ∧ sendJammed s 0 0 = false ∧ ownerOf s 0 0x7F00C0000000 = none ∧ regionOf s 0 = some r0 ∧ r0.det = true ∧
     s.tasksOut x.origin x.key = false ∧ x.window.toNat ≤ r0.number.toNat) ∧
    detTile s0 0 = false ∧
    (let s := inRegion r0 (at0 { th0 with window := 5 })
     r0.number.toNat < s.me.window.toNat) ∧
    (isService spure (serviceTile 0) = true ∧ sendOk spure 0 (word (tileX (serviceTile 0) + 256 * tileY (serviceTile 0))) = true ∧
      (purityOf spure spure.me).isSome = true) := by
  refine ⟨⟨rfl, rfl, rfl, rfl, rfl, rfl, ?_, ?_, ⟨?_, ?_⟩, ?_, ?_, ?_, ?_, ?_, rfl, rfl, ?_, ?_⟩, ?_, ?_, ?_, ?_, ?_⟩ <;> decide +kernel

/-- The states of `sl` with an admitted node. -/
def slNode (st : NState) : State := { (sl 2 r0).updMpt 0 (fun m => { m with carve := 0x3001 }) with part := .e768D, nodes := [{ nd 0 with addr := 0x10300, path := [0x10300], state := st }] }

set_option maxRecDepth 4000 in
theorem witness_LaunchAndArchiveResults :
    (let s := sl 2 r0
     LaunchReady (.gen 6) (.gen 1) 0x10300 s s s.me ∧ LaunchReady (.gen 6) (.gen 5) 0x20000 s s s.me ∧ s.me.pl = 2 ∧
     (blockChain 0x20000 s).1 = none ∧
     (blockChain 0x10300 s).1.map (fun c => (c.length, otherTenant (blockChain 0x10300 s).2 (chainTenant c))) = some (4, false) ∧
     killTargets s 0x10300 = [] ∧ s.node 0x10300 = none ∧ killTargets (slNode .running) 0x10300 ≠ [] ∧
     (blockChain 0x10200 s).1.map List.length = some 3 ∧ (sl 2 { r0 with on := false }).region 0x10200 = some { r0 with on := false } ∧
     (s.region 0x10200).map (fun r => r.on) = some true) ∧
    (let s := sl 1 r0
     s.me.pl < 2 ∧ blockAddr s 0x10000 = true ∧
     (blockChain 0x10000 s).1.map (fun c => otherTenant (blockChain 0x10000 s).2 (chainTenant c)) = some true) := by
  refine ⟨⟨⟨rfl, ⟨rfl, rfl⟩, rfl, ?_, ?_, ?_, ?_⟩, ⟨rfl, ⟨rfl, rfl⟩, rfl, ?_, ?_, ?_, ?_⟩, ?_, ?_, ?_, ?_, ?_, ?_, ?_, ?_, ?_⟩, ?_⟩ <;> decide +kernel

set_option maxRecDepth 4000 in
theorem witness_LaunchRequests :
    (slNode .preempted).node 0x10300 = some { nd 0 with addr := 0x10300, path := [0x10300], state := .preempted } ∧
    preemptRefused (slNode .preempted) { nd 0 with addr := 0x10300, path := [0x10300], state := .preempted } = true ∧
    preemptRefused (slNode .running) { nd 0 with addr := 0x10300, state := .running } = false ∧
    readS (.gen 4) (sl 2 r0) = .go (sramBase + 0x140) (sl 2 r0) ∧ (sramBase + 0x140 : Word).toNat % 8 = 0 ∧
    (∀ i, i < 4 → checkAccess (sramBase + 0x140 + word (8 * i)) 8 .write 0 (sl 2 r0) = .ok (.sram 0 (0x140 + 8 * i), sl 2 r0)) ∧
    OwnClear 0x140 (sl 2 r0) := by
  refine ⟨?_, ?_, ?_, rfl, ?_, ?_, ?_⟩
  · decide +kernel
  · decide +kernel
  · decide +kernel
  · decide
  · intro i h
    match i, h with
    | 0, _ => rfl
    | 1, _ => rfl
    | 2, _ => rfl
    | 3, _ => rfl
  · show ∀ i, i < 4 → saFull (sl 2 r0) 0 (0x140 + 8 * i) = false ∧ justEmptied (sl 2 r0) 0 (0x140 + 8 * i) = false
      ∧ (sl 2 r0).isPoisoned (sramKey 0 (0x140 + 8 * i)) 8 = false
    decide +kernel

theorem witness_SystemRegisterResults :
    (s0.cur = some th0 ∧ th0.allRipe s0.cycle = true ∧ Room (.gen 3) s0 ∧ purityForbids s0 th0 = none ∧ isGuest s0.here.slot = false ∧
      readS (.gen 2) s0 = .go 5 s0 ∧ th0.pl = 0) ∧
    (spure.me.allRipe spure.cycle = true ∧ purityForbids spure spure.me = some (trapOf .purity 0 4) ∧ pureClosed 0x014 = true) ∧
    (isGuest 6 = true ∧ pureClosed 0x030 = false) ∧
    [1, 2].map (fun pl => (at0 { th0 with status := pl }).me.pl) = [1, 2] ∧
    (field (5 : Word) 0 2 ≠ 2 ∧ field (5 : Word) 2 2 ≠ 2 ∧ field (2 : Word) 0 2 = 2) := by
  refine ⟨⟨rfl, ?_, ⟨rfl, rfl⟩, ?_, ?_, rfl, ?_⟩, ⟨?_, ?_, ?_⟩, ?_, ?_, ?_, ?_⟩ <;> decide +kernel

theorem witness_TrapInstructionResults :
    s0.cur = some th0 ∧ Handles s0 th0 ∧ readS (.gen 1) s0 = .go 7 s0 ∧ s0.hereTile.brkhalt = false ∧
    (let s := s0.updHere (fun x => { x with brkhalt := true })
     s.cur = some th0 ∧ chainOf s 0 0 = [] ∧ s.hereTile.brkhalt = true) ∧ 0x10 ∈ [0x03, 0x04, 0x05, 0x10] := by
  refine ⟨rfl, ⟨?_, ?_, ?_⟩, rfl, ?_, ⟨rfl, ?_, ?_⟩, ?_⟩ <;> decide +kernel

theorem witness_WaitingInstructionResults :
    s0.cur = some th0 ∧ readS (.gen 1) s0 = .go 7 s0 ∧ th0.origin = s0.here.tile ∧ owesSeals s0 = false ∧ s0.settled s0.here.tile th0.uid = true ∧
    enginesDone s0 th0 = true ∧ th0.ev = false ∧
    (let x : Thread := { th0 with origin := 1 }
     let s := inRegion r0 (at0 x)
     s.cur = some x ∧ x.origin ≠ s.here.tile ∧ staysHere s 0 0 x = false ∧ x.phase = 0 ∧ x.awaited = [] ∧ s.settled s.here.tile x.uid = true) ∧
    (let s := at0 { th0 with awaited := [⟨9, .gen 3, false⟩] }
     { s with copies := [] }.settled s.here.tile th0.uid = true) := by
  refine ⟨rfl, rfl, rfl, ?_, ?_, ?_, rfl, ⟨rfl, ?_, ?_, rfl, rfl, ?_⟩, ?_⟩ <;> decide +kernel

theorem witness_MaintenanceResults :
    (let x : Thread := { th0 with status := 2, s := [(1, 0x4001), (2, 3), (3, 0x3F3F000000000)] }
     let s := at0 x
     s.cur = some x ∧ x.pl ≠ 0 ∧ x.pl = 2 ∧ readS (.gen 1) s = .go 0x4001 s ∧ readS (.gen 0) s = .go 0 s ∧ scopeOf s 0 0 = some ⟨0, 0, 0, 0, 0⟩ ∧
     Scope.pkg ⟨0, 0, 0, 0, 0⟩ = pkgId s ∧ s.settled s.here.tile x.uid = true ∧ scopeOf s 0 0xFFFF2F3F0000 = some ⟨0, 0, 63, 47, 0xFFFF⟩ ∧
     0xFFFF ≠ pkgId s ∧ flag (3 : Word) 3 = false) ∧ th0.pl = 0 ∧ th0.pl < 2 := by
  refine ⟨⟨rfl, ?_, ?_, rfl, rfl, rfl, ?_, ?_, ?_, ?_, ?_⟩, ?_⟩ <;> decide +kernel

/-- No select at all. -/
def noSels : Sels := ⟨.none, .none, .none, .none, .none, .none, .none, .none, .none, .none⟩

theorem witness_SwitchResults :
    s0.part.populated 0 = true ∧ s0.hereTile.sig = false ∧ s0.hereTile.node = none ∧ routeWaits s0 0 noSels = [] ∧
    (let s := s0.updHere (fun x => { x with sc := { x.sc with inN := ⟨[⟨90, 9, false⟩], 0, 0⟩ } })
     routeWaits s 0 { noSels with score := .inp .n } = [] ∧ routeWaits s 0 { noSels with score := .inp .e } ≠ []) ∧
    linkTile s0 0 .e = some 1 := by decide +kernel

theorem witness_UnsettledStores :
    { s0 with net := [⟨7, .req, .tile 0, .mpt 0, 0, 0, .access ⟨0, 0, 5, 0, 0⟩ 0 0 0x5000 (.store 8 1), []⟩] }.settled 0 th0.uid = false := by decide +kernel

/-- The address FD00::1 of port 0. -/
def hostAddr : BitVec 128 := 0xFD000000000000000000000000000001

/-- A running endpoint with one session, SESSION 5 expecting SEQ 7, whose port 0 has that address. -/
def sh : State :=
  { s0 with ep := { s0.ep with boot := .running, portsUp := true, sessions := [⟨5, 7, [], 0⟩], epctl := 0x107, ipv6a := [(0, 0xFD), (15, 1)] } }

/-- What a frame for that address carries: a datagram from the UDP port 5000 of address 1 (R36). -/
def carry (data : List Byte) : Carried := ⟨[], true, 1, hostAddr, false, false, some (5000, 0xCFD0), data⟩

/-- The octets of a frame with it, without the FCS. -/
def bodyOf (data : List Byte) : List Byte := List.replicate 12 2 ++ [0x86, 0xDD] ++ udpOctets 1 hostAddr 5000 0xCFD0 64 data

/-- A frame at port 0 with a datagram. -/
def frameOf (data : List Byte) : Frame := ⟨0, bodyOf data ++ fcsOf (bodyOf data)⟩

/-- A frame at port 0 with a request of the host protocol (R38). -/
def frame (kind session seq : Nat) (sync : Bool) (addr aux : Word) (payload : List Byte) : Frame :=
  frameOf (datagramOf kind false sync session seq 0 addr aux payload)

/-- What that frame says. -/
def asked (kind session seq : Nat) (sync : Bool) (addr aux : Word) (payload : List Byte) : HostMsg :=
  { port := 0, peer := (1, 5000), resp := false, kind := kind, sync := sync, session := BitVec.ofNat 16 session, seq := BitVec.ofNat 32 seq,
    addr := addr, aux := aux, payload := payload }

theorem hears (s : State) (d : List Byte) (m : HostMsg) (hp : portOpen s 0 = true) (hf : fcsOk (frameOf d) = true)
    (hs : flag s.ep.epctl 3 = false) (hc : frameCarried (frameData s (frameOf d)) = carry d)
    (ha : flag s.ep.epctl 8 = true) (hi : ipv6At s.ep.ipv6a 0 = hostAddr)
    (hu : unsupported s (frameOf d).octets.length (carry d) = false) (hm : parseDatagram 0 (carry d) = some m) :
    heard s (frameOf d) = .message m := by
  have hd : portAddress s 0 hostAddr = true := by
    simp only [portAddress, Bool.or_eq_true, List.any_eq_true, List.mem_range]
    exact .inr ⟨0, by decide, by simp [ha, hi]⟩
  have h0 : (frameOf d).port = 0 := rfl
  have ht : (carry d).tags = [] := rfl
  have hg : (carry d).fragment = false := rfl
  have h6 : portAddress s 0 (carry d).dst = true := hd
  rw [heard, h0, hp, hf, hs, hc]
  simp [heardOf, ht, hg, h6, hu, hm]

/-- Sixteen bytes to write. -/
def bytes16 : List Byte := leBytes 8 0x1122 ++ leBytes 8 77

/-- A request of 16 bytes in DIRECT of MPT 0, of kind 1 to 3. -/
def hm (kind : Nat) : HostMsg := asked kind 5 7 false (if kind = 3 then 0x10500 else 0x800000000100) 16 bytes16

/-- Its frame. -/
def hf (kind : Nat) : Frame := frame kind 5 7 false (if kind = 3 then 0x10500 else 0x800000000100) 16 bytes16

/-- A full table of sessions, none of them idle for 10 s. -/
def sbusy : State := { sh with ep := { sh.ep with sessions := (List.range 64).map (fun i => ⟨i, 0, [], 0⟩) } }

theorem witness_BootResults :
    State.reset.ep.boot = .selfTest ∧ (∀ d, d < 3 → dieFails State.reset [[3], [], [1]] d = false) ∧
    dieFails State.reset [[3], [], [1, 2]] 2 = false ∧ dieFails State.reset [[3], [], [1, 2, 5]] 2 = true ∧ (dieFails { State.reset with fuses := [[], [], [1]] } [[3], [], [1, 2]] 2 = false) ∧
    dieFails { State.reset with fuses := [[], [], [1, 4]] } [[3], [], [1, 2]] 2 = true ∧
    2 < (defectColumns State.reset [[3], [], [1, 2, 5]] 2).length ∧ State.reset.ep.busy = false ∧
    (let s : State := { s0 with ep := { s0.ep with boot := .failed, failcode := 1, busy := true } }
     s.ep.boot ≠ .awaiting ∧ s.ep.failcode = 1 ∧ s.ep.busy = true) ∧
    (let s : State := { s0 with ep := { s0.ep with boot := .verifying } }
     s.ep.boot = .verifying) := by
  refine ⟨rfl, ?_, ?_, ?_, ?_, ?_, ?_, rfl, ?_, rfl⟩ <;> decide +kernel

/-- The header of R38 written out: MSG of session 7, SEQ 100, to label 5, width 1, of die 2's service tile. -/
theorem test_datagram :
    parseDatagram 0 (carry
      [0x4E, 0x5A, 0x01, 0x03, 0x07, 0x00, 0x08, 0x00, 0x64, 0, 0, 0, 0, 0, 0, 0, 0x02, 0x05, 0x01, 0, 0, 0, 0, 0, 0, 0, 0, 0, 0, 0, 0, 0,
       1, 2, 3, 4, 5, 6, 7, 8])
      = some (asked 3 7 100 false 0x10502 0 [1, 2, 3, 4, 5, 6, 7, 8]) := by rfl

/-- The check value of the FCS's CRC-32: that of the octets 31H to 39H is CBF43926H, sent with its low octet first. -/
theorem test_fcs : fcsOf [0x31, 0x32, 0x33, 0x34, 0x35, 0x36, 0x37, 0x38, 0x39] = [0x26, 0x39, 0xF4, 0xCB] := by decide +kernel

/-- The published example of AES-256: the key 00H to 1FH and the block 00H, 11H, to FFH. -/
theorem test_aes : aesBlock (roundKeys ((List.range 32).map (BitVec.ofNat 8))) ((List.range 16).map (fun i => BitVec.ofNat 8 (17 * i)))
    = [0x8E, 0xA2, 0xB7, 0xCA, 0x51, 0x67, 0x45, 0xBF, 0xEA, 0xFC, 0x49, 0x90, 0x4B, 0x49, 0x60, 0x89] := by decide +kernel

/-- The published example of GCM with a key of 32 zeros, an IV of zeros and a block of zeros. -/
theorem test_gcm :
    let ks := roundKeys (List.replicate 32 0)
    let c := gcmStream ks (List.replicate 12 0) (List.replicate 16 0)
    c = [0xCE, 0xA7, 0x40, 0x3D, 0x4D, 0x60, 0x6B, 0x6E, 0x07, 0x4E, 0xC5, 0xD3, 0xBA, 0xF3, 0x9D, 0x18] ∧
    gcmTag ks (List.replicate 12 0) [] c
      = [0xD0, 0xD1, 0xC8, 0xA7, 0x99, 0x99, 0x6B, 0xF0, 0x26, 0x5B, 0x98, 0xB5, 0xD4, 0x8A, 0xB9, 0x19] := by decide +kernel

theorem witness_HostFrames :
    (let s : State := { sh with ep := { sh.ep with epctl := 15, vlan := 9 } }
     portOpen s 0 = true ∧ flag s.ep.epctl 3 = true ∧ portVid s 0 = 9 ∧ secureFrame s (hf 1) = false) ∧
    portOpen sh 0 = true ∧ portOpen sh 1 = true ∧ portOpen State.reset 0 = false ∧ flag sh.ep.epctl 3 = false ∧ portVid sh 0 = 0 ∧
    unsupported sh (hf 1).octets.length (frameCarried (frameData sh (hf 1))) = false ∧ parseDatagram 0 (carry [0x4E]) = none ∧
    fcsOk (hf 1) = true ∧ fcsOk ⟨0, (hf 1).octets.map (fun b => b + 1)⟩ = false ∧ portAddress sh 0 (linkLocal 0) = true := by
  refine ⟨?_, ?_, ?_, ?_, ?_, ?_, ?_, ?_, ?_, ?_, by simp [portAddress]⟩ <;> decide +kernel

theorem witness_FramesReadBack :
    1 ≤ 3 ∧ 3 ≤ 4 ∧ 7 < 65536 ∧ 100 < 2 ^ 32 ∧ bytes16.length < 65536 ∧
    (carry (datagramOf 3 false false 7 100 0 0 0 bytes16)).datagram = datagramOf 3 false false 7 100 0 0 0 bytes16 ∧ bytes16.length < 65528 ∧
    (List.replicate 8 (0 : Byte)).length = 8 := by decide +kernel

theorem asks (kind session seq : Nat) (sync : Bool) (addr aux : Word) (payload : List Byte) (s : State) (he : s.ep.epctl = sh.ep.epctl)
    (hi : s.ep.ipv6a = sh.ep.ipv6a) (hp : portOpen s 0 = true) (hf : fcsOk (frame kind session seq sync addr aux payload) = true)
    (hc : frameCarried (frameData s (frame kind session seq sync addr aux payload))
      = carry (datagramOf kind false sync session seq 0 addr aux payload))
    (hu : unsupported s (frame kind session seq sync addr aux payload).octets.length
      (carry (datagramOf kind false sync session seq 0 addr aux payload)) = false)
    (hm : parseDatagram 0 (carry (datagramOf kind false sync session seq 0 addr aux payload))
      = some (asked kind session seq sync addr aux payload)) (hn : s.ep.msgs = []) (hx : s.ep.spans = []) :
    Asks kind (frame kind session seq sync addr aux payload) (asked kind session seq sync addr aux payload) s :=
  ⟨⟨hears s _ _ hp hf (by rw [he]; rfl) hc (by rw [he]; rfl) (by rw [hi]; decide +kernel) hu hm, rfl, rfl, by rw [hn]; rfl⟩,
   by simp [spanOf, hx]⟩

theorem witness_HostRequests :
    (Asks 1 (hf 1) (hm 1) sh ∧ Asks 2 (hf 2) (hm 2) sh ∧ Asks 3 (hf 3) (hm 3) sh) ∧ Opened (hm 1) sh sh ⟨5, 7, [], 0⟩ ∧ (hm 1).seq = 7 ∧
    Opened (asked 1 5 9 true 0 0 []) sh (syncSession (asked 1 5 9 true 0 0 []) sh) ⟨5, 9, [], 0⟩ ∧
    Opened (asked 1 6 9 true 0 0 []) sh (syncSession (asked 1 6 9 true 0 0 []) sh) ⟨6, 9, [], sh.ring.cycle⟩ ∧
    (∀ k, k = 1 ∨ k = 2 ∨ k = 3 → Asks k (frame k 70 7 true 0 0 []) (asked k 70 7 true 0 0 []) sbusy) ∧ sessionOf sbusy 70 = none ∧
    (sessionRoom sbusy).isNone = true ∧
    (∀ k, k = 1 ∨ k = 2 ∨ k = 3 → Asks k (frame k 5 6 false 0 0 []) (asked k 5 6 false 0 0 []) sh) ∧
    ((7 : BitVec 32) - (asked 1 5 6 false 0 0 []).seq).toNat = 1 ∧
    (hostStatus sh (hm 1).addr (hm 1).payload.length = 0 ∧ hostStatus sh (hm 2).addr (hm 2).aux.toNat = 0 ∧
      hostStatus sh 0x800000000101 16 ≠ 0 ∧
      (spanWords (hm 2) 2 [] ((hostWords (hm 2).addr 16).map (fun pa => (pa, 0))) sh).1.got.any (fun e => e.2) = false ∧
      (let s := { sh with poison := [(paKey sh 0x800000000100).getD 0 / 8] }
       (spanWords (hm 2) 2 [] ((hostWords (hm 2).addr 16).map (fun pa => (pa, 0))) s).1.got.any (fun e => e.2) = true) ∧
      (spanWords (hm 1) 1 [] [(0x800000000100, 1), (0x800000000108, 2)] sh).1.todo = [(0x800000000108, 2)]) ∧
    ((hm 3).payload.length = 16 ∧ sh.ep.boot = .running ∧ field (0x10500 : Word) 0 2 < sh.part.dies ∧ field (0x10500 : Word) 2 6 = 0 ∧
      flag (0x10500 : Word) 15 = false ∧ field (0x10500 : Word) 18 46 = 0) := by
  refine ⟨⟨?_, ?_, ?_⟩, ⟨rfl, .inl ⟨rfl, rfl⟩⟩, rfl, ⟨rfl, .inr ⟨rfl, rfl, rfl, .inl ⟨rfl, rfl⟩⟩⟩,
    ⟨rfl, .inr ⟨rfl, rfl, rfl, .inr ⟨rfl, sh, rfl, rfl⟩⟩⟩, ?_, ?_, ?_, ?_, ?_, ?_, ?_⟩
  · exact asks _ _ _ _ _ _ _ sh rfl rfl (by decide +kernel) (by decide +kernel) (by decide +kernel) (by decide +kernel) (by decide +kernel) rfl rfl
  · exact asks _ _ _ _ _ _ _ sh rfl rfl (by decide +kernel) (by decide +kernel) (by decide +kernel) (by decide +kernel) (by decide +kernel) rfl rfl
  · exact asks _ _ _ _ _ _ _ sh rfl rfl (by decide +kernel) (by decide +kernel) (by decide +kernel) (by decide +kernel) (by decide +kernel) rfl rfl
  · rintro k (rfl | rfl | rfl) <;> exact asks _ _ _ _ _ _ _ sbusy rfl rfl (by decide +kernel) (by decide +kernel) (by decide +kernel) (by decide +kernel) (by decide +kernel) rfl rfl
  · decide +kernel
  · decide +kernel
  · rintro k (rfl | rfl | rfl) <;> exact asks _ _ _ _ _ _ _ sh rfl rfl (by decide +kernel) (by decide +kernel) (by decide +kernel) (by decide +kernel) (by decide +kernel) rfl rfl
  · decide +kernel
  · decide +kernel
  · decide +kernel

/-- An acknowledgement of event 4. -/
def ackFrame : Frame := frameOf (datagramOf 4 true false 0xFFFF 4 0 0 0 [])

theorem witness_EndpointRegisters :
    paKind sh (0xFFFFFFFFF0008 / 8 * 8) = .endpoint 8 ∧ paKind sh (0xFFFFFF0000008 / 8 * 8) = .config 0 8 ∧
    carveRefused sh 3 1 = false ∧ carveRefused sh 3 0xFFFFF = true ∧ 3 < sh.part.mpts ∧ sh.ep.queued = [] ∧
    { sh with ring := { sh.ring with cycle := ringMillisecond } }.ep.resentAt + ringMillisecond ≤ ringMillisecond ∧
    heard sh ackFrame = .message { asked 4 0xFFFF 4 false 0 0 [] with resp := true } := by
  have h : heard sh ackFrame = .message { asked 4 0xFFFF 4 false 0 0 [] with resp := true } := by
    refine hears sh _ _ ?_ ?_ ?_ ?_ ?_ ?_ ?_ ?_ <;> decide +kernel
  refine ⟨?_, ?_, ?_, ?_, ?_, rfl, ?_, h⟩ <;> decide +kernel

/-- A grandmaster's data set. -/
def gm0 : Grandmaster := ⟨128, 6, 0x21, 0x4E5D, 128, 7⟩

theorem witness_PowerAndLinkResults :
    (let x : PowerSample := ⟨1049, 0, 6599, 0, 0⟩
     x.tj < 1100 ∧ x.tj < 1050 ∧ x.current < 6600 ∧ s0.power.step = 0) ∧ [(100, 1), (50, 2)].length ≤ s0.part.dies ∧
    eolLeast 0 [(100, 1), (50, 2)] = some (1, (50, 2)) ∧
    1100 ≤ (⟨1100, 0, 0, 0, 0⟩ : PowerSample).tj ∧ (∀ n, n ∈ [1, 2, 3] → ({ s0.power with step := n }).step = n) ∧
    (ptpEnabled sh = true ∧ sh.ep.portsUp = true ∧ steering { sh with ptp := { sh.ptp with locked := [(0, some gm0)] } } = pkgId sh ∧
      steering { sh with links := { sh.links with domain := [0, 3], peerLock := [3] } } = 3 ∧ pkgId sh ≠ 3 ∧
      ptpPort { sh with ptp := { sh.ptp with locked := sparseSet none sh.ptp.locked 0 (some gm0) } } = some 0 ∧
      ptpPort { sh with ptp := { sh.ptp with locked := sparseSet none (sparseSet none [] 0 (some gm0)) 1 (some { gm0 with identity := 9, priority1 := 129 }) } } ≠ some 1 ∧
      portOpen sh 0 = true ∧ keepsMaster sh 0 gm0 = false ∧ betterMaster { gm0 with identity := 9, priority1 := 127 } gm0 = true ∧
      keepsMaster { sh with ptp := { sh.ptp with locked := [(0, some gm0)] } } 0 { gm0 with identity := 9 } = true ∧
      sh.ptp.everLocked = false ∧ 0 ≤ ((5 : Word) - sh.tick).toInt ∧ (sh.tick - 5 - sh.tick).toInt < 0) ∧
    (s0.part.bare = false ∧ 175 ∉ s0.links.moduleDown ∧ s0.here.item = 0 ∧
      sparseGet 0 ({ s0.links with moduleRetry := [(175, 6)] }).moduleRetry 175 + 1 < 8 ∧
      8 ≤ sparseGet 0 ({ s0.links with moduleRetry := [(175, 7)] }).moduleRetry 175 + 1 ∧ ({ s0 with here := ⟨0, 0, 1⟩ }).here.item ≠ 0) ∧
    (hasFlaster s0 3 = true ∧ 3 ∉ s0.links.portDown ∧ sparseGet 0 s0.links.portRetry 3 + 1 < 16 ∧
      16 ≤ sparseGet 0 ({ s0.links with portRetry := [(3, 15)] }).portRetry 3 + 1) := by decide +kernel

/-- A packet of a body from tile 0 to a destination. -/
def pk (b : Body) (c : Machine.Class) (d : Node) : Packet := ⟨77, c, .tile 0, d, 0, 0, b, []⟩

/-- A copy request of 64 bytes within the SRAM window. -/
def cp : Copy := ⟨9, ⟨0, 0, 5, 0, 0⟩, 4, none, 0, 0, 0, 0, false, [], 0, false, 0, 0⟩

/-- A packet in flight. -/
def flying (p : Packet) (s : State) : State := { s with net := [p], here := ⟨0, 0, 77⟩ }

/-- A packet that has arrived and is to be handled. -/
def arrivedAt (p : Packet) (s : State) : State := { s with arrived := [p], here := ⟨0, 0, 77⟩ }

theorem witness_PacketResults :
    (let p := pk (.probe 0) .tsk (.tile 1)
     let s := flying p s0
     s.inFlight s.here.item = some p ∧ p.notBefore ≤ s.cycle ∧ behind p s.net = false ∧ downModule s p = none ∧ refused s p = false ∧
     s.unacked.any (fun z => p.after.contains z.id) = false ∧ p.cls ≠ .bulk ∧ p.cls ≠ .side ∧ p.retries < 8) ∧
    (let p := { pk (.probe 0) .tsk (.tile 1) with notBefore := 101, after := [5] }
     (flying p s0).inFlight (flying p s0).here.item = some p ∧ (flying p s0).cycle < p.notBefore ∧
     ({ s0 with unacked := [⟨5, none, 1⟩] }).unacked.any (fun z => p.after.contains z.id) = true) ∧
    (let p := pk (.probe 0) .tsk (.tile 40)
     downModule { flying p s0 with links := { s0.links with moduleDown := [0] } } p = some 0) ∧
    (∀ b ∈ [Body.copy cp, .push 9 [(.sram 0 0x200, 5, false)] false],
      (flying (pk b .bulk (.mpt 0)) s0).inFlight 77 = some (pk b .bulk (.mpt 0)) ∧ (flying (pk b .bulk (.mpt 0)) s0).here.item = 77) ∧
    (let s : State := { s0 with cycle := 4096 }
     sparseGet 0 s.links.routerIdle (routerKey (decide (RouterNet.bulk = .bulk)) 0) + 4096 ≤ s.cycle) ∧
    s0.part.passes 0 = false ∧ (∃ p : Part, ∃ t, t < 3072 ∧ p.passes t = true) ∧
    (hasFlaster s0 3 = true ∧ 3 ∉ s0.links.portDown) ∧ flasterOpen s0 0x800000000100 = true ∧
    (paKey s0 0x800000000100).isSome = true ∧ homeMpt s0 0x800000000100 = 0 ∧ s0.isPoisoned ((paKey s0 0x800000000100).getD 0) 1 = false ∧
    ({ s0 with latent := [(paKey s0 0x800000000100).getD 0 / 8] }).latent.contains ((paKey s0 0x800000000100).getD 0 / 8) = true := by
  refine ⟨?_, ?_, ?_, ?_, ?_, ?_, ⟨.e2688P, 28, ?_, ?_⟩, ?_⟩ <;> decide +kernel

theorem witness_TileEventResults :
    (let s : State := { inRegion r0 s0 with cycle := 1024, here := ⟨0, 0, 0x10200⟩ }
     s.region s.here.item = some r0 ∧ r0.on = true ∧ r0.base < s.cycle ∧ (s.cycle - r0.base) % 1024 = 0 ∧ 0 ∈ r0.tiles ∧
     s.thread 0 0 = some th0) ∧
    (let g : GangOp := ⟨.snop, 0x1000, 0x1004, 0, false, 100, 0⟩
     let s := s0.updHere (fun x => { x with gangQ := [g] })
     s.hereTile.gangQ = [g] ∧ s.hereTile.gangNow = none ∧ g.due ≤ s.cycle) ∧
    s0.hereTile.halted = false ∧
    (let s := s0.updHere (fun x => { x with halting := true })
     s.hereTile.halting = true ∧ (liveThreads s s.here.tile).all (fun e => !awaitsReply s e.2) = true) ∧
    (let s := s0.updHere (fun x => { x with halted := true })
     s.hereTile.halted = true ∧ s.thread s.here.tile 0 = some th0) ∧
    (field (27 : Word) 56 3 = 0 ∧ field (27 : Word) 0 16 = 27 ∧ field (0x400 : Word) 0 16 = 0x400) := by decide +kernel

/-- The thread of `th0` as a requester. -/
def w0 : Who := ⟨0, 0, 5, 0, 0⟩

/-- A memory access that has arrived at MPT 0. -/
def reqAt (op : MemOp) : State := arrivedAt (pk (.access w0 9 0 0x800000000100 op) .req (.mpt 0)) s0

/-- A reply that has arrived at its tile, whose thread waits for it. -/
def replyAt (src : Node) (left : Nat) : State :=
  arrivedAt { pk (.reply w0 9 0 (.ok 0x77)) .rsp (.tile 0) with src := src }
    (at0 { th0 with wait := .global, pend := some ⟨9, .load (.gen 3) .w64, left, [], [], [], none, 0, none, [], [], false, none, []⟩ })

theorem witness_MemoryEventResults :
    (∀ op ∈ [MemOp.load 8, .ldw, .store 8 5, .prefetch, .red .fadd false 0x3FF0000000000000 true, .amoord .add 0 5 true],
      (reqAt op).packet (reqAt op).here.item = some (pk (.access w0 9 0 0x800000000100 op) .req (.mpt 0)) ∧
      behind (pk (.access w0 9 0 0x800000000100 op) .req (.mpt 0)) (reqAt op).arrived = false) ∧
    (MemOp.load 8).posted = false ∧ (MemOp.store 8 5).posted = true ∧
    ((paKey s0 0x800000000100).isSome = true ∧ s0.isPoisoned ((paKey s0 0x800000000100).getD 0) 1 = false ∧
      (s0.mpt (homeMpt s0 0x800000000100)).reds = []) ∧
    redBlocked (lessPacket (reqAt (.red .fadd false 0x3FF0000000000000 true)) (pk (.access w0 9 0 0x800000000100 (.red .fadd false 0x3FF0000000000000 true)) .req (.mpt 0)))
      w0 0x800000000100 (.red .fadd false 0x3FF0000000000000 true) = false ∧
    (let p := pk (.access { w0 with tile := 1 } 9 0 0x100 (.load 8)) .req (.tile 0)
     (arrivedAt p s0).packet (arrivedAt p s0).here.item = some p ∧ samePlacement (arrivedAt p s0) 0 { w0 with tile := 1 } = true ∧
     ((lessPacket (arrivedAt p s0) p).performSram { w0 with tile := 1 } 9 0 0x100 (.load 8)).1.isSome = true) ∧
    (let p := pk (.access { w0 with tile := 1 } 9 0 0x100 .ldw) .req (.tile 0)
     ((lessPacket (arrivedAt p s0) p).performSram { w0 with tile := 1 } 9 0 0x100 .ldw).1 = none) ∧
    (let p := pk (.access { w0 with tile := 1 } 9 0 0x100 (.store 8 5)) .req (.tile 0)
     let s := arrivedAt p s0
     s.packet 77 = some p ∧ (MemOp.store 8 5).writes = true ∧ justEmptied s 0 0x100 = false ∧
     justEmptied (s.updTile 0 (fun x => { x with emptied := [(0x20, s.cycle)] })) 0 0x100 = true) ∧
    (let l : LoadOut := ⟨0x1000, ⟨9, .load (.gen 3) .w64, 1, [], [], [], none, 0, none, [], [], false, none, []⟩, false⟩
     let z : Thread := { th0 with loads := [l] }
     let p := { pk (.reply w0 9 0 (.ok 0x77)) .rsp (.tile 0) with src := .mpt 0 }
     let s := arrivedAt p (at0 z)
     s.packet 77 = some p ∧ s.thread 0 0 = some z ∧ z.uid = 5 ∧ z.pend = none ∧ l.pend.left = 1) ∧
    ((replyAt (.mpt 0) 2).thread 0 0).map (fun z => (z.uid, z.pend.map (fun q => (q.tok, q.left, q.bad.isNone)))) = some (5, some (9, 2, true)) := by
  refine ⟨?_, ?_, ?_, ?_, ?_, ?_, ?_, ?_, ?_, ?_⟩ <;> decide +kernel

/-- A thread whose AMOORD has been refused and is due to be sent again. -/
def refusedOrd : State :=
  at0 { th0 with wait := .amoord, pend := some ⟨9, .old (.gen 3) false, 1, [], [], [], some (0x800000000100, .amoord .add 0 5 false), 1, some 90, [], [], false, none, []⟩ }

/-- A thread in an AWAIT on the allocated pool word, whose generation has come. -/
def awaiting : State :=
  spool.upd (fun x => { x with wait := .await, pend := some ⟨9, .nothing, 1, [], [(0, word (2 ^ 63 + 0x800100000000))], [], some (0x800100000000, .load 3), 0, none, [], [], false, none, []⟩ })

theorem witness_MemoryEventWaits :
    (refusedOrd.me.pend.bind (fun q => q.resendAt) = some 90 ∧ 90 ≤ refusedOrd.cycle ∧
      refusedOrd.me.pend.bind (fun q => q.again) = some (0x800000000100, .amoord .add 0 5 false)) ∧
    (awaiting.me.wait = .await ∧ (awaiting.me.pend.bind (fun q => awaitVerdict (awaitFold awaiting q) q)).isSome = true) ∧
    (let p := pk (.count 9 0x800100000000 8) .bulk (.mpt 0)
     (arrivedAt p spool).packet (arrivedAt p spool).here.item = some p ∧ (countWord (lessPacket (arrivedAt p spool) p) 0x800100000000).isSome = true ∧
     engineLives spool 9 = false ∧ engineLives { spool with copies := [{ cp with begun := true }] } 9 = true ∧ 8 ≤ 8) ∧
    (let p := pk (.invalidate 5 9) .side (.mpt 0)
     (arrivedAt p s0).packet (arrivedAt p s0).here.item = some p) ∧
    (let p := pk (.sealed w0) .req (.mpt 0)
     (arrivedAt p s0).packet (arrivedAt p s0).here.item = some p) ∧
    (let s := replyAt (.mpt 0) 1
     s.me.wait = .global ∧ s.aheadOf 0 0 = none ∧ runAheadOn s 0 = true ∧ (s.me.pend.map (fun q => q.dest.loads)) = some true ∧ chainOf s 0 0 = [] ∧ haltActive s 0 = false) := by decide +kernel

/-- A copy request of 64 bytes from offset 0x100 of the own SRAM to offset 0x200 (R380), and one whose length is not a multiple of 8. -/
def copyReq (len : Nat) : Vec :=
  BitVec.ofNat 512 (sramBase.toNat + 0x100 + (sramBase.toNat + 0x200) * 2 ^ 64 + len * 2 ^ 128)

/-- A stream request over 64 bytes of the own SRAM at the west edge port of tile 0 (R385), to load or to store. -/
def edgeReq (store : Bool) : Vec :=
  BitVec.ofNat 512 (sramBase.toNat + 0x100 + (64 + (if store then 2 ^ 59 else 0)) * 2 ^ 64 + (1 + 2 ^ 32) * 2 ^ 256 + 3 * 2 ^ 336)

/-- A stream of that request. -/
def es (store : Bool) (r : Vec) : EdgeStream :=
  { id := 9, who := w0, tok := 4, node := none, root := 0, pl := 0, mpt := 0, store := store, vector := false, tile := 0, side := .w,
    aw := 0, pat := { Stream.unbound with kind := .global, write := store, base := sramBase + 0x100, len0 := 64, n1 := 1, n2 := 1 }, total := 0,
    bound := true, code := 0, poisoned := false, req := r, after := [], flits := if store then [(9, false)] else [],
    lines := [.sram 0 0x100], got := [], put := 0, paused := false,
    movedAt := 0 }

/-- A state with that stream bound. -/
def sedge (e : EdgeStream) : State := { s0 with edges := [e], here := ⟨0, 0, 9⟩ }

/-- The engine of MPT 0 with that request arrived, in a region. -/
def scopy (n : Nat) : State := arrivedAt (pk (.copy { cp with req := copyReq n }) .bulk (.mpt 0)) (inRegion r0 s0)

theorem witness_CopyEvents :
    (∀ n ∈ [64, 65], (scopy n).packet 77 = some (pk (.copy { cp with req := copyReq n }) .bulk (.mpt 0)) ∧
      behind (pk (.copy { cp with req := copyReq n }) .bulk (.mpt 0)) (scopy n).arrived = false) ∧
    copyBad (scopy 64) 0 (copyReq 64) = false ∧ copyRemote (copyReq 64) = false ∧ copyMcast (copyReq 64) = false ∧ copyBad (scopy 64) 0 (copyReq 65) = true ∧
    (let l := lessPacket (scopy 64) (pk (.copy { cp with req := copyReq 64 }) .bulk (.mpt 0))
     let x := spanFrom w0 (.mpt 0) 0 0 8 .read (copyLen (copyReq 64) / 8) (copySrc (copyReq 64)) l
     let y := spanFrom w0 (.mpt 0) 0 0 8 .write (copyLen (copyReq 64) / 8) (copyDst (copyReq 64)) x.2
     (beginLocal { cp with req := copyReq 64 } l).isSome = true ∧ (oneMemory x.1).bad = [] ∧ (oneMemory y.1).bad = [] ∧
     copyOverlaps { cp with req := copyReq 64 } y.2 = false ∧
     (match engineArrival (.mpt 0) 0 0 (copyAw (copyReq 64)) y.2 with
      | .ok _ => true
      | .error _ => false) = true) ∧
    (let v : Vec := copyReq 64 ||| BitVec.ofNat 512 ((2 ^ 9 + 3 * 2 ^ 16) * 2 ^ 256)
     let s : State := { scopy 64 with links := { s0.links with domain := [3] } }
     copyBad s 0 v = false ∧ copyRemote v = true ∧ (beginRemote { cp with req := v } s).isSome = true) ∧
    (let c : Copy := { cp with begun := true }
     let s : State := { s0 with copies := [c], here := ⟨0, 0, 9⟩ }
     s.copies.find? (fun x => decide (x.id = s.here.item)) = some c ∧ engineDone s c.id c.who = true) := by
  refine ⟨?_, ?_, ?_, ?_, ?_, ?_, ?_, ?_⟩ <;> decide +kernel

/-- The words of a copy to be read, and one to be written into the SRAM or into global memory. -/
theorem witness_CopyWords :
    (let p := pk (.pull 9 [(.sram 0 0x100, [.sram 0 0x200])] []) .bulk (.tile 0)
     (arrivedAt p s0).packet 77 = some p) ∧
    (∀ g ∈ [Target.sram 0 0x200, .glob 0x800000000100 false],
      let p := pk (.push 9 [(g, 5, false)] false) .bulk (.tile 0)
      let s := arrivedAt p { s0 with copies := [{ cp with begun := true }] }
      s.packet 77 = some p ∧ s.copies.find? (fun x => decide (x.id = 9)) = some { cp with begun := true }) ∧
    saFull s0 0 0x200 = false ∧ (s0.tile 0).fewait = [] ∧
    saFull ({ s0 with full := [sramKey 0 0x200 / 8] }.updHere (fun x => { x with roles := 3 })) 0 0x200 = true ∧
    (paKey s0 0x800000000100).isSome = true ∧ (s0.mpt (homeMpt s0 0x800000000100)).ord = [] := by
  refine ⟨?_, ?_, ?_, ?_, ?_, ?_, ?_⟩ <;> decide +kernel

theorem witness_StreamEvents :
    (∀ st, hereStream (sedge (es st (edgeReq st))) = some (es st (edgeReq st)) ∧ streamMoves (sedge (es st (edgeReq st))) (es st (edgeReq st)) = true) ∧
    inputRoom (sedge (es false (edgeReq false))) (es false (edgeReq false)) = true ∧
    (∀ k ∈ [AccKind.read, .write], (match engineTarget w0 (.mpt 0) 0 0 ((es false 0).pat.addr 0) k (sedge (es false 0)) with
      | .ok x => !flitHeld (sedge (es false 0)) (es false 0) x.1
      | .error _ => false) = true) ∧
    (let e := { es false (edgeReq false) with pat := { (es false 0).pat with pos := 64 } }
     hereStream (sedge e) = some e ∧ e.pat.pos = e.pat.total ∧ engineDone (sedge e) e.id e.who = true) ∧
    (let e := { es false (edgeReq false) with bound := false }
     let p := pk (.stream e) .bulk (.mpt 0)
     let s := arrivedAt p (inRegion r0 s0)
     let l := lessPacket s p
     let x := patternSpan e (e.pat.total / 64) 0 l
     s.packet 77 = some p ∧ edgeBad l 0 (edgeReq false) = false ∧ edgeBad s0 0 (edgeReq false) = true ∧ (bindStream e l).isSome = true ∧
     x.1.bad = [] ∧ (match engineArrival (.mpt 0) 0 0 0 x.2 with
      | .ok w => !portBusy w.2 e
      | .error _ => false) = true) := by
  refine ⟨?_, ?_, ?_, ?_, ?_⟩
  · intro st
    cases st <;> decide +kernel
  all_goals decide +kernel

theorem witness_LookaheadEvents :
    (let x : Stream := { ahead 0 with len0 := 65536 }
     let s := sq [(0, x)]
     s.cur = some th0 ∧ isGuest s.here.slot = false ∧ myStream s 0 = x ∧ x.write = false ∧ x.kind ≠ .none ∧ x.kind ≠ .tap ∧ x.members = 0 ∧
     x.ahead.length - x.taken + 64 ≤ 4096 ∧ x.past (x.pos + x.ahead.length + 64) = false ∧
     (match readLine 0 th0 x.kind (x.addr (x.pos + x.ahead.length)) s with
      | .bytes bs _ => decide (bs.length = 64)
      | _ => false) = true) ∧
    4096 < (ahead 4096).ahead.length - (ahead 4096).taken + 64 ∧
    (let d : Stream := { Stream.unbound with kind := .cluster, members := 1, base := sramBase, len0 := 4096, n1 := 1, n2 := 1 }
     let s := inRegion r0 (sq [(0, d)])
     d = s.streamAt s.here.tile s.here.slot s.here.item ∧ d.wantsBlock = some 0 ∧
     ((List.range 16).filter (fun i => d.members.getLsbD i)).map (memberTile s.here.tile) = [0] ∧ wanting s 0 d 0 = [(0, 0)] ∧
     (match readLines 0 th0 d (blockLines d 0) d.nextPos s with
      | .bytes bs _ => decide (bs.length = 2048)
      | _ => false) = true) := by
  refine ⟨?_, ?_, ?_⟩ <;> decide +kernel

/-- A task for tile 1, label 5. -/
def tk : Task :=
  { rid := 3, gen := 1, srcPkg := 0, srcIdx := 0, stolen := false, aff := true, prio := 1, two := true, label := 5, dpkg := 0, dx := 1, dy := 0,
    win := 3, key := 4, cnt := 6, w0 := 11, w1 := 22, host := none, check := false, since := 0 }

/-- Tile 1 of a region in cycle 10000, with the handler of label 5 installed at 0x400. -/
def stk : State :=
  let s : State := { inRegion { r0 with det := false } s0 with cycle := 10000 }
  ((s.updTile 1 (fun x => { x with htab := 0x801, node := some 0x9000 })).putNat (sramKey 1 (0x800 + 16 * 5)) 8 (2 ^ 63 + 0x400)).putNat
    (sramKey 1 (0x808 + 16 * 5)) 8 99

/-- The same in DET mode, at the first slot of tile 1, a task of window 3 buffered. -/
def sdet : State :=
  { (stk.updTile 1 (fun x => { x with tasks := [tk], ready := [5] })) with regions := [r0], here := ⟨1, 0, 0x10200⟩, nodes := [{ nd 0 with state := .running }] }

/-- A tile whose task buffer is full. -/
def sfullTasks : State := stk.updTile 1 (fun x => { x with tasks := List.replicate 1024 tk })

theorem witness_TaskEventArrivals :
    (let p := pk (.task tk) .tsk (.tile 1)
     let s := arrivedAt p stk
     s.packet s.here.item = some p ∧ behind p s.arrived = false ∧ refused (lessPacket s p) p = false ∧ ofPlacement s 1 tk = true ∧
     (handlerEntry s 1 tk.label).isSome = true ∧ refused (lessPacket (arrivedAt p sfullTasks) p) p = true) ∧
    (let s : State := { (stk.updTile 1 (fun x => { x with tasks := [tk], ready := [5] })) with here := ⟨1, 0, 0⟩ }
     freeNative s 1 = some 0 ∧ mayDispatch s 1 = true ∧ (handlerEntry s 1 tk.label).isSome = true ∧ detTile s 1 = false ∧
     (pickTask s 1).map Prod.fst = some tk ∧ s.hereTile.pickedAt ≠ some s.cycle ∧
     (s.updTile 1 (fun x => { x with pickedAt := some s.cycle })).hereTile.pickedAt = some s.cycle) ∧
    (freeNative sdet 1 = some 0 ∧ mayDispatch sdet 1 = true ∧ regionOf sdet 1 = some r0 ∧ r0.det = true ∧
      firstTask (sdet.hereTile.tasks.filter (fun j => decide (j.win.toNat < r0.number.toNat))) = some tk) ∧
    (let s : State := { sdet.updTile 1 (fun x => { x with tasks := [{ tk with win := 4 }] }) with threads := [] }
     s.region s.here.item = some r0 ∧ windowCloses s r0 = true) := by
  refine ⟨?_, ?_, ?_, ?_⟩ <;> decide +kernel

theorem witness_TaskEventSteals :
    (let s : State := { stk with here := ⟨1, 0, 0⟩ }
     (freeNative s 1).isSome = true ∧ s.hereTile.tasks = [] ∧ detTile s 1 = false ∧ mayDispatch s 1 = true ∧ s.hereTile.idleFrom + 256 ≤ s.cycle ∧
     probing s 1 = false ∧ probeOrder s 1 = [(3, 0)]) ∧
    (let p := pk (.probe 0) .tsk (.tile 1)
     let s := arrivedAt p (stk.updTile 1 (fun x => { x with tasks := [tk] }))
     s.packet s.here.item = some p ∧ sameRegion s 1 0 = true ∧ oldestTask ((s.tile 1).tasks.filter (stealable s 1)) = some tk) ∧
    (let p := pk (.stolen tk 0) .tsk (.tile 1)
     (arrivedAt p stk).packet 77 = some p ∧ ofPlacement (arrivedAt p stk) 1 tk = true ∧ (handlerEntry (arrivedAt p stk) 1 tk.label).isSome = true ∧
     handlerEntry (arrivedAt p stk) 1 6 = none ∧ stolenHeld (arrivedAt p stk) 1 = false) ∧
    (let p := pk (.stolenBack tk) .tsk (.tile 1)
     (arrivedAt p stk).packet 77 = some p) := by
  refine ⟨?_, ?_, ?_, ?_⟩ <;> decide +kernel

/-- A thread on its way, waiting for a guest slot of tile 1. -/
def tmv : Thread := { th0 with wait := .migrate, phase := 1 }

theorem witness_TaskEventMigrations :
    (let p := pk (.migrate { w0 with rid := 3, gen := 1 }) .tsk (.tile 1)
     let s := arrivedAt p stk
     let full := arrivedAt p ((stk.setThread 1 4 (some th0)).setThread 1 5 (some th0))
     s.packet 77 = some p ∧ samePlacement s 1 { w0 with rid := 3, gen := 1 } = true ∧ freeGuest s 1 = some 4 ∧ freeGuest full 1 = none ∧
     (full.tile 1).inbound.length < 8 ∧ 8 ≤ ((full.updTile 1 (fun x => { x with inbound := List.replicate 8 (w0, 0) })).tile 1).inbound.length) ∧
    (let s : State := { stk.updTile 1 (fun x => { x with inbound := [(w0, 0)] }) with here := ⟨1, 0, 0⟩ }
     s.hereTile.inbound = [(w0, 0)] ∧ 0 + 4096 ≤ s.cycle) ∧
    (let p := pk (.grant w0 1 4) .rsp (.tile 0)
     let s := arrivedAt p (stk.setThread 0 0 (some tmv))
     s.packet 77 = some p ∧ s.thread 0 0 = some tmv ∧ migrating tmv w0 = true) ∧
    (let p := pk (.refuse w0) .rsp (.tile 0)
     let s := arrivedAt p (stk.setThread 0 0 (some tmv))
     s.packet 77 = some p ∧ s.thread 0 0 = some tmv) ∧
    (let p := pk (.moved ⟨tmv, 4⟩ 3 1) .tsk (.tile 1)
     let s := arrivedAt p stk
     s.packet 77 = some p ∧ (s.tile 1).rid = 3 ∧ (s.tile 1).gen = 1) := by
  refine ⟨?_, ?_, ?_, ?_, ?_⟩ <;> decide +kernel

/-- Tile 1 whose switch has waited since cycle 0 at a ROUTE from the west input. -/
def swait : State :=
  { stk.updTile 1 (fun x => { x with sw := { x.sw with halted := false, waiting := true, mem := [(0, word ((encodeSwitch (.route { noSels with score := .inp .w })).getD 0))] } }) with
    here := ⟨1, 0, 0⟩ }

/-- Tile 1 whose switch waits for SIG, and whose thread waits for a flit. -/
def ssig : State :=
  ({ stk.updTile 1 (fun x => { x with sw := { x.sw with halted := false, waiting := true, mem := [(0, word ((encodeSwitch (.swaitc true)).getD 0))] } }) with
    here := ⟨1, 0, 0⟩ }).setThread 1 0 (some { th0 with wait := .portIn .scalar .n, since := 0 })

theorem witness_TaskEventDeadlocks :
    (longWait swait 1 = true ∧ swait.hereTile.probed = none ∧ haltActive swait 1 = false ∧ waitsOn swait 1 = [0]) ∧
    (longWait ssig 1 = true ∧ (portBlocked ssig 1).map (fun b => b.2.1.since) = some 0 ∧ 0 + 1024 ≤ ssig.cycle ∧
      (switchWaits ssig 1).any (fun w => decide (w.code = 4)) = true) ∧
    (let p := pk (.waitFor 0 1 7) .side (.tile 1)
     let s := arrivedAt p swait
     s.packet 77 = some p ∧ haltActive s 1 = false ∧ (1 : Nat) ≠ 0 ∧ waitsOn (lessPacket s p) 1 ≠ [] ∧ 1 < 3072) ∧
    (let s : State := { stk with threads := [], regions := [r0], cycle := 65536, here := ⟨0, 0, 0x10200⟩, nodes := [{ nd 0 with state := .running }] }
     s.region s.here.item = some r0 ∧ (regionQuietFrom s r0).any (fun c => decide (c + 65536 ≤ s.cycle)) = true ∧ runningNode s r0.blk = some { nd 0 with state := .running }) := by
  refine ⟨?_, ?_, ?_, ?_⟩ <;> decide +kernel

/-- A node admitted, of region `r0`, the Scheduler Unit's item. -/
def sn (n : NodeRec) : State := { inRegion r0 { s0 with threads := [] } with nodes := [n], here := ⟨0, 0, 0x9000⟩ }

theorem witness_SchedulerEventStarts :
    (let n := nd 0
     (sn n).node (sn n).here.item = some n ∧ (sn n).region n.region = some r0 ∧ r0.on = true ∧ n.stop = .no ∧ n.state = .ready ∧ n.begun = true ∧
     r0.tiles.any (tileReady (sn n)) = true) ∧
    (let s : State := { sn (nd 0) with cycle := 65536 }
     s.cycle % 65536 = 0) ∧
    (let n := nd 2
     (sn n).node (sn n).here.item = some n ∧ n.state = .ready ∧ n.kind = 2 ∧ (startCheck (sn n) n).1 = true ∧
     (predicateWord n (startCheck (sn n) n).2).1 = some 0) ∧
    (let n := { nd 2 with path := [0x9000] }
     let s := (sn n).putPaWord (0x9000 + 24) 1
     s.node s.here.item = some n ∧ n.state = .ready ∧ n.kind = 2) ∧
    (let n := { nd 0 with state := .running }
     let s := { (sn n).updTile 0 (fun x => { x with node := some 0x9000, retired := false }) with here := ⟨0, 0, 0⟩ }
     s.hereTile.node = some 0x9000 ∧ s.node 0x9000 = some n ∧ n.stop.saves = false ∧ s.hereTile.retired = false ∧ tileDone s 0 = true ∧
     (retireTile s 0 n).region n.region = some r0) := by
  refine ⟨?_, ?_, ?_, ?_, ?_⟩ <;> decide +kernel

theorem witness_SchedulerEventSignals :
    (∀ g ∈ [Sig.done, .skip, .fail], ∀ k ∈ [1, 2],
      let n := { nd 0 with state := .waiting, pending := k }
      let s : State := { sn n with signals := [⟨0, 0x9000, g⟩] }
      s.signals.find? (fun x => decide (x.succ = s.here.item)) = some ⟨0, 0x9000, g⟩ ∧ s.node 0x9000 = some n ∧ n.aid = 0 ∧ n.state = .waiting ∧
        n.sawDone = false) := by decide +kernel

theorem witness_SchedulerEventDrains :
    (let p := pk (.drain 3 1) .side (.mpt 0)
     let s := arrivedAt p (sn (nd 0))
     s.packet 77 = some p ∧ drainWaits (lessPacket s p) 0 3 1 = false) ∧
    (let p := { pk (.certificate 0 3 1 0 0) .side (.su 0) with src := .mpt 0 }
     let s := arrivedAt p { sn (nd 0) with regions := [] }
     s.packet 77 = some p ∧ s.regions.find? (fun r => decide (r.rid = 3) && decide (r.gen = 1)) = none) ∧
    (∀ cs ∈ [[0, 4], [0]],
      let p := { pk (.certificate 0 3 1 0 0) .side (.su 0) with src := .mpt 0 }
      let n := { nd 0 with state := .draining, stop := .drain cs 0 .failed }
      let s := arrivedAt p (sn n)
      s.packet 77 = some p ∧ s.regions.find? (fun r => decide (r.rid = 3) && decide (r.gen = 1)) = some r0 ∧
      s.nodes.find? (fun n => decide (n.region = r0.blk) && match n.stop with
        | .drain _ _ _ => true
        | _ => false) = some n ∧ s.node n.addr = some n ∧ n.stop = .drain cs 0 .failed) ∧
    (let n := { nd 0 with state := .draining, stop := .drain [4] 0 .failed }
     let s : State := { sn n with cycle := 2 ^ 20 }
     s.node s.here.item = some n ∧ 0 + 2 ^ 20 ≤ s.cycle) := by
  refine ⟨?_, ?_, ?_, ?_⟩ <;> decide +kernel

theorem witness_SchedulerEventPreemptions :
    (let n := { nd 0 with state := .running, stop := .deferred }
     (sn n).node (sn n).here.item = some n ∧ (sn n).region n.region = some r0 ∧ r0.tiles.any (fun t => ((sn n).tap t).taking) = false) ∧
    (let n := { nd 0 with state := .running, stop := .saving 99 }
     let s : State := { (sn n).updMpt 0 (fun m => { m with carve := 0x3001 }) with part := .e768D }
     s.node s.here.item = some n ∧ s.region n.region = some r0 ∧ regionLanded s r0 = true ∧ r0.w * r0.h ≤ (freeUnits s).length) ∧
    (let n := { nd 0 with state := .preempted, resuming := true }
     let r := { r0 with on := false }
     let s : State := { sn n with regions := [r] }
     s.node s.here.item = some n ∧ s.region n.region = some r ∧ rectFree s n.addr r.x0 r.y0 r.w r.h = true) := by
  refine ⟨?_, ?_, ?_⟩ <;> decide +kernel

/-- An Archive lookup in a state. -/
def lk (st : Look) (hit : Bool) : Lookup := ⟨st, 0, [], [], List.replicate 32 0, true, hit, none⟩

/-- A valid entry of the key of zeros. -/
def entry0 : Entry := ⟨setOf (List.replicate 32 0), 0, .valid, 0, List.replicate 32 0, [], 0, 64, 0, 0, 0⟩

theorem witness_SchedulerEventLookups :
    (∀ st ∈ [Look.hash, .probe, .deliver, .insert, .run],
      let n := { nd 1 with state := .running, look := some (lk st false) }
      (sn n).node (sn n).here.item = some n ∧ n.look = some (lk st false) ∧ (lk st true).hit = true) ∧
    findEntry (sn (nd 1)) (List.replicate 32 0) 0 = none ∧
    (let s := (sn (nd 1)).updMpt (bankOf (sn (nd 1)).part (List.replicate 32 0)) (fun m => { m with entries := [entry0] })
     findEntry s (List.replicate 32 0) 0 = some entry0 ∧ entry0.state = .valid) := by
  refine ⟨?_, ?_, ?_⟩ <;> decide +kernel

/-- A gang of this package and package 3, its home or a member. -/
def gang (home : Bool) (start : Option Nat) : Gang := ⟨[(0, 0x9000), (3, 0x7000)], [], [], 0, start, home⟩

/-- A node of that gang. -/
def ng (st : NState) (home : Bool) (start : Option Nat) : NodeRec := { nd 0 with state := st, gang := some (gang home start) }

/-- A message of package 3 for that node. -/
def gmsg (m : GangMsg) : Packet := { pk (.gangMsg 3 0x9000 m) .side (.su 0) with src := .outside }

theorem witness_GangEventResults :
    (∀ m ∈ [GangMsg.prepare 0x7000, .ready 5, .start 5, .done, .fail 9, .abort 2], ∀ h ∈ [true, false],
      let s := arrivedAt (gmsg m) (sn (ng .ready h none))
      s.packet 77 = some (gmsg m) ∧ behind (gmsg m) s.arrived = false ∧ gangOf s 0x9000 = some (ng .ready h none, gang h none)) ∧
    memberIndex (gang true none) 3 = some 1 ∧ (gang true none).readyAt.any (fun r => decide (r.1 = 1)) = false ∧
    gangOf (sn (ng .ready true (some 4))) 0x9000 = some (ng .ready true (some 4), gang true (some 4)) ∧
    (admitMember 0 0x9000 (sn (nd 0))).1 ≠ 0 ∧
    (let u := (sn (ng .running true (some 4))).updGang 0x9000 (fun g => { g with done := keyInsert g.done 1 })
     (u.node 0x9000).isSome = true ∧ u.region 0x10200 = some r0) ∧
    (let s : State := { sn (ng .ready true none) with tick := 1000 }
     (gang true none).began + 1000 * field (nth 0 (nd 0).blk 17) 0 16 ≤ s.tick.toNat) := by
  refine ⟨?_, ?_, ?_, ?_, ?_, ?_, ?_⟩ <;> decide +kernel

/-- A GANG node's block at 0x10300 and its image for two tiles by one at 0x30000; the node's record where it has a start time. -/
def sgn (n : List NodeRec) : State :=
  let s := block 0x10300 3 3 0x10200 [(8, 0x30000), (17, 0x2000A0001)] (block 0x10200 2 0 0x10100 [(8, 0x0102)]
    (block 0x10100 1 0 0x10000 [] (block 0x10000 0 0 0 [(12, 7)] (inRegion r0 { s0 with threads := [] }))))
  let s := ((s.putPaWord 0x30000 0x14D494E5A).putPaWord 0x30008 0x100).putPaWord 0x30028 0x0102
  { s with nodes := n, here := ⟨0, 0, 0x10300⟩ }

/-- The record of that node. -/
def ngStart : NodeRec := { ng .ready false (some 0) with addr := 0x10300, blk := (List.replicate 8 0) ++ [0x30000] }

theorem witness_GangEventStarts :
    (admitMember 0 0x10300 (sgn [])).1 = 0 ∧
    (let s := arrivedAt { pk (.gangMsg 3 0x10300 (.prepare 0x7000)) .side (.su 0) with src := .outside } (sgn [])
     s.packet 77 = some { pk (.gangMsg 3 0x10300 (.prepare 0x7000)) .side (.su 0) with src := .outside } ∧ behind (gmsg .done) s.arrived = false) ∧
    gangOf (sgn [ngStart]) 0x10300 = some (ngStart, gang false (some 0)) ∧ (sgn [ngStart]).region ngStart.region = some r0 ∧
    (readImage (blockCode ngStart.blk) r0.w r0.h (sgn [ngStart])).1.isSome = true := by
  refine ⟨?_, ?_, ?_, ?_, ?_⟩ <;> decide +kernel

/-- Folios of one beat, and a layer of two of them on lane 0 with its home at MPT 0. -/
def y0 : Layer := ⟨17, 0, 0, 0x40000, [⟨0, 64, 0x50000, false, false⟩, ⟨1, 64, 0x50100, false, false⟩]⟩

/-- Lane 0 with that layer in force. -/
def l0 : Lane := { Lane.silent with shelf := some ⟨9, [y0]⟩, started := true }

/-- A state with a lane 0 in a step, the item lane 0. -/
def sr (x : Lane) (step : Nat) : State :=
  let s := s0.updLane 0 (fun _ => x)
  { s with ring := { s.ring with step := step }, here := ⟨0, 0, 0⟩ }

/-- A beat on lane 0 at the stop before the tap's. -/
def bt (k : BeatKind) (d : List Byte) : Beat := ⟨0, 0, k, stopOfTile 0, 0, false, d, none⟩

/-- A tap of tile 0 with that beat arrived. -/
def tp (x : Tap) (b : Beat) : State :=
  let s := (sr l0 5000).placeTap 0 { x with layer := 17 }
  { s with ring := { s.ring with beats := [b] } }

/-- Bytes of the header of folio 0 or 1 of the layer. -/
def hdr (j : Nat) : List Byte := (folioHeader l0 0 y0 j ⟨0, 64, 0, false, false⟩).bytes

/-- A tap in CAPTURE with the header of folio 0 taken. -/
def tcap : Tap := { Tap.idle with state := .capture, len := 64, folio := hdr 0 }

/-- The same with its payload of zeros taken. -/
def tfull : Tap := { tcap with folio := hdr 0 ++ List.replicate 64 0 }

theorem witness_RingEventLanes :
    (∀ r ∈ [true, false],
      let s := sr { l0 with handAt := some 3 } 4
      let s : State := { s with ring := { s.ring with reread := if r then [(17, 0)] else [] } }
      (s.lane s.here.item).handAt = some 3 ∧ (s.lane s.here.item).layer s.here.item = some y0 ∧ 3 ≤ s.ring.step ∧
        (s.lane s.here.item).down = false ∧ rereading s y0.layer = r) ∧
    (∀ k ∈ [BeatKind.header, .payload, .trailer],
      let s := sr { l0 with queue := [(k, hdr 0)] } 4
      let x := (takeOff s 0).lane 0
      s.here.item = 0 ∧ x.queue = [(k, hdr 0)] ∧ x.layer 0 = some y0 ∧ x.beatAt ≤ s.ring.step ∧ x.down = false) ∧
    (let s := sr l0 4
     let s : State := { s with ring := { s.ring with filling := some ⟨10, [y0]⟩ } }
     s.ring.filling = some ⟨10, [y0]⟩ ∧ (s.lane 0).shelf.isSome = true) ∧
    (let s := sr l0 80000
     firstStop (s.lane s.here.item) s.here.item = some (stopOfMpt 0) ∧ (s.lane s.here.item).down = false ∧
       (s.lane s.here.item).started = true ∧ lastPassed s s.here.item (stopOfMpt 0) + 2 * s.part.loop + 65536 ≤ s.ring.step) ∧
    (∀ m ∈ [Body.arm 17 true 4, .arm 17 false 4, .report 17 1 0],
      let p := pk m .side (.mpt 0)
      let s := arrivedAt p (sr l0 4)
      s.packet 77 = some p ∧ behind p s.arrived = false ∧ layerOf s 17 = some y0 ∧ y0.home = 0 ∧ 1 < y0.folios.length ∧
        (17, 1) ∉ s.ring.reread) ∧
    (let s := sr l0 4
     let s : State := { s with ring := { s.ring with reread := [(17, 0)] } }
     (17, 0) ∈ s.ring.reread) := by
  refine ⟨?_, ?_, ?_, ?_, ?_, ?_⟩ <;> decide +kernel

theorem witness_RingEventTaps :
    (let x : Tap := { Tap.idle with state := .armed }
     let b := bt .header (hdr 0)
     nextBeat (tp x b) 0 0 = some b ∧ (tp x b).here.slot = 0 ∧ ((tp x b).tap 0).state = .armed) ∧
    (let b := bt .header (hdr 1)
     nextBeat (tp tcap b) 0 0 = some b ∧ ((tp tcap b).tap 0).state = .capture ∧ b.lane = ((tp tcap b).tap 0).lane) ∧
    (let b := bt .payload (List.replicate 256 0)
     nextBeat (tp tcap b) 0 0 = some b ∧ ((tp tcap b).tap 0).folio ≠ []) ∧
    (let b := bt .trailer (leBytes 8 (crc64 tfull.folio))
     nextBeat (tp tfull b) 0 0 = some b ∧ ((tp tfull b).tap 0).folio ≠ [] ∧ crc64 ((tp tfull b).tap 0).folio = leNat (b.data.take 8) ∧
       ((tp tfull b).tap 0).last = false ∧ ((tp tfull b).tap 0).resume = none) ∧
    (let b := bt .trailer (List.replicate 8 0xA5)
     nextBeat (tp tfull b) 0 0 = some b ∧ crc64 ((tp tfull b).tap 0).folio ≠ leNat (b.data.take 8)) ∧
    (let s := tp { tcap with waiting := [(3, 4, 0, [1, 2])] } (bt .payload [])
     (s.tap 0).waiting = [(3, 4, 0, [1, 2])] ∧ 3 ≤ s.ring.step ∧ (s.tap 0).state ≠ .done) ∧
    (let s := (sr l0 (2 ^ 20)).placeTap 0 tcap
     (s.tap s.here.tile).state = .capture ∧ (s.tap s.here.tile).lane = s.here.item ∧ laneQuiet s s.here.tile s.here.item = true) ∧
    (let s := (sr { l0 with down := true, downAt := 4 } 5).placeTap 0 tcap
     (s.tap s.here.tile).state = .capture ∧ (s.lane s.here.item).down = true ∧
       s.ring.step ≤ (s.lane s.here.item).downAt + s.part.loop + 32) := by
  refine ⟨?_, ?_, ?_, ?_, ?_, ?_, ?_, ?_⟩ <;> decide +kernel

theorem witness_RingEventStalls :
    (∀ c ∈ [none, some 7],
      let s : State := { s0 with ring := { Ring.silent with slowFrom := c, cycle := 7 + 2 ^ 22 } }
      s.ring.slowFrom = c ∧ 7 + 2 ^ 22 ≤ s.ring.cycle) := by decide +kernel

/-! Witnesses of the clauses that the above leave out. -/

/-- A load that is under way, whose instruction waits. -/
def waitingLoad : State :=
  placed.updThread 0 0 (fun x => { x with issued := some (.ld .w64 (.gen 1) (.gen 2) 0), pend := some ⟨9, .load (.gen 1) .w64, 0, [(0, 5)], [], [], none, 0, none, [], [], false, none, []⟩ })

theorem witness_CoreStepGoesOn :
    (waitingLoad.thread 0 0).any (fun x => ready0 waitingLoad x && x.pend.isSome) = true ∧
    (waitingLoad.thread 0 0).bind (fun x => x.issued) = some (.ld .w64 (.gen 1) (.gen 2) 0) := by
  constructor <;> decide +kernel

theorem witness_SwitchStepPlace : State.reset.part.passes 0 = false := by decide

theorem witness_OperandFieldsLoads : s0.me.loadsS 0 = false ∧ s0.me.loadsS 1 = false ∧ s0.hereTile.brkhalt = false := ⟨rfl, rfl, rfl⟩

theorem witness_StoreTiming :
    (∀ sa, justEmptied (sm sa) (sm sa).here.tile 0x100 = false) ∧
    (let s := (sm true).updHere (fun x => { x with emptied := [(0x20, 100)] })
     Fresh s tm ∧ readS (.gen 1) s = .go (sramBase + 0x100) s ∧ readS (.gen 2) s = .go 0x55 s ∧
     checkAccess (sramBase + 0x100) 8 .write 0 s = .ok (.sram 0 0x100, s) ∧ justEmptied s 0 0x100 = true) ∧
    (∀ j, j < 64 → justEmptied sv 0 (0x104 - 4 + j) = false) ∧ (sm false).settled 0 4 = true ∧
    ({ sm false with net := [⟨7, .req, .tile 0, .mpt 0, 0, 0, .access w0 0 0 0x5000 (.store 8 1), []⟩] }).settled 0 tm.uid = false := by
  refine ⟨fun sa => ?_, ⟨⟨rfl, rfl, rfl⟩, rfl, rfl, ?_, ?_⟩, ?_, ?_, ?_⟩
  · cases sa <;> decide +kernel
  · rfl
  all_goals decide +kernel

theorem witness_GlobalLoads :
    LoadsPass sg (.gen 3) ∧ ¬LoadsPass sp (.port .n) ∧ Fresh sg tg ∧ Room (.port .n) sp := by
  refine ⟨⟨?_, 3, rfl, ?_⟩, fun h => ?_, ⟨rfl, rfl, rfl⟩, ?_⟩
  · decide +kernel
  · decide
  · obtain ⟨_, _, h, _⟩ := h
    cases h
  · show (sp.hereTile.sc.cout .n).used sp.cycle + reservedS sp sp.here.tile .n < 4
    decide +kernel

/-- A thread of a region of two tiles, with S1 an address of tile 1's SRAM. -/
def srem (remote : Bool) : State :=
  inRegion r0 (at0 { th0 with s := [(1, 0x7F0000100100)], livemask := if remote then word (2 ^ 63) else 0xFFFFFFE })

theorem witness_RemoteLoads :
    (∀ b, (srem b).cur = some (srem b).me ∧ (srem b).me.pend = none ∧ (srem b).me.loads = [] ∧ Room (.gen 3) (srem b) ∧
      readS (.gen 1) (srem b) = .go 0x7F0000100100 (srem b)) ∧
    (∀ b, checkAccess (0x7F0000100100 + BitVec.ofInt 64 ((0 : BitVec 12).toInt * ldBytes .w64)) 8 .read 0 (srem b) = .ok (.sram 1 0x100, srem b)) ∧
    (staysHere (srem true) 0 0 (srem true).me = true ∧ staysHere (srem false) 0 0 (srem false).me = false) ∧
    (let x := (srem false).me
     x.phase = 0 ∧ x.awaited = [] ∧ x.allRipe 100 = true ∧ (srem false).settled 0 x.uid = true) := by
  refine ⟨fun b => ⟨rfl, ?_, ?_, ?_, ?_⟩, fun b => ?_, ?_, ?_⟩
  · cases b <;> rfl
  · cases b <;> rfl
  · cases b <;> exact ⟨rfl, rfl⟩
  · cases b <;> rfl
  · cases b <;> rfl
  · decide +kernel
  · decide +kernel

theorem witness_FencesWait :
    (let s := s0.updHere (fun x => { x with redMpts := [(0, x.rid)] })
     s.cur = some th0 ∧ readS (.gen 0) s = .go 0 s ∧ owesSeals s = true) ∧
    (let s : State := { s0 with net := [⟨7, .req, .tile 0, .mpt 0, 0, 0, .access w0 0 0 0x5000 (.store 8 1), []⟩] }
     owesSeals s = false ∧ s.settled 0 th0.uid = false) ∧
    (let x : Thread := { tb with barPhase := some (2, 0) }
     let s := inRegion r0 (at0 x)
     s.cur = some x ∧ regionOf s 0 = some r0 ∧ (barAt r0 2).phase = 0) := by
  refine ⟨⟨rfl, rfl, ?_⟩, ?_, ⟨rfl, rfl, ?_⟩⟩ <;> decide +kernel

theorem witness_ArrivalWords :
    NamesWord (word (2 ^ 63 + 0x800100000000)) spool spool 0x800100000000 ∧ (∃ s3 l, checkAccess 0x5000 16 .atomic 0 sg = .ok (.glob 0x5000 l, s3)) ∧
    reached (wordAt spool 0x800100000000).gen 4 = false ∧ (wordAt spool 0x800100000000).st ≠ 2 ∧
    (let s := spool.putPaWord 0x800100000000 (word (2 ^ 63))
     reached (wordAt s 0x800100000000).gen 4 = false ∧ (wordAt s 0x800100000000).st = 2) ∧
    (awaiting.me.pend.map (fun q => (q.bad.isNone, q.again))) = some (true, some (0x800100000000, .load 3)) ∧
    lineBusy spool 0 0x800100000008 = false := by
  refine ⟨.inl ⟨?_, ?_, ?_, ?_, rfl⟩, ⟨_, _, rfl⟩, ?_, ?_, ?_, ?_, ?_⟩ <;> decide +kernel

theorem witness_UnitsAndStreams :
    Sound 3 s0 ∧ DotReady 0 s0 ∧ AccReadable 3 s0 ∧ (7 : Word).toNat % 64 ≠ 0 ∧ ((myStream s0 0).kind = .none) := by
  refine ⟨?_, ⟨?_, ?_, ?_⟩, ⟨?_, ?_⟩, ?_, ?_⟩
  · show 3 ∉ s0.myNative.badAcc
    decide +kernel
  · decide +kernel
  · decide +kernel
  · show 0 ∉ s0.myNative.badAcc
    decide +kernel
  · decide +kernel
  · show 3 ∉ s0.myNative.badAcc
    decide +kernel
  · decide
  · decide +kernel

/-- The region of two tiles with a running node, at tile 0. -/
def srun : State :=
  (inRegion r0 { s0 with nodes := [{ nd 0 with state := .running }] }).updTile 0 (fun x => { x with node := some 0x9000 })

theorem witness_SwitchFaults :
    srun.part.populated srun.here.tile = true ∧ srun.hereTile.node = some 0x9000 ∧ regionOf srun 0 = some r0 ∧
    srun.node 0x9000 = some { nd 0 with state := .running } := by
  refine ⟨?_, ?_, rfl, rfl⟩ <;> decide +kernel

theorem witness_SchedulerMore :
    (rollHeld (sn (nd 0)) (nd 0) = false ∧ (let n := { nd 0 with state := .running, todo := [0] }
      n.todo.any (tileReady (sn n)) = true)) ∧
    (let n := { nd 0 with state := .running, stop := .saving 99 }
     let s := sn n
     (99 < s.cycle ∧ n.stop.saves = true)) := by
  refine ⟨⟨?_, ?_⟩, ?_⟩ <;> decide +kernel

theorem witness_RingMore :
    (let s := tp tcap (bt .payload (List.replicate 256 0))
     ((s.tap 0).noRoom = false ∧ (s.tap 0).taking = true)) ∧
    (let x := { tcap with bytes := List.replicate 512 0, rel := List.replicate 512 (0, 0, 1) }
     x.noRoom = true) ∧
    noticeBlocked (sr l0 4) (pk (.arm 17 true 4) .side (.mpt 0)) = false ∧
    sideBlocked (sr l0 4) 5 (stopOfTile 0) = false ∧ fromAfar l0 0 = false := by
  refine ⟨?_, ?_, ?_, ?_, ?_⟩ <;> decide +kernel

/-- Two words of which a turn performs one (R210). -/
def sPartial : State := { at0 { tv with k := [(1, 0xFFFF)] } with words := 1 }

theorem witness_PartialStores :
    (Fresh sPartial sPartial.me ∧ readV (.gen 1) sPartial = .go 0x00000001_00000000 sPartial ∧ sPartial.words ≠ 0) ∧
    (sPartial.words < (touchedWords 0xFFFF).length ∧ bankSA (sPartial.tile sPartial.here.tile) (0x100 / 0x10000) = false) := by
  refine ⟨⟨⟨rfl, rfl, rfl⟩, rfl, by decide⟩, ?_⟩
  decide +kernel

theorem witness_RemoteLoadsWait :
    (let s := (srem false).updThread 0 0 (fun x => { x with phase := 1 })
     s.me.phase = 1) ∧
    (linesBusy (srem false) (srem false).here.tile = false ∧ (srem false).me.phase ≠ 1) := by decide +kernel

/-- A thread of a member of a gang whose home is package 3; S1 is a scope of package 3 too, S2 a barrier of N = 1 and number 2. -/
def sgang : State :=
  let s := inRegion r0 (at0 { th0 with node := some 0x9000, s := [(1, word (0xFFFF * 2 ^ 32)), (2, 0x20001)] })
  { s with nodes := [{ ng .running false (some 0) with gang := some ⟨[(3, 0x7000), (0, 0x9000)], [], [], 0, some 0, false⟩ }],
           links := { s.links with domain := [0, 3] } }

theorem witness_BarriersAway :
    (sgang.cur = some sgang.me ∧ sgang.me.barPhase = none ∧ readS (.gen 1) sgang = .go (word (0xFFFF * 2 ^ 32)) sgang ∧
      readS (.gen 2) sgang = .go 0x20001 sgang) ∧
    (scopeOf sgang 0 (word (0xFFFF * 2 ^ 32)) = some ⟨0, 0, 0, 0, 0xFFFF⟩ ∧ Scope.contains ⟨0, 0, 0, 0, 0xFFFF⟩ sgang 0 = true ∧
      barHome sgang ⟨0, 0, 0, 0, 0xFFFF⟩ = some (3, 0x7000) ∧ crossDown sgang (.tile 0) (barUnit r0) = none ∧
      owesSeals sgang = false ∧ sgang.settled 0 sgang.me.uid = true) ∧
    (let x : Thread := { tb with barPhase := some (18, 7) }
     let s := inRegion r0 (at0 x)
     s.me.barPhase = some (18, 7) ∧ 16 ≤ 18 ∧ r0.barDone.find? (fun e => decide (e.1 = 7)) = none) ∧
    crossDown sb (barUnit r0) (.tile 0) = none := by
  refine ⟨⟨rfl, rfl, rfl, rfl⟩, ?_, ?_, ?_⟩ <;> decide +kernel

/-- A pool word of MPT 32 whose generation has come, beyond module 0, which is down. -/
def sfar : State :=
  let s : State := at0 { th0 with s := [(1, word (2 ^ 63 + 0x800120000000)), (2, 3)] }
  let s := (s.updMpt 32 (fun m => { m with carve := 0x10001, pool := [(0, ⟨true, 0, 0⟩)] })).putPaWord 0x800120000008 (word (3 * 2 ^ 48))
  { s with links := { s.links with moduleDown := [0] } }

theorem witness_ArrivalWordsFar :
    NamesWord (word (2 ^ 63 + 0x800120000000)) sfar sfar 0x800120000000 ∧
    crossDown (arrivalFold sfar 0x800120000000) (.tile sfar.here.tile) (.mpt (homeMpt (arrivalFold sfar 0x800120000000) 0x800120000000)) = some 0 ∧
    crossDown (arrivalFold sfar 0x800120000000) (.mpt (homeMpt (arrivalFold sfar 0x800120000000) 0x800120000000)) (.tile sfar.here.tile) = some 0 ∧
    reached (wordAt sfar 0x800120000000).gen 3 = true ∧
    (let q : Pend := ⟨9, .nothing, 1, [], [(0, word (2 ^ 63 + 0x800120000000))], [], some (0x800120000000, .load 3), 0, none, [], [], false, none, []⟩
     (awaitVerdict (awaitFold sfar q) q).isSome = true) := by
  refine ⟨.inl ⟨?_, ?_, ?_, ?_, rfl⟩, ?_, ?_, ?_, ?_⟩ <;> decide +kernel

set_option maxRecDepth 4000 in
theorem witness_ForeignChains :
    (blockChain 0x20000 (sl 2 r0)).1 = none ∧ foreignChain (sl 2 r0) 0x20000 = false ∧
    (let s := block 0x20000 4 0 0x10200 [] (sl 1 r0)
     (blockChain 0x20000 s).1 = none ∧ foreignChain s 0x20000 = true) := by decide +kernel

/-- The tenant, graph and region of `sl` with a PURE node at 0x10300: its image at 0x30000 under the placed page table, one argument of 64 bytes
at 0x40000 and one output at 0x48000; S1 names it, S4 bytes of the SRAM, and an ADIG may be under way. -/
def spn (arg : Word) (g : Option Dig) : State :=
  let s := block 0x10300 3 1 0x10200 [(8, 0x30000), (19, word 0x10400)] (block 0x10200 2 0 0x10100 [(8, 0x0102)]
    (block 0x10100 1 0 0x10000 [] (block 0x10000 0 0 0 [(12, 7)]
      (placeTables (inRegion r0 (at0 { th0 with status := 2, s := [(1, 0x10300), (4, sramBase + 0x140)], dig := g }))))))
  let s := [(0x10400, 0x0101), (0x10410, arg), (0x10418, 64), (0x10420, 0x48000), (0x10428, 64)].foldl (fun s e => s.putPaWord e.1 e.2) s
  [(0x30000, 0x14D494E5A), (0x30008, 0x100), (0x30010, 0x1000), (0x30028, 0x0102)].foldl (fun s e => s.putPaWord e.1 e.2) s

set_option maxRecDepth 4000 in
theorem witness_ArchiveDigests :
    (let s := spn 0x40000 none
     s.cur = some s.me ∧ readS (.gen 1) s = .go 0x10300 s ∧ readS (.gen 4) s = .go (sramBase + 0x140) s) ∧
    (∀ g ∈ [(⟨0, [], true⟩ : Dig), ⟨3, [], true⟩, ⟨1, [], false⟩], (spn 0x40000 (some g)).me.dig = some g) ∧
    (blockChain 0x10300 (spn 0x40000 none)).1.map (fun c => (c.length, blockKind (chainBlock c 0), otherTenant (spn 0x40000 none) (chainTenant c)))
      = some (4, 1, false) ∧
    (judgeNode 0x10300 (spn 0x40000 none)).1.map (fun f => match adigArm f (judgeNode 0x10300 (spn 0x40000 none)).2 with
      | .ok _ => true
      | .error _ => false) = some true ∧
    (judgeNode 0x10300 (spn 0x7000000000 none)).1.map (fun f => match adigArm f (judgeNode 0x10300 (spn 0x7000000000 none)).2 with
      | .ok _ => true
      | .error _ => false) = some false ∧
    (let s := spn 0x40000 (some ⟨1, [], false⟩)
     (judgeNode 0x10300 s).1.map (fun f => match (adigKey f (endDig (judgeNode 0x10300 s).2)).1 with
       | .ok _ => true
       | .error _ => false) = some true) := by
  refine ⟨⟨rfl, rfl, rfl⟩, ?_, ?_, ?_, ?_, ?_⟩ <;> decide +kernel

theorem witness_RefusedRegisters :
    GangRefused 3 s0 ∧ GangRefused 0x40000 s0 ∧ GangRefused 1 s0 ∧ ¬GangRefused 2 s0 ∧ ¬GangRefused 0 s0 ∧
    (PositionRefused 0 64 s0 ∧ PositionRefused 0 32 (sq [(0, ahead 0)]) ∧ PositionRefused 0 65600 (sq [(0, ahead 0)]) ∧
      ¬PositionRefused 0 64 (sq [(0, ahead 0)])) := by
  refine ⟨.inl ?_, .inr (.inl ?_), .inr (.inr ⟨?_, .inl ?_⟩), ?_, ?_, .inr (.inr (.inl ?_)), .inr (.inl ?_),
    .inr (.inr (.inr (.inr ⟨?_, ?_⟩))), ?_⟩
  case refine_5 =>
    rintro (h | h | ⟨h, _⟩) <;> revert h <;> decide +kernel
  case refine_6 =>
    rintro (h | h | ⟨h, _⟩) <;> revert h <;> decide +kernel
  case refine_11 =>
    rintro (h | h | h | h | ⟨_, h⟩) <;> revert h <;> decide +kernel
  all_goals decide +kernel

theorem witness_HostSpans :
    (let m := hm 2
     let s : State := { sh with ep := { sh.ep with spans := [⟨m, [(0x800000000108, 0)], [(0x1122, false)]⟩] } }
     (spanOf s m.session.toNat).map (fun x => (x.msg.kind, x.msg.seq)) = some (2, m.seq) ∧ s.ep.msgs = []) ∧
    (let s : State := { sh with links := { sh.links with moduleDown := [0] } }
     wordHeld s 0 0x20000 = true) ∧ wordHeld sh 0 0x20000 = false := by decide +kernel

theorem witness_LinksHeld :
    (let s : State := { s0 with links := { s0.links with moduleDown := [0, 4] } }
     flasterHeld s 3 (.load 0x20000 8 1 0) = true) ∧ flasterHeld s0 3 (.load 0x20000 8 1 0) = false ∧
    (∀ p ∈ [FlasterPkt.ack 9 0, .linkFail 9, .reduction .add false 0x800000000100 5 none, .copy 0x800000000100 [] 0 1 0 0x800000000100 0],
      flasterHeld s0 3 p = false) ∧
    scrubWord s0 0 0x800000000100 = some (((paKey s0 0x800000000100).getD 0), 0x800000000100) ∧
    (let s := s0.updMpt 0 (fun m => { m with carve := 0x1111 })
     0 < carveBytes (s.mpt 0).carve 4 ∧ 0 < carveBytes (s.mpt 0).carve 8 ∧ (scrubWord s 0 (2 ^ 52)).isSome = true) ∧
    (let s : State := { sh with ptp := { sh.ptp with locked := [(0, some gm0)] } }
     keepsMaster s 0 { gm0 with identity := 9 } = true ∧ keepsMaster s 0 { gm0 with identity := 9, priority1 := 1 } = false) := by
  decide +kernel

/-- A thread with a load that is out to a poisoned word, and a later store of its own at the MPT. -/
def sstore (bad : Bool) : State :=
  let l : LoadOut := ⟨0x1000, ⟨4, .load (.gen 3) .w64, 1, [], [], [], none, 0, none, [], [], false, none, []⟩, false⟩
  let p := pk (.access w0 9 0 0x800000000100 (.store 8 5)) .req (.mpt 0)
  let s := arrivedAt p (at0 { th0 with loads := [l] })
  { s with net := [{ pk (.access w0 4 0 0x800000000200 (.load 8)) .req (.mpt 0) with id := 70 }],
           poison := if bad then [(paKey s 0x800000000200).getD 0 / 8] else [] }

theorem witness_StoresWait :
    (let p := pk (.access w0 9 0 0x800000000100 (.store 8 5)) .req (.mpt 0)
     (sstore true).packet 77 = some p ∧ loadsHarmless (lessPacket (sstore true) p) w0 9 = false ∧
     loadsHarmless (lessPacket (sstore false) p) w0 9 = true ∧ behindHeld (lessPacket (sstore true) p) w0 p.id 0x800000000100 = false) ∧
    (let q := { pk (.access w0 8 0 0x800000000100 (.store 8 4)) .side (.mpt 0) with id := 76 }
     behindHeld { s0 with arrived := [q] } w0 77 0x800000000100 = true) ∧
    (isConfig s0 0xFFFFFF0000008 = true ∧ isConfig s0 0x800000000100 = false ∧ paKey s0 0x900000000000 = none ∧ isConfig s0 0x900000000000 = false) ∧
    (paKey s0 0xFFFFFF0000008 = none) := by decide +kernel

theorem witness_CopiesHeld :
    (let p := pk (.push 9 [(.sram 0 0x200, 5, false)] false) .bulk (.tile 0)
     let q := { pk (.push 8 [(.sram 0 0x300, 5, false)] true) .side (.tile 0) with id := 76 }
     pushHeld p { s0 with arrived := [q] } = true ∧ pushHeld p s0 = false) ∧
    (vaOverlap 0 0x5000 0x5008 8 = true ∧ s0.links.moduleDown = []) ∧
    (let e := { es false (edgeReq false) with after := [3] }
     streamHeld { s0 with edges := [{ e with id := 3 }] } e = true ∧ streamHeld s0 e = false) ∧
    (let e := es false (edgeReq false)
     let s : State := { sedge e with words := 4 }
     e.got.length + 8 = 8 + e.got.length ∧ 0 < s.words ∧ flitHeld s e e.place = false) ∧
    (let e := { es false (edgeReq false) with code := 5 }
     hereStream (sedge e) = some e ∧ 0 < e.code ∧ e.code ≤ 5) := by decide +kernel

theorem witness_TilesDrain :
    (let p := pk (.grant w0 1 4) .rsp (.tile 0)
     let s := (arrivedAt p (stk.setThread 0 0 (some tmv))).updTile 0 (fun x => { x with halting := true })
     s.packet 77 = some p ∧ haltActive s 0 = true) ∧
    (let p := pk (.grant w0 1 4) .rsp (.tile 0)
     let s := arrivedAt p (stk.setThread 0 0 (some th0))
     s.packet 77 = some p ∧ s.thread 0 0 = some th0 ∧ migrating th0 w0 = false) ∧
    (let p := pk (.moved ⟨tmv, 4⟩ 3 1) .tsk (.tile 1)
     let s := { arrivedAt p (stk.updTile 1 (fun x => { x with node := some 0x9000 })) with nodes := [{ nd 0 with state := .draining }] }
     s.packet 77 = some p ∧ tileDraining s 1 = true ∧ tileDraining stk 1 = false) := by decide +kernel

theorem witness_SchedulerReruns :
    (let n := { nd 3 with state := .draining, stop := .drain [4] 0 .ready }
     (sn n).node 0x9000 = some n ∧ n.stop.reruns = true) := by decide +kernel

theorem witness_RingHolds :
    (∀ st ∈ [TapState.hold, .capture],
      let b := bt .trailer (List.replicate 8 0xA5)
      let s := tp { tfull with state := st, mid := true } b
      nextBeat s 0 0 = some b ∧ (s.tap 0).state = st ∧ crc64 (s.tap 0).folio ≠ leNat (b.data.take 8)) ∧
    (∀ g ∈ [true, false],
      let s := sr { l0 with begun := g } 80000
      (s.lane s.here.item).begun = g ∧ (s.lane s.here.item).layers s.here.item ≠ [] ∧
        lastPassed s s.here.item (stopOfMpt 0) + 2 * s.part.loop + 65536 ≤ s.ring.step) := by
  constructor <;> decide +kernel

end Sys2Proof.Tests
end

/-! Scalar and control-flow instructions (R304-R316): what each comes to on operands that are read and a destination with room. -/

namespace Sys2Proof.Machine

open Sys2Proof.Spec

/-! Numbers as the model reads them. -/

/-- The model's sign extension of a bit vector's own value is the bit vector's signed value (R10). -/
theorem sextInt_toNat {n : Nat} (x : BitVec n) (hn : 0 < n) : sextInt x.toNat n = x.toInt := by
  have hpow : 2 ^ n = 2 * 2 ^ (n - 1) := by rw [← Nat.pow_succ', Nat.succ_eq_add_one, Nat.sub_add_cancel hn]
  have half : x.toNat < 2 ^ (n - 1) ↔ 2 * x.toNat < 2 ^ n := by omega
  simp only [sextInt, Nat.mod_eq_of_lt x.isLt, half, BitVec.toInt_eq_toNat_cond]

@[simp] theorem signed_eq_toInt (x : Word) : signed x = x.toInt := sextInt_toNat x (by decide)

theorem sext_toNat {n : Nat} (x : BitVec n) (hn : 0 < n) : sext x.toNat n = x.signExtend 64 := by
  rw [sext, sextInt_toNat x hn]
  rfl

@[simp] theorem simm15_eq_signExtend (imm : BitVec 15) : simm15 imm = imm.signExtend 64 := sext_toNat imm (by decide)

@[simp] theorem zimm15_eq_setWidth (imm : BitVec 15) : zimm15 imm = imm.setWidth 64 := by
  simp [zimm15, word, BitVec.ofNat_toNat]

theorem target12_eq (pc : Word) (off : BitVec 12) : target12 pc off = pc + BitVec.ofInt 64 (4 * off.toInt) := by
  rw [target12, sextInt_toNat off (by decide)]
  rfl

theorem target20_eq (pc : Word) (off : BitVec 20) : target20 pc off = pc + BitVec.ofInt 64 (4 * off.toInt) := by
  rw [target20, sextInt_toNat off (by decide)]
  rfl

theorem upper20_eq (off : BitVec 20) : upper20 off = BitVec.ofInt 64 (off.toInt * 4096) := by
  rw [upper20, sextInt_toNat off (by decide)]
  rfl

theorem branchTaken_iff (c : BrCond) (x y : Word) : branchTaken c x y = true ↔ taken c x y := by
  cases c <;> simp [branchTaken, taken, BitVec.lt_def, BitVec.le_def]

/-! The operand forms on operands that are read and a destination with room (R164, R283). -/

theorem roomS_of_room {β : Type} {d : SReg} {s : State} (h : Room d s) (k : Act β) : roomS d s k = k := by
  cases d <;> exact roomS_of k h

theorem readS_cur {r : SReg} {s s1 : State} {v : Word} (h : readS r s = .go v s1) : s1.cur = s.cur := by
  rw [readS_keeps h]
  rfl

@[simp] theorem writeS_here (d : SReg) (v : Word) (lat : Nat) (s : State) : (writeS d v lat s).here = s.here := by
  cases d <;> simp [writeS, writeSAt, State.updTile]

theorem done_word (d : SReg) (v : Word) (lat : Nat) (s : State) : done d v lat 4 s = .go () (retireV v (writeS d v lat s)) := by
  simp [done, retireV]

/-- A meaning of the core whose parts trap, for another cause than a source's parity, takes that trap and does nothing else. -/
theorem coreOp_trap {s : State} {x : Thread} {f : State → Act Unit} {c : TrapInfo} (hc : s.cur = some x) (h : f s = .trap c)
    (hm : c.mark.source = false) : coreOp s f = .next (takeTrap c s) := by
  rw [coreOp_of_cur hc, sourcesFirst_trap h hm, finish_trap]

section Reads
variable {d a b : SReg} {s s1 s2 : State} {z : Thread} {x y : Word}

theorem scalar1_completes {n : Nat} {f : State → Word} (hc : s.cur = some z) (hd : Room d s) :
    scalar1 d n f s = .next (retireAt s.here.tile s.here.slot n (f s) (writeS d (f s) 1 s)) :=
  coreOp_go (u := ()) hc (roomS_of_room hd _)

theorem scalar2_completes {f : Word → Word} (hc : s.cur = some z) (hd : Room d s) (ha : readS a s = .go x s1) :
    scalar2 d a f s = .next (retireV (f x) (writeS d (f x) 1 s1)) := by
  rw [scalar2_next hc (fun _ => roomS_of_room hd) ha, retireV, writeS_here]

theorem scalar3_completes {lat : Nat} {f : Word → Word → Val Word} {w : Word} (hc : s.cur = some z) (hd : Room d s)
    (ha : readS a s = .go x s1) (hb : readS b s1 = .go y s2) (hf : f x y = .ok w) :
    scalar3 d a b lat f s = .next (retireV w (writeS d w lat s2)) := by
  rw [scalar3_next hc (fun _ => roomS_of_room hd) ha hb hf, retireV, writeS_here]

theorem scalar3_traps {lat : Nat} {f : Word → Word → Val Word} {c : TrapInfo} (hc : s.cur = some z) (hd : Room d s)
    (ha : readS a s = .go x s1) (hb : readS b s1 = .go y s2) (hf : f x y = .error c) (hm : c.mark.source = false) :
    scalar3 d a b lat f s = .next (takeTrap c s) := by
  refine coreOp_trap hc ?_ hm
  rw [roomS_of_room hd, ha, Act.andThen_go, hb, Act.andThen_go, hf]
  rfl

/-! Division (R305, R307). -/

/-- With the divider free and the operands read, the divisor alone decides: a result and a busy divider, or ZERODIV and neither. -/
theorem divideOp_outcome {f : Word → Word → Word} (hc : s.cur = some z) (hd : Room d s) (hu : s.hereTile.divUntil ≤ s.cycle)
    (ha : readS a s = .go x s1) (hb : readS b s1 = .go y s2) :
    (y ≠ 0 → divideOp d a b f s = .next (retireV (f x y) (writeS d (f x y) 24
      (s2.updHere (fun t => { t with divUntil := s2.cycle + 24 }))))) ∧
    (y = 0 → divideOp d a b f s = .next (takeTrap (trapOf .zerodiv 0 0) s)) := by
  constructor
  · intro hy
    refine coreOp_go (u := ()) hc ?_
    rw [decide_eq_true hu, needs_true, roomS_of_room hd, ha, Act.andThen_go, hb, Act.andThen_go, decide_eq_false hy, trapsIf_false,
      done_word]
  · intro hy
    refine coreOp_trap hc ?_ rfl
    rw [decide_eq_true hu, needs_true, roomS_of_room hd, ha, Act.andThen_go, hb, Act.andThen_go, decide_eq_true hy, trapsIf_true]

end Reads

/-- Truncated division by sign and magnitude, as R307 writes it. -/
theorem tdiv_eq_sign_mul (x y : Int) : x.tdiv y = (x * y).sign * (x.natAbs / y.natAbs : Nat) := by
  have mag : (x.tdiv y).natAbs = x.natAbs / y.natAbs := Int.natAbs_tdiv x y
  rw [← Int.sign_mul_natAbs (x.tdiv y), mag, Int.sign_tdiv, Int.sign_mul]
  split
  · next hlt => simp [Nat.div_eq_of_lt hlt]
  · rfl

/-- Each instruction of R307 is the division form with the result that its row gives. -/
theorem exec_divideRow {e : (SReg → SReg → SReg → Instr) × (Word → Word → Word)} (he : e ∈ divideRows) (d a b : SReg) (s : State) :
    exec (e.1 d a b) s = divideOp d a b e.2 s := by
  simp only [divideRows, List.mem_cons, List.not_mem_nil, or_false] at he
  obtain rfl | rfl | rfl | rfl := he
  · show divideOp d a b (fun x y => quotWord x y) s = _
    simp only [quotWord, wordOfInt, signed_eq_toInt, tdiv_eq_sign_mul]
  · show divideOp d a b (fun x y => remWord x y) s = _
    simp only [remWord, wordOfInt, signed_eq_toInt, tdiv_eq_sign_mul]
  · rfl
  · show divideOp d a b (fun x y => word (x.toNat % y.toNat)) s = _
    simp only [word, Nat.mod_eq_sub_mul_div]

/-! Checked arithmetic (R308). -/

/-- ADDV and SUBV are the form d, a, b with the exact result checked. -/
theorem exec_checkedRow {e : (SReg → SReg → SReg → Instr) × (Word → Word → Int)} (he : e ∈ checkedRows) (d a b : SReg) (s : State) :
    exec (e.1 d a b) s = scalar3 d a b 1 (fun x y => checkedWord (e.2 x y)) s := by
  simp only [checkedRows, List.mem_cons, List.not_mem_nil, or_false] at he
  obtain rfl | rfl := he
  · show scalar3 d a b 1 (fun x y => checkedWord (signed x + signed y)) s = _
    simp only [signed_eq_toInt]
  · show scalar3 d a b 1 (fun x y => checkedWord (signed x - signed y)) s = _
    simp only [signed_eq_toInt]

theorem checkedWord_of_fits {i : Int} (h : -(2 ^ 63) ≤ i ∧ i ≤ 2 ^ 63 - 1) : checkedWord i = .ok (BitVec.ofInt 64 i) :=
  if_neg (by omega)

theorem checkedWord_of_exceeds {i : Int} (h : i < -(2 ^ 63) ∨ 2 ^ 63 - 1 < i) : checkedWord i = .error (trapOf .overflow 0 0) :=
  if_pos h

/-! Counts of bits (R306). -/

/-- The zero bits above the highest one, whose position is the logarithm. -/
theorem clzFrom_eq (n x : Nat) (hx : x < 2 ^ n) : clzFrom x n = if x = 0 then n else n - 1 - Nat.log2 x := by
  induction n with
  | zero => simp [clzFrom]
  | succ n ih =>
    by_cases hn : x < 2 ^ n
    · have hlog : x ≠ 0 → Nat.log2 x < n := fun h0 => (Nat.log2_lt h0).2 hn
      rw [clzFrom, Nat.div_eq_of_lt hn, if_neg (by decide), ih hn]
      split
      · omega
      · next h0 => have := hlog h0; omega
    · have h0 : x ≠ 0 := by have := Nat.two_pow_pos n; omega
      have hdiv : x / 2 ^ n = 1 := Nat.div_eq_of_lt_le (by omega) (by rw [Nat.pow_succ] at hx; omega)
      have hlog : Nat.log2 x = n := (Nat.log2_eq_iff h0).2 ⟨by omega, hx⟩
      rw [clzFrom, hdiv, if_pos rfl, if_neg h0, hlog]
      omega

theorem ctzFrom_eq (n x : Nat) : ctzFrom x n = ((List.range n).find? (fun i => x.testBit i)).getD n := by
  induction n generalizing x with
  | zero => rfl
  | succ n ih =>
    have tail : ((List.range n).map Nat.succ).find? (fun i => x.testBit i)
        = ((List.range n).find? (fun i => (x / 2).testBit i)).map Nat.succ := by
      simp [List.find?_map, Nat.testBit_succ]
    rw [ctzFrom, List.range_succ_eq_map, List.find?_cons, Nat.testBit_zero]
    by_cases h : x % 2 = 1
    · simp [h]
    · rw [if_neg h, ih, decide_eq_false h, tail]
      cases (List.range n).find? (fun i => (x / 2).testBit i) <;> simp [Nat.add_comm]

theorem popFrom_eq (n x : Nat) : popFrom x n = ((List.range n).filter (fun i => x.testBit i)).length := by
  induction n generalizing x with
  | zero => rfl
  | succ n ih =>
    have tail : (((List.range n).map Nat.succ).filter (fun i => x.testBit i)).length
        = ((List.range n).filter (fun i => (x / 2).testBit i)).length := by
      simp [List.filter_map, Function.comp_def, Nat.testBit_succ]
    rw [popFrom, ih, List.range_succ_eq_map, List.filter_cons, Nat.testBit_zero]
    rcases Nat.mod_two_eq_zero_or_one x with h | h
    · simp [h, tail]
    · simp [h, tail, Nat.add_comm]

/-! Instructions of one operand (R306, R309, R310). -/

/-- Each instruction of one operand is the form d, a with the result that its row gives. -/
theorem exec_unaryRow {i : SReg → SReg → Instr} {f : Word → Word} (h : UnaryRow i f) (d a : SReg) (s : State) :
    exec (i d a) s = scalar2 d a f s := by
  suffices ∃ g, exec (i d a) s = scalar2 d a g s ∧ ∀ x, g x = f x by
    obtain ⟨g, hg, hf⟩ := this
    rw [hg, funext hf]
  cases h with
  | clz =>
    refine ⟨_, rfl, fun x => ?_⟩
    have h0 : x.toNat = 0 ↔ x = 0 := BitVec.toNat_inj (y := 0)
    simp only [word, clzFrom_eq 64 _ x.isLt, h0]
  | ctz =>
    refine ⟨_, rfl, fun x => ?_⟩
    simp only [word, ctzFrom_eq, BitVec.getLsbD]
  | popc =>
    refine ⟨_, rfl, fun x => ?_⟩
    simp only [word, popFrom_eq, BitVec.getLsbD]
  | addi imm =>
    refine ⟨_, rfl, fun x => ?_⟩
    rw [simm15_eq_signExtend]
    beta_reduce
    rw [BitVec.ofInt_add, BitVec.ofInt_natCast, BitVec.ofNat_toNat, BitVec.setWidth_eq]
    rfl
  | andi imm => exact ⟨_, rfl, fun x => by rw [simm15_eq_signExtend]⟩
  | ori imm => exact ⟨_, rfl, fun x => by rw [zimm15_eq_setWidth]⟩
  | xori imm => exact ⟨_, rfl, fun x => by rw [zimm15_eq_setWidth]⟩
  | shli n =>
    refine ⟨_, rfl, fun x => ?_⟩
    apply BitVec.eq_of_toNat_eq
    simp [Nat.shiftLeft_eq]
  | shri n =>
    refine ⟨_, rfl, fun x => ?_⟩
    have hlt : x.toNat / 2 ^ n.toNat < 2 ^ 64 := Nat.lt_of_le_of_lt (Nat.div_le_self _ _) x.isLt
    apply BitVec.eq_of_toNat_eq
    rw [BitVec.toNat_ushiftRight, Nat.shiftRight_eq_div_pow, BitVec.toNat_ofNat, Nat.mod_eq_of_lt hlt]
  | srai n =>
    refine ⟨_, rfl, fun x => ?_⟩
    rw [BitVec.sshiftRight, Int.shiftRight_eq_div_pow]
  | slti imm =>
    refine ⟨_, rfl, fun x => ?_⟩
    have himm : (imm.signExtend 64).toInt = imm.toInt := BitVec.toInt_signExtend_of_le (by decide)
    simp [himm, boolWord]
  | bfx p n => exact ⟨_, rfl, fun x => rfl⟩

theorem lihWord_eq (x : Word) (imm : BitVec 32) : lihWord x imm = BitVec.ofNat 64 (x.toNat % 2 ^ 32 + imm.toNat * 2 ^ 32) := by
  simp [lihWord, field, bitsAt, word]

/-! Control flow (R170, R312-R316). -/

theorem gangStep_of_not_follows {s : State} (h : ¬Follows s) : gangStep s = none := by
  simpa [Follows] using h

@[simp] theorem branchTo_true (pc v : Word) (s : State) : branchTo true pc v s = jump pc v s := rfl

@[simp] theorem branchTo_false (pc v : Word) (s : State) : branchTo false pc v s = retireV v s := rfl

/-- A scalar field written is one update of the present thread, after a push that no thread sees. -/
theorem writeS_eq_upd (d : SReg) (v : Word) (lat : Nat) (s : State) : ∃ w f, writeS d v lat s = State.upd w f ∧ w.cur = s.cur := by
  cases d with
  | gen n => exact ⟨s, _, rfl, rfl⟩
  | port p => exact ⟨s.updHere _, _, rfl, rfl⟩

/-- The present thread is still there after a scalar field is written. -/
theorem writeS_cur {s : State} {z : Thread} (hc : s.cur = some z) (d : SReg) (v : Word) (lat : Nat) :
    ∃ y, (writeS d v lat s).cur = some y := by
  obtain ⟨w, f, hw, hcur⟩ := writeS_eq_upd d v lat s
  exact ⟨f z, by rw [hw, State.cur_upd, hcur, hc, Option.map_some]⟩

/-- A jump changes the thread, its repeat state and the note of what retired, and nothing else. -/
theorem jump_keeps (pc v : Word) (u : State) :
    ∃ th na re, jump pc v u = { u with threads := th, natives := na, retired := re } := by
  have after : ∀ na f re, ∃ th na' re', { State.upd { u with natives := na } f with retired := re }
      = { u with threads := th, natives := na', retired := re' } := by
    intro na f re
    unfold State.upd State.updThread
    split <;> exact ⟨_, _, _, rfl⟩
  unfold jump
  split
  · exact after _ _ _
  · exact after u.natives _ _

/-- The thread goes on at the target, two cycles later (R305, R315). -/
theorem jump_cur {u : State} {y : Thread} (hc : u.cur = some y) (pc v : Word) :
    (jump pc v u).cur = some { y.ready with pc := pc, issueFrom := u.cycle + 2 } := by
  unfold jump
  split
  · show (State.upd (u.updMyNative _) _).cur = _
    rw [State.cur_upd, show (u.updMyNative _).cur = some y from hc]
    rfl
  · show (State.upd u _).cur = _
    rw [State.cur_upd, hc]
    rfl

/-- A jump ends a repeat that is active, and changes nothing else of the native slot (R316). -/
theorem jump_myNative (pc v : Word) (u : State) :
    (jump pc v u).myNative = if u.myNative.rep.active then { u.myNative with rep := Rep.none } else u.myNative := by
  unfold jump
  split
  · show (State.upd (u.updMyNative _) _).myNative = _
    rw [State.upd_myNative, State.myNative_updMyNative]
  · exact State.upd_myNative u _

/-- A jump goes to its target, ends the repeat and leaves all else (R315, R316). -/
theorem jump_goesTo {u : State} {y : Thread} (hc : u.cur = some y) (pc v : Word) : GoesTo u (jump pc v u) pc := by
  have hme := State.me_of_cur (jump_cur hc pc v)
  have hrep : (jump pc v u).myNative.rep.active = false := by
    rw [jump_myNative]
    split
    · rfl
    · next h => simpa using h
  have hacc : ∀ m i j, accAt (jump pc v u).myNative m i j = accAt u.myNative m i j := by
    intro m i j
    rw [jump_myNative]
    split <;> rfl
  obtain ⟨th, na, re, hk⟩ := jump_keeps pc v u
  refine ⟨by rw [hme], hrep, ?_, ?_, ?_, ?_, ⟨?_, ?_, ?_, ?_, hacc⟩, ?_⟩
  iterate 3 · rw [hme, State.me_of_cur hc]; rfl
  · rw [hme, State.me_of_cur hc]
    exact ⟨rfl, rfl, rfl, rfl, rfl, rfl, rfl, rfl, rfl, rfl, rfl, rfl⟩
  all_goals rw [hk]

/-- A jump after the link or the count is written goes to its target from the state that the write leaves. -/
theorem jump_writeS_goesTo {s : State} {z : Thread} (hc : s.cur = some z) (d : SReg) (w : Word) (lat : Nat) (pc v : Word) :
    GoesTo (writeS d w lat s) (jump pc v (writeS d w lat s)) pc := by
  obtain ⟨y, hy⟩ := writeS_cur hc d w lat
  exact jump_goesTo hy pc v

/-! Each transfer on operands that are read: as it runs alone, and as a gang's follower takes it from its leader (R170). -/

section Transfers
variable {a b d : SReg} {s s1 s2 : State} {z : Thread} {x y : Word}

theorem exec_br_alone {c : BrCond} {off : BitVec 12} (hc : s.cur = some z) (ha : readS a s = .go x s1) (hb : readS b s1 = .go y s2)
    (hg : gangStep s2 = none) :
    exec (.br c a b off) s = .next (branchTo (branchTaken c x y) (z.pc + BitVec.ofInt 64 (4 * off.toInt)) 0 s2) := by
  have hme : s2.me = z := by rw [readS_me hb, readS_me ha, State.me_of_cur hc]
  refine coreOp_go (u := ()) hc ?_
  simp only [ha, hb, Act.andThen_go, hg, hme, target12_eq]

theorem exec_br_follower {c : BrCond} {off : BitVec 12} {g : GangOp} (hc : s.cur = some z) (ha : readS a s = .go x s1)
    (hb : readS b s1 = .go y s2) (hg : gangStep s2 = some g) :
    exec (.br c a b off) s = .next (branchTo g.jumped g.next g.value s2) := by
  refine coreOp_go (u := ()) hc ?_
  simp only [ha, hb, Act.andThen_go, hg, followLeader]

theorem exec_jal_alone {off : BitVec 20} (hc : s.cur = some z) (hd : Room d s) (hg : gangStep s = none) :
    exec (.jal d off) s
      = .next (jump (z.pc + BitVec.ofInt 64 (4 * off.toInt)) (z.pc + 4) (writeS d (z.pc + 4) 1 s)) := by
  refine coreOp_go (u := ()) hc ?_
  simp only [roomS_of_room hd, hg, State.me_of_cur hc, target20_eq]

theorem exec_jal_follower {off : BitVec 20} {g : GangOp} (hc : s.cur = some z) (hd : Room d s) (hg : gangStep s = some g) :
    exec (.jal d off) s = .next (jump g.next g.value (writeS d g.value 1 s)) := by
  refine coreOp_go (u := ()) hc ?_
  simp only [roomS_of_room hd, hg]

theorem exec_jalr_alone {imm : BitVec 15} (hc : s.cur = some z) (hd : Room d s) (ha : readS a s = .go x s1)
    (hg : gangStep s1 = none) :
    exec (.jalr d a imm) s = .next (jump (x + imm.signExtend 64) (z.pc + 4) (writeS d (z.pc + 4) 1 s1)) := by
  have hme : s1.me = z := by rw [readS_me ha, State.me_of_cur hc]
  refine coreOp_go (u := ()) hc ?_
  simp only [roomS_of_room hd, ha, Act.andThen_go, hg, hme, sext_toNat imm (by decide)]

theorem exec_jalr_follower {imm : BitVec 15} {g : GangOp} (hc : s.cur = some z) (hd : Room d s) (ha : readS a s = .go x s1)
    (hg : gangStep s1 = some g) : exec (.jalr d a imm) s = .next (jump g.next g.value (writeS d g.value 1 s1)) := by
  refine coreOp_go (u := ()) hc ?_
  simp only [roomS_of_room hd, ha, Act.andThen_go, hg]

theorem exec_loop_alone {off : BitVec 12} (hc : s.cur = some z) (hd : Room a s) (ha : readS a s = .go x s1)
    (hg : gangStep s1 = none) :
    exec (.loop a off) s
      = .next (branchTo (decide (x - 1 ≠ 0)) (z.pc + BitVec.ofInt 64 (4 * off.toInt)) (x - 1) (writeS a (x - 1) 1 s1)) := by
  have hme : s1.me = z := by rw [readS_me ha, State.me_of_cur hc]
  refine coreOp_go (u := ()) hc ?_
  simp only [roomS_of_room hd, ha, Act.andThen_go, hg, hme, target12_eq]

theorem exec_loop_follower {off : BitVec 12} {g : GangOp} (hc : s.cur = some z) (hd : Room a s) (ha : readS a s = .go x s1)
    (hg : gangStep s1 = some g) :
    exec (.loop a off) s = .next (branchTo g.jumped g.next g.value (writeS a g.value 1 s1)) := by
  refine coreOp_go (u := ()) hc ?_
  simp only [roomS_of_room hd, ha, Act.andThen_go, hg, followLeader]

end Transfers

end Sys2Proof.Machine

namespace Sys2Proof.Proofs

open Sys2Proof.Machine Sys2Proof.Spec

/-- Settles O19: a branch is its leader's in a follower, and its condition's elsewhere. -/
theorem branchResults : Obligations.BranchResults := by
  intro c a b off s s1 s2 z x y hc ha hb
  have hc2 : s2.cur = some z := by rw [readS_cur hb, readS_cur ha, hc]
  refine ⟨fun hf ht => ?_, fun hf ht => ?_, fun g hg hj => ?_, fun g hg hj => ?_⟩
  · refine ⟨_, by rw [exec_br_alone hc ha hb (gangStep_of_not_follows hf), (branchTaken_iff c x y).2 ht, branchTo_true], ?_⟩
    have hgo := jump_goesTo hc2 (z.pc + BitVec.ofInt 64 (4 * off.toInt)) 0
    have ⟨_, _, hs, hv, hk, _, ⟨hmem, _⟩, _⟩ := hgo
    have hme : s2.me = z := State.me_of_cur hc2
    have hmem2 : s2.mem = s.mem := by rw [readS_keeps hb, readS_keeps ha]
    exact ⟨hgo, by rw [hs, hme], by rw [hv, hme], by rw [hk, hme], by rw [hmem, hmem2]⟩
  · have hnot : branchTaken c x y = false := Bool.eq_false_iff.2 (mt (branchTaken_iff c x y).1 ht)
    rw [exec_br_alone hc ha hb (gangStep_of_not_follows hf), hnot, branchTo_false]
  · exact ⟨_, by rw [exec_br_follower hc ha hb hg, hj, branchTo_true], jump_goesTo hc2 g.next g.value⟩
  · rw [exec_br_follower hc ha hb hg, hj, branchTo_false]

/-- Settles O20: the link is written in the state that the target's source leaves, and the jump follows it. -/
theorem jumpResults : Obligations.JumpResults := by
  refine ⟨?_, ?_, ?_, ?_⟩
  · intro d off s z hc hd hf
    exact ⟨_, exec_jal_alone hc hd (gangStep_of_not_follows hf), jump_writeS_goesTo hc d _ 1 _ _⟩
  · intro d off s z g hc hd hg
    exact ⟨_, exec_jal_follower hc hd hg, jump_writeS_goesTo hc d _ 1 _ _⟩
  · intro d a imm s s1 z x hc hd ha hf
    have hc1 : s1.cur = some z := (readS_cur ha).trans hc
    exact ⟨_, exec_jalr_alone hc hd ha (gangStep_of_not_follows hf), jump_writeS_goesTo hc1 d _ 1 _ _⟩
  · intro d a imm s s1 z x g hc hd ha hg
    have hc1 : s1.cur = some z := (readS_cur ha).trans hc
    exact ⟨_, exec_jalr_follower hc hd ha hg, jump_writeS_goesTo hc1 d _ 1 _ _⟩

/-- Settles O21: the count is written, and the branch is taken on what is written. -/
theorem loopResults : Obligations.LoopResults := by
  intro a off s s1 z x hc hd ha
  have hc1 : s1.cur = some z := (readS_cur ha).trans hc
  refine ⟨fun hf hx => ?_, fun hf hx => ?_, fun g hg hj => ?_, fun g hg hj => ?_⟩
  · have hx0 : x - 1 ≠ 0 := fun h => hx (sub_eq_zero.1 h)
    exact ⟨_, by rw [exec_loop_alone hc hd ha (gangStep_of_not_follows hf), decide_eq_true hx0, branchTo_true],
      jump_writeS_goesTo hc1 a _ 1 _ _⟩
  · subst hx
    rw [exec_loop_alone hc hd ha (gangStep_of_not_follows hf), sub_self, decide_eq_false (not_not.2 rfl), branchTo_false]
  · exact ⟨_, by rw [exec_loop_follower hc hd ha hg, hj, branchTo_true], jump_writeS_goesTo hc1 a _ 1 _ _⟩
  · rw [exec_loop_follower hc hd ha hg, hj, branchTo_false]

/-- Settles O14: each instruction of the table is the division form. -/
theorem divisionResults : Obligations.DivisionResults := by
  intro e he d a b s s1 s2 z x y hc hd hu ha hb
  rw [exec_divideRow he]
  exact divideOp_outcome hc hd hu ha hb

/-- Settles O15: ADDV and SUBV check the exact result, which fits or exceeds 64 signed bits. -/
theorem checkedArithmetic : Obligations.CheckedArithmetic := by
  intro e he d a b s s1 s2 z x y hc hd ha hb
  rw [exec_checkedRow he]
  exact ⟨fun h => scalar3_completes hc hd ha hb (checkedWord_of_fits h),
    fun h => scalar3_traps hc hd ha hb (checkedWord_of_exceeds h) rfl⟩

/-- Settles O17: LI is the form d alone, and LIH reads d before it writes it. -/
theorem wideConstantResults : Obligations.WideConstantResults := by
  constructor
  · intro d imm s z hc hd
    rw [← sext_toNat imm (by decide)]
    exact scalar1_completes hc hd
  · intro d imm s s1 z x hc hd hr
    refine coreOp_go (u := ()) hc ?_
    rw [roomS_of_room hd, readWrite, hr, Act.andThen_go, lihWord_eq, done]

theorem scalarUnary : ScalarUnary := by
  intro i f h d a s s1 z x hc hd ha
  rw [exec_unaryRow h]
  exact scalar2_completes hc hd ha

theorem upperConstant : UpperConstant := by
  constructor
  · intro d off s z hc hd
    rw [← upper20_eq, retireV, writeS_here]
    exact scalar1_completes hc hd
  · intro d off s z hc hd
    rw [← upper20_eq, retireV, writeS_here, ← State.me_of_cur hc]
    exact scalar1_completes hc hd

/-- Settles O18: the rows of one operand are the form d, a, and the upper constants the form d alone. -/
theorem scalarUnaryAndUpperResults : Obligations.ScalarUnaryAndUpperResults := ⟨scalarUnary, upperConstant⟩

end Sys2Proof.Proofs

/-! Integer vector instructions (R318, R319, R322): elements packed under a mask, and the results on them as bit vectors. -/

namespace Sys2Proof.Machine

open Sys2Proof.Spec

/-! Elements (R318). -/

theorem packNat_lt (w : Nat) (xs : List Nat) : packNat w xs < 2 ^ (w * xs.length) := by
  induction xs with
  | nil => simp [packNat]
  | cons x xs ih =>
    have low : x % 2 ^ w < 2 ^ w := Nat.mod_lt _ (Nat.two_pow_pos w)
    calc packNat w (x :: xs) < 2 ^ w * (packNat w xs + 1) := by rw [packNat, Nat.mul_add]; omega
      _ ≤ 2 ^ w * 2 ^ (w * xs.length) := Nat.mul_le_mul_left _ ih
      _ = 2 ^ (w * (x :: xs).length) := by rw [← Nat.pow_add, List.length_cons, Nat.mul_succ, Nat.add_comm]

/-- Each element stands at its place, modulo 2^w. -/
theorem packNat_elem (w : Nat) (xs : List Nat) (j : Nat) (hj : j < xs.length) :
    packNat w xs / 2 ^ (w * j) % 2 ^ w = xs[j] % 2 ^ w := by
  induction xs generalizing j with
  | nil => exact absurd hj (Nat.not_lt_zero j)
  | cons x xs ih =>
    cases j with
    | zero => simp [packNat]
    | succ j =>
      have high : packNat w (x :: xs) / 2 ^ w = packNat w xs := by
        rw [packNat, Nat.add_mul_div_left _ _ (Nat.two_pow_pos w), Nat.mod_div_self, Nat.zero_add]
      rw [Nat.mul_succ, Nat.add_comm, Nat.pow_add, ← Nat.div_div_eq_div_mul, high]
      exact ih j (Nat.lt_of_succ_lt_succ hj)

theorem ofNat_toNat_same {n : Nat} (x : BitVec n) : BitVec.ofNat n x.toNat = x := by
  rw [BitVec.ofNat_toNat, BitVec.setWidth_eq]

theorem lane_toNat (w : Nat) (v : Vec) (j : Nat) : (Spec.lane w v j).toNat = elemAt v w j := by
  rw [Spec.lane, BitVec.extractLsb'_toNat, Nat.shiftRight_eq_div_pow, elemAt]

theorem lane_eq_ofNat_elemAt (w : Nat) (v : Vec) (j : Nat) : Spec.lane w v j = BitVec.ofNat w (elemAt v w j) := by
  rw [← lane_toNat, ofNat_toNat_same]

/-- An element of packed elements that fit in a register is the one packed there. -/
theorem lane_packElems {w : Nat} {xs : List Nat} (hlen : w * xs.length ≤ 512) (j : Nat) (hj : j < xs.length) :
    Spec.lane w (packElems w xs) j = BitVec.ofNat w xs[j] := by
  have fits : packNat w xs < 2 ^ 512 := Nat.lt_of_lt_of_le (packNat_lt w xs) (by gcongr; decide)
  have kept : (packElems w xs).toNat = packNat w xs := by
    rw [packElems, BitVec.toNat_ofNat]
    omega
  apply BitVec.eq_of_toNat_eq
  rw [lane_toNat, elemAt, kept, packNat_elem w xs j hj, BitVec.toNat_ofNat]

theorem activeElem_iff_on (w : Nat) (m : Word) (j : Nat) : activeElem m (w / 8) j = true ↔ On w m j := by
  rw [activeElem, decide_eq_true_iff, On, ← BitVec.toNat_inj, BitVec.extractLsb'_toNat, BitVec.toNat_allOnes,
    Nat.shiftRight_eq_div_pow, field, bitsAt]

theorem keepOf_eq_keep (d : VReg) (s : State) : keepOf d s = Spec.keep d s := by
  cases d <;> rfl

/-- A destination under a mask takes the results modulo 2^w at the active places, and keeps the others (R319). -/
theorem maskedElems_masked {w : Nat} {m : Word} {old : Vec} {res : Nat → Nat} {f : Nat → BitVec w}
    (hf : ∀ j, BitVec.ofNat w (res j) = f j) : Masked w m old (maskedElems w m old res) f := by
  intro j hj
  have elem : Spec.lane w (maskedElems w m old res) j
      = BitVec.ofNat w (if activeElem m (w / 8) j then res j else elemAt old w j) := by
    rw [maskedElems, lane_packElems (by simpa [lanesOf] using Nat.mul_div_le 512 w) j (by simpa [lanesOf] using hj),
      List.getElem_map, List.getElem_range]
  rw [elem, ← activeElem_iff_on]
  exact ⟨fun h => by rw [if_pos h, hf], fun h => by rw [if_neg h, lane_eq_ofNat_elemAt]⟩

/-! Values of integer types (R232). -/

theorem ityWidth_pos (t : ITy) : 0 < ityWidth t := by cases t <;> decide

theorem ityVal_toNat (t : ITy) (u : BitVec (ityWidth t)) : ityVal t u.toNat = num t u := by
  rw [ityVal, num, sextInt_toNat u (ityWidth_pos t), Nat.mod_eq_of_lt u.isLt]

theorem ofNat_ityBits (t : ITy) (i : Int) : BitVec.ofNat (ityWidth t) (ityBits t i) = BitVec.ofInt (ityWidth t) i := by
  apply BitVec.eq_of_toNat_eq
  rw [BitVec.toNat_ofInt, BitVec.toNat_ofNat, ityBits, ← BitVec.toNat_ofInt, Nat.mod_eq_of_lt (BitVec.isLt _)]

/-! The operand form on operands that are read and a destination with room (R164, R287). -/

theorem roomV_of_room {β : Type} {d : VReg} {s : State} (h : RoomV d s) (k : Act β) : roomV d s k = k := by
  cases d with
  | gen n =>
    have loaded : s.me.loadsV n = false := h
    simp [roomV, loaded]
  | port p =>
    have free : (s.hereTile.ve.cout p).used s.cycle + reservedV s s.here.tile p < 4 := h
    simp [roomV, free]

section Forms
variable {d a b : VReg} {k : Nat} {s s1 s2 s3 : State} {z : Thread} {x y : Vec} {m : Word}
variable (hc : s.cur = some z) (hd : RoomV d s) (ha : readV a s = .go x s1) (hb : readV b s1 = .go y s2) (hk : readK k s2 = .go m s3)
include hc hd ha hb hk

theorem vector3_completes {lat : Nat} {f : State → Vec → Vec → Word → Vec} :
    vector3 d a b k lat f s = .next (retireV 0 (writeV d (f s3 x y m) lat s3)) := by
  refine coreOp_go (u := ()) hc ?_
  rw [roomV_of_room hd, ha, Act.andThen_go, hb, Act.andThen_go, hk, Act.andThen_go]
  rfl

/-- An instruction on patterns whose meaning is `f` modulo 2^w writes `f` of the elements under the mask. -/
theorem vecBit_completes {t : ITy} {g : Nat → Nat → Nat} {f : BitVec (ityWidth t) → BitVec (ityWidth t) → BitVec (ityWidth t)}
    (hg : ∀ u v, BitVec.ofNat (ityWidth t) (g u.toNat v.toNat) = f u v) :
    ∃ r, vecBit t d a b k g s = .next (retireV 0 (writeV d r 2 s3))
      ∧ Masked (ityWidth t) m (Spec.keep d s3) r (fun j => f (Spec.lane _ x j) (Spec.lane _ y j)) := by
  refine ⟨_, vector3_completes hc hd ha hb hk, ?_⟩
  rw [keepOf_eq_keep]
  exact maskedElems_masked fun j => by rw [← hg, lane_toNat, lane_toNat]

/-- An instruction on values whose meaning is `f` modulo 2^w writes `f` of the elements under the mask. -/
theorem vecInt_completes {t : ITy} {lat : Nat} {g : Int → Int → Int}
    {f : BitVec (ityWidth t) → BitVec (ityWidth t) → BitVec (ityWidth t)}
    (hg : ∀ u v, BitVec.ofInt (ityWidth t) (g (num t u) (num t v)) = f u v) :
    ∃ r, vecInt t d a b k lat g s = .next (retireV 0 (writeV d r lat s3))
      ∧ Masked (ityWidth t) m (Spec.keep d s3) r (fun j => f (Spec.lane _ x j) (Spec.lane _ y j)) := by
  refine ⟨_, vector3_completes hc hd ha hb hk, ?_⟩
  rw [keepOf_eq_keep]
  exact maskedElems_masked fun j => by
    rw [ofNat_ityBits, ← hg, ← ityVal_toNat, ← ityVal_toNat, lane_toNat, lane_toNat]

end Forms

/-! Results on the elements (R322): the model computes on patterns and on values, and modulo 2^w these are operations on bit
vectors. -/

section Patterns
variable {w : Nat} (u v : BitVec w)

theorem ofNat_land_not : BitVec.ofNat w (Nat.land u.toNat (2 ^ w - 1 - v.toNat)) = u &&& ~~~v := by
  rw [← BitVec.toNat_not]
  exact ofNat_toNat_same (u &&& ~~~v)

theorem ofNat_mul_two_pow (n : Nat) : BitVec.ofNat w (u.toNat * 2 ^ n) = u <<< n := by
  apply BitVec.eq_of_toNat_eq
  rw [BitVec.toNat_ofNat, BitVec.toNat_shiftLeft, Nat.shiftLeft_eq]

theorem ofNat_div_two_pow (n : Nat) : BitVec.ofNat w (u.toNat / 2 ^ n) = u >>> n := by
  rw [← Nat.shiftRight_eq_div_pow, ← BitVec.toNat_ushiftRight, ofNat_toNat_same]

end Patterns

section Values
variable {t : ITy} (u v : BitVec (ityWidth t))

theorem ofInt_num : BitVec.ofInt (ityWidth t) (num t u) = u := by
  rw [num]
  split
  · exact BitVec.ofInt_toInt
  · rw [BitVec.ofInt_natCast, ofNat_toNat_same]

theorem ofInt_num_add : BitVec.ofInt (ityWidth t) (num t u + num t v) = u + v := by
  rw [BitVec.ofInt_add, ofInt_num, ofInt_num]

theorem ofInt_num_sub : BitVec.ofInt (ityWidth t) (num t u - num t v) = u - v := by
  rw [Int.sub_eq_add_neg, BitVec.ofInt_add, BitVec.ofInt_neg, ofInt_num, ofInt_num, BitVec.sub_eq_add_neg]

theorem ofInt_num_mul : BitVec.ofInt (ityWidth t) (num t u * num t v) = u * v := by
  rw [BitVec.ofInt_mul, ofInt_num, ofInt_num]

theorem ofInt_num_mulHigh : BitVec.ofInt (ityWidth t) (num t u * num t v / (2 ^ ityWidth t : Nat))
    = BitVec.ofInt (ityWidth t) (num t u * num t v / 2 ^ ityWidth t) := by
  rw [Int.natCast_pow, Int.cast_ofNat_Int]

theorem ofInt_num_min : BitVec.ofInt (ityWidth t) (if num t v < num t u then num t v else num t u)
    = if num t u ≤ num t v then u else v := by
  by_cases h : num t u ≤ num t v
  · rw [if_neg (Int.not_lt.2 h), if_pos h, ofInt_num]
  · rw [if_pos (Int.not_le.1 h), if_neg h, ofInt_num]

/-- Where the values are equal, so are the patterns, and either is the maximum. -/
theorem ofInt_num_max : BitVec.ofInt (ityWidth t) (if num t u < num t v then num t v else num t u)
    = if num t u ≤ num t v then v else u := by
  obtain h | h | h := Int.lt_trichotomy (num t u) (num t v)
  · rw [if_pos h, if_pos (Int.le_of_lt h), ofInt_num]
  · rw [if_neg (by omega), if_pos (Int.le_of_eq h), h, ofInt_num]
  · rw [if_neg (by omega), if_neg (Int.not_le.2 h), ofInt_num]

/-- The clamp is the nearest value between the bounds, as R322 writes it. -/
theorem ityClamp_eq_max_min (t : ITy) (i : Int) : ityClamp t i = max (ityLeast t) (min (ityGreatest t) i) := by
  have bounds : ityLeast t ≤ ityGreatest t := by cases t <;> decide
  rw [ityClamp]
  split_ifs <;> omega

theorem ofNat_sextInt_div_two_pow (n : Nat) :
    BitVec.ofNat (ityWidth t) (ityBits t (sextInt u.toNat (ityWidth t) / (2 ^ n : Nat))) = u.sshiftRight n := by
  rw [ofNat_ityBits, sextInt_toNat u (ityWidth_pos t), ← Int.shiftRight_eq_div_pow, BitVec.sshiftRight]

end Values

end Sys2Proof.Machine

namespace Sys2Proof.Proofs

open Sys2Proof.Machine Sys2Proof.Spec

/-- Settles O22: each row is computed element by element on values or on patterns, and is its operation modulo 2^w. -/
theorem vectorIntegerResults : Obligations.VectorIntegerResults := by
  intro e he t d a b k s s1 s2 s3 z x y m hc hd ha hb hk
  simp only [laneRows, List.mem_cons, List.not_mem_nil, or_false] at he
  obtain rfl | rfl | rfl | rfl | rfl | rfl | rfl | rfl | rfl | rfl | rfl | rfl | rfl | rfl | rfl | rfl := he
  · exact vecInt_completes hc hd ha hb hk ofInt_num_add
  · exact vecInt_completes hc hd ha hb hk ofInt_num_sub
  · exact vecInt_completes hc hd ha hb hk ofInt_num_mul
  · exact vecInt_completes hc hd ha hb hk ofInt_num_mulHigh
  · exact vecInt_completes hc hd ha hb hk ofInt_num_min
  · exact vecInt_completes hc hd ha hb hk ofInt_num_max
  · exact vecBit_completes hc hd ha hb hk fun u v => ofNat_toNat_same (u &&& v)
  · exact vecBit_completes hc hd ha hb hk fun u v => ofNat_toNat_same (u ||| v)
  · exact vecBit_completes hc hd ha hb hk fun u v => ofNat_toNat_same (u ^^^ v)
  · exact vecBit_completes hc hd ha hb hk ofNat_land_not
  · exact vecBit_completes hc hd ha hb hk fun u v => ofNat_mul_two_pow u _
  · exact vecBit_completes hc hd ha hb hk fun u v => ofNat_div_two_pow u _
  · exact vecBit_completes hc hd ha hb hk fun u v => ofNat_sextInt_div_two_pow u _
  · exact vecInt_completes hc hd ha hb hk fun u v => congrArg _ (ityClamp_eq_max_min t _)
  · exact vecInt_completes hc hd ha hb hk fun u v => congrArg _ (ityClamp_eq_max_min t _)
  · exact vecInt_completes hc hd ha hb hk fun u v => rfl

end Sys2Proof.Proofs
